-- ==== Sys2Proof/Word.lean ====
section
/-! DEFINITION. The word types of the part: bytes, addresses, sequence values, frames. -/

namespace Sys2Proof

/-- One byte as it travels on a port. -/
abbrev Byte := BitVec 8

/-- An Ethernet MAC address; bit 47 is the most significant bit of the first byte on the wire. -/
abbrev Mac := BitVec 48

/-- An IPv4 address taken as a 32-bit number (R124). -/
abbrev Ip4 := BitVec 32

/-- A 32-bit sequence value, pair generation or clock second (conventions of the overview). -/
abbrev Word32 := BitVec 32

/-- A 16-bit mirror sequence number, epoch, port number or EtherType. -/
abbrev Word16 := BitVec 16

/-- A whole frame without its FCS, the destination MAC's first byte first. -/
abbrev Frame := List Byte

/-- The broadcast address. -/
def broadcastMac : Mac := 0xFFFFFFFFFFFF#48

end Sys2Proof
end

