-- ==== Sys2Proof/Syntax.lean ====
section
/-! DEFINITION. The commands of the part: one constructor for each row of spec/opcode_table.json, with its operands. -/

namespace Sys2Proof

/-- The three ports (overview, Ports). -/
inductive Port where
  | p | w | s
  deriving DecidableEq, Repr

/-- The two paths between the peers: the S-port, and the tunnel VLAN over the W-port. -/
inductive PathId where
  | primary | secondary
  deriving DecidableEq, Repr

/-- A frame as it arrives at a port: all its bytes, the four of its FCS last, and whether that FCS is right (R1). -/
structure RxFrame where
  bytes   : List Byte
  fcsGood : Bool
  deriving DecidableEq, Repr

/-- One step of the part. A row whose request waits in the agent's queue (READ to UNDEFINED_COMMAND) has no operand
here: its operands are the fields of the request at the head of that queue (R164). -/
inductive Instr where
  | powerOn
  | pinReset
  | softReset
  | pPortFrameReceive (f : RxFrame)
  | wPortFrameReceive (f : RxFrame)
  | sPortFrameReceive (f : RxFrame)
  | frameTransmitComplete (port : Port)
  | clockTick
  | patrolStep
  | holdTimeout
  | coalesceTimerExpiry
  | replayTimerExpiry
  | revertTimerExpiry
  | ackTimerExpiry
  | helloTimerExpiry
  | deadTimerExpiry (path : PathId)
  | listenTimerExpiry
  | drainTimerExpiry
  | graceTimerExpiry
  | announceSpacingExpiry
  | keepaliveTimerExpiry
  | noticeHoldoffExpiry
  | drained
  | deltaBuild
  | read
  | readCountersClear
  | write
  | writeConfig
  | writeZones
  | writeTimeouts
  | writeStatus
  | writeClock
  | install
  | find
  | remove
  | keepalive
  | start
  | stop
  | take
  | yield
  | resume
  | resumePath
  | forceFault
  | clearErrors
  | clearStatus
  | clockRun
  | clockHalt
  | clockSet
  | runtRequest
  | undefinedCommand
  deriving DecidableEq, Repr

end Sys2Proof
end

