-- ==== Sys2Proof/WellFormed.lean ====
section
/-! DEFINITION. Well-formed commands: the checks that an operand must pass to be one a port can deliver. -/

namespace Sys2Proof

/-- A frame whose FCS is right holds at least the four bytes of that FCS (R1). -/
def RxFrame.wf (f : RxFrame) : Bool := !f.fcsGood || decide (4 ≤ f.bytes.length)

/-- The check of each command: the received frames are well formed; every other operand is an enumeration whose values
are all well formed. -/
def Instr.wf : Instr → Bool
  | .pPortFrameReceive f => f.wf
  | .wPortFrameReceive f => f.wf
  | .sPortFrameReceive f => f.wf
  | .powerOn | .pinReset | .softReset | .frameTransmitComplete _ | .clockTick | .patrolStep | .holdTimeout => true
  | .coalesceTimerExpiry | .replayTimerExpiry | .revertTimerExpiry | .ackTimerExpiry | .helloTimerExpiry => true
  | .deadTimerExpiry _ | .listenTimerExpiry | .drainTimerExpiry | .graceTimerExpiry | .announceSpacingExpiry => true
  | .keepaliveTimerExpiry | .noticeHoldoffExpiry | .drained | .deltaBuild | .read | .readCountersClear => true
  | .write | .writeConfig | .writeZones | .writeTimeouts | .writeStatus | .writeClock => true
  | .install | .find | .remove | .keepalive | .start | .stop | .take | .yield | .resume | .resumePath => true
  | .forceFault | .clearErrors | .clearStatus | .clockRun | .clockHalt | .clockSet => true
  | .runtRequest | .undefinedCommand => true

end Sys2Proof
end

