-- ==== Sys2Proof/Decode.lean ====
section
/-! DEFINITION. The command that a word spells by the table's bits. -/

namespace Sys2Proof

/-- No row of spec/opcode_table.json gives bits: the commands are frames, events and requests, not words. So no word
spells a command. The byte codes of the management requests (R189) are read by the agent from its queue
(Sys2Proof.Machine.Request.row). -/
def decodeTableWord (_nbits _w : Nat) : Option Instr := none

end Sys2Proof
end

