-- ==== Sys2Proof/Config.lean ====
section
/-! DEFINITION. What is fixed for the part (capacities, codes of the layouts) and the free values: constants without a
body that stand for what the spec leaves open. -/

namespace Sys2Proof.Config

/-! ## Capacities -/

/-- Handles of the record store (R24). -/
def handles : Nat := 32768
/-- Buckets of the key table (R29). -/
def buckets : Nat := 16384
/-- Bucket slots, and the position of the first stash slot (R29). -/
def bucketSlots : Nat := 65536
/-- Stash slots shared by all buckets (R29). -/
def stashSlots : Nat := 32
/-- Key slots in all: the geometry a hello carries (R121). -/
def keySlots : Nat := 65568
/-- Frames the P-port transmit queue holds (R2). -/
def pQueueRoom : Nat := 64
/-- Frames the W-port transmit queue holds (R2). -/
def wQueueRoom : Nat := 128
/-- Frames the S-port transmit queue holds (R2). -/
def sQueueRoom : Nat := 80
/-- Entries of the hold queue (R73). -/
def holdRoom : Nat := 48
/-- Frames of the replay queue (R93). -/
def replayRoom : Nat := 64
/-- Bytes of deltas in one DATA frame (5.4). -/
def deltaRoom : Nat := 1408
/-- Bytes of payload in one response (R164). -/
def responseRoom : Nat := 1408
/-- Handles of the refresh list (R117). -/
def refreshRoom : Nat := 16
/-- Requests that wait at the agent (R163). -/
def requestRoom : Nat := 8
/-- Records of the role history (R120). -/
def historyRoom : Nat := 8
/-- Least length of a frame on the wire, FCS included (R1). -/
def leastFrame : Nat := 64
/-- Greatest length of a frame on the wire, FCS included (R1). -/
def greatestFrame : Nat := 1522
/-- Protocol revision of this part (R121). -/
def revision : Nat := 3

/-! ## Free values

Each is without a body: no proof can see what it is. -/

/-- The bit of an outgoing VLAN tag that is neither priority nor VLAN id, for a rewritten frame: R17 does not state it.
The argument is that bit of the arriving frame's tag (false for an untagged frame). Log entry 6. -/
opaque rewriteTagBit : Bool → Bool

/-- The same bit of a tunnelled mirror frame's tag: R10 does not state it. Log entry 6. -/
opaque tunnelTagBit : Bool

/-- The same bit of an announcement's tag: R149 does not state it. Log entry 6. -/
opaque announceTagBit : Bool

/-- Whether the transmission of a port's head frame had begun when a reset came (R3); the argument is the free-value
counter of State with the port's number. Log entry 7. -/
opaque transmissionBegun : Nat → Nat → Bool

/-- How many bytes of a frame cut short by a reset had left the port (R3). Log entry 7. -/
opaque cutLength : Nat → Nat → Nat

/-- The code of a path in byte 97 of the PAIRING entry (R188 names the field "path" and gives it no code of its own); the
argument is true for the primary. Log entry 8. -/
opaque peerPathCode : Bool → Byte

/-- The epoch that a STALE response carries for a key that missed (R173 states the handle 0xFFFF alone). Log entry 9. -/
opaque staleMissEpoch : Word16

/-- The handle_state that a STALE response carries for a key that missed. Log entry 9. -/
opaque staleMissState : Byte

end Sys2Proof.Config
end

