-- ==== Sys2Proof/Machine/State.lean ====
section
/-! DEFINITION. The state of the part as plain data, one structure per block, the reasons a step can stop, and the state
after reset. -/

namespace Sys2Proof.Machine

/-! ## Names the spec gives -/

/-- The nine roles (overview, Roles; R120). -/
inductive Role where
  | detached | listen | solo | active | standbySync | standbyReady | takeover | yielding | faulted
  deriving DecidableEq, Repr

/-- The causes of a role change (R189). -/
inductive Cause where
  | start | stop | softReset | electionWon | electionLost | peerActive | peerStandby | listenTimeout | peerLost
  | peerUnusable | peerTakeover | dualActive | yield | yieldAbandoned | bulkMatch | bulkBegin | yieldFlag | peerListen
  | take | graceEnd | dualTakeover | keepalive | forceFault | faultError | resume
  deriving DecidableEq, Repr

/-- A direction of a session (terms). -/
inductive Dir where
  | orig | reply
  deriving DecidableEq, Repr

/-- The states of a handle (R24). -/
inductive HandleState where
  | free | live | retired
  deriving DecidableEq, Repr

/-- The session states; `none` is the code 0 of a record that holds no session (R25, R189). -/
inductive SessionState where
  | none | new | halfOpen | opened | drainOne | drainBoth | linger | flow
  deriving DecidableEq, Repr

/-- The pending kinds (R25, R87). -/
inductive Pending where
  | none | create | update | remove
  deriving DecidableEq, Repr

/-- The reasons a session is removed for; the first four are those a REMOVE delta can carry (2.6). -/
inductive RemovalReason where
  | management | expired | reopen | parity | stale | purge | remote
  deriving DecidableEq, Repr

/-- The judgments of a hello (R125). -/
inductive Judgment where
  | none | compatible | revision | geometry | zones | self
  deriving DecidableEq, Repr

/-- What to do with a refused segment (R51). -/
inductive OowPolicy where
  | exception | drop
  deriving DecidableEq, Repr

/-- The classes of the error log (11.1). -/
inductive ErrClass where
  | note | degraded | loss | fault
  deriving DecidableEq, Repr

/-- The 32 error codes (R176, R189). -/
inductive ErrCode where
  | prt1 | prt2 | tbl1 | tbl2 | tbl3 | trk1 | trk2 | hld1 | hld2 | hld3 | hld4 | mir1 | mir2 | mir3 | mir4 | mir5
  | shd1 | shd2 | shd3 | shd4 | pai1 | pai2 | pai3 | pai4 | pai5 | pai6 | tko1 | tko2 | mgt1 | mgt2 | flt1 | flt2
  deriving DecidableEq, Repr

/-- The three resets (R185). -/
inductive ResetCause where
  | power | pin | soft
  deriving DecidableEq, Repr

/-- A timer counts clock ticks (R155): stopped, or running with the ticks it still has to count. A running timer with
none left has expired, and its owner's event is due. -/
inductive Timer where
  | stopped
  | running (left : Nat)
  deriving DecidableEq, Repr

/-! ## The traffic path (PRT) -/

/-- A frame as a transmitter put it on the wire: its bytes without the FCS, and whether the FCS that followed is right
(R2, R3). -/
structure SentFrame where
  bytes   : List Byte
  fcsGood : Bool
  deriving DecidableEq, Repr

/-- The ports' transmit queues (R2), what each transmitter last put on the wire, and the peer's station MAC for mirror
frames (R10). -/
structure Prt where
  pQueue  : List Frame
  wQueue  : List Frame
  sQueue  : List Frame
  pSent   : Option SentFrame
  wSent   : Option SentFrame
  sSent   : Option SentFrame
  peerMac : Option Mac
  deriving DecidableEq, Repr

/-! ## Configuration: the CONFIG record, the zone table, the timeout table -/

/-- Every CONFIG item (R4, R30, R51, R73, R83, R104, R121, R142, R160, R179, R184), in the order of R188. -/
structure ConfigRec where
  mgmtEthertype      : Word16
  mirrorEthertype    : Word16
  defaultVlan        : Nat
  syncVlan           : Nat
  stationMac         : Mac
  stationId          : Nat
  tunnelEnable       : Bool
  oowPolicy          : OowPolicy
  hashSeed           : Word16
  syncStride         : Nat
  touchInterval      : Nat
  revertPeriod       : Nat
  checkpointInterval : Nat
  helloInterval      : Nat
  yieldDrainLimit    : Nat
  announceSpacing    : Nat
  graceTolerance     : Nat
  keepaliveWindow    : Nat
  noticeHoldoff      : Nat
  noticeMac          : Mac
  priority           : Nat
  holdTimeout        : Nat
  coalesceTime       : Nat
  replayTimeout      : Nat
  replayLimit        : Nat
  fcsThreshold       : Nat
  ackDelay           : Nat
  deadMultiplier     : Nat
  gracePeriod        : Nat
  announceCount      : Nat
  patrolRate         : Nat
  deriving DecidableEq, Repr

/-- The defaults of the CONFIG items at power-on and at pin reset. -/
def ConfigRec.default : ConfigRec where
  mgmtEthertype      := 0x88B5#16
  mirrorEthertype    := 0x88B6#16
  defaultVlan        := 1
  syncVlan           := 4094
  stationMac         := 0#48
  stationId          := 0
  tunnelEnable       := false
  oowPolicy          := .exception
  hashSeed           := 0#16
  syncStride         := 65536
  touchInterval      := 60
  revertPeriod       := 10
  checkpointInterval := 256
  helloInterval      := 100
  yieldDrainLimit    := 500
  announceSpacing    := 100
  graceTolerance     := 262144
  keepaliveWindow    := 0
  noticeHoldoff      := 10
  noticeMac          := broadcastMac
  priority           := 128
  holdTimeout        := 20
  coalesceTime       := 1
  replayTimeout      := 10
  replayLimit        := 4
  fcsThreshold       := 16
  ackDelay           := 1
  deadMultiplier     := 4
  gracePeriod        := 5
  announceCount      := 3
  patrolRate         := 8

/-- One entry of the zone table (R4). -/
structure Zone where
  enabled  : Bool
  announce : Bool
  vlan     : Nat
  mac      : Mac
  ip       : Ip4
  deriving DecidableEq, Repr

/-- A zone entry at power-on and at pin reset (R4). -/
def Zone.default : Zone := { enabled := false, announce := false, vlan := 1, mac := 0#48, ip := 0#32 }

/-- The timeout table at power-on and at pin reset (R159). -/
def defaultTimeouts : Vector Nat 8 := #v[30, 3600, 120, 10, 60, 30, 60, 300]

/-! ## The session table (TBL) -/

/-- A key record (R25). -/
structure Key where
  zone    : Byte
  proto   : Byte
  srcAddr : Ip4
  srcPort : Word16
  dstAddr : Ip4
  dstPort : Word16
  deriving DecidableEq, Repr

/-- The key of a record that holds no session. -/
def Key.zero : Key := { zone := 0#8, proto := 0#8, srcAddr := 0#32, srcPort := 0#16, dstAddr := 0#32, dstPort := 0#16 }

/-- A direction tracker (R50). -/
structure DirTracker where
  seeded       : Bool
  hiSeq        : Word32
  hiAck        : Word32
  rightEdge    : Word32
  edgeValid    : Bool
  maxWin       : Word32
  wscale       : BitVec 4
  scaleOffered : Bool
  finEnd       : Option Word32
  deriving DecidableEq, Repr

/-- An unseeded direction (R50). -/
def DirTracker.unseeded : DirTracker :=
  { seeded := false, hiSeq := 0#32, hiAck := 0#32, rightEdge := 0#32, edgeValid := false, maxWin := 0#32, wscale := 0#4,
    scaleOffered := false, finEnd := none }

/-- The mirrored group: the baseline of the last delta built (R70). -/
structure Mirrored where
  hiSeqOrig  : Word32
  rightOrig  : Word32
  hiSeqReply : Word32
  rightReply : Word32
  seen       : Word32
  deriving DecidableEq, Repr

/-- The body of a session record (R25). Its `protocol` is that of orig_key and is not stored twice. -/
structure Body where
  state        : SessionState
  origKey      : Key
  replyKey     : Key
  nextHopOrig  : Mac
  nextHopReply : Mac
  flowClass    : Option Nat
  lastSeen     : Word32
  dirOrig      : DirTracker
  dirReply     : DirTracker
  finOrder     : Option Dir
  mirrored     : Option Mirrored
  releaseSeq   : Option Word16
  gen          : Word32
  packetsOrig  : Word32
  packetsReply : Word32
  bytesOrig    : BitVec 48
  bytesReply   : BitVec 48
  deriving DecidableEq, Repr

/-- A cleared body: optional fields absent, the others zero (R25). -/
def Body.cleared : Body :=
  { state := .none, origKey := Key.zero, replyKey := Key.zero, nextHopOrig := 0#48, nextHopReply := 0#48,
    flowClass := none, lastSeen := 0#32, dirOrig := DirTracker.unseeded, dirReply := DirTracker.unseeded,
    finOrder := none, mirrored := none, releaseSeq := none, gen := 0#32, packetsOrig := 0#32, packetsReply := 0#32,
    bytesOrig := 0#48, bytesReply := 0#48 }

/-- A session record: the anchor with its parity, and the body with its parity (R25). A parity is held as whether it
agrees with what is stored. -/
structure Record where
  handleState   : HandleState
  epoch         : Word16
  pending       : Pending
  removalReason : Option RemovalReason
  slotOrig      : Nat
  slotReply     : Nat
  anchorGood    : Bool
  body          : Body
  bodyGood      : Bool
  deriving DecidableEq, Repr

/-- The record of a handle after clearing: FREE, epoch 0 (R27). What an unlisted handle reads as. -/
def Record.fresh : Record :=
  { handleState := .free, epoch := 0#16, pending := .none, removalReason := none, slotOrig := 0, slotReply := 0,
    anchorGood := true, body := Body.cleared, bodyGood := true }

/-- An occupied key slot with its two parities (R29). -/
structure Slot where
  key     : Key
  handle  : Nat
  dir     : Dir
  keyGood : Bool
  refGood : Bool
  deriving DecidableEq, Repr

/-- A run of consecutive ascending handles of the free list. -/
structure Run where
  first : Nat
  count : Nat
  deriving DecidableEq, Repr

/-- The session table: the record store (unlisted handles read as `Record.fresh`), the key table (unlisted positions are
empty), the free list as maximal ascending runs in list order, and the digest (R24 to R43). -/
structure Tbl where
  records   : List (Nat × Record)
  slots     : List (Nat × Slot)
  free      : List Run
  liveCount : Nat
  digestSum : Word32
  deriving DecidableEq, Repr

/-- The table after clearing (R27). -/
def Tbl.cleared : Tbl :=
  { records := [], slots := [], free := [{ first := 0, count := Config.handles }], liveCount := 0, digestSum := 0#32 }

/-! ## The hold queue (HLD) -/

/-- One held first frame (R73). -/
structure HoldEntry where
  handle     : Nat
  epoch      : Word16
  frame      : Frame
  timer      : Timer
  releaseSeq : Option Word16
  deriving DecidableEq, Repr

/-! ## The mirror transmitter (MIR) -/

/-- Whether changes are being replicated (R82). -/
inductive Stream where
  | closed | opened
  deriving DecidableEq, Repr

/-- The state of the bulk walk (R90). -/
inductive Walk where
  | idle | walking | ending
  deriving DecidableEq, Repr

/-- The builder's alternation while WALKING (R90): after a BULK_BEGIN or BULK_RECORD a live delta goes first when there is
one; after a live delta comes a BULK_RECORD. -/
inductive Turn where
  | liveFirst | bulkNext
  deriving DecidableEq, Repr

/-- The DATA frame being assembled (R92). -/
structure OpenFrame where
  deltas  : List Byte
  removes : List Nat
  creates : List (Nat × Word16)
  timer   : Timer
  deriving DecidableEq, Repr

/-- A DATA frame closed and not yet acknowledged (R93). -/
structure DataFrame where
  gen     : Word32
  seq     : Word16
  deltas  : List Byte
  removes : List Nat
  creates : List (Nat × Word16)
  deriving DecidableEq, Repr

/-- The mirror transmitter's items (R82). The pair generation is held by the pairing controller. -/
structure Mir where
  stream            : Stream
  nextSeq           : Word16
  dirty             : List Nat
  walk              : Walk
  cursor            : Nat
  turn              : Turn
  openFrame         : Option OpenFrame
  sinceCheckpoint   : Nat
  replay            : List DataFrame
  replayCount       : Nat
  replayTimer       : Timer
  gapLatch          : Option Word16
  dataPath          : Option PathId
  suspendedPrimary   : Bool
  suspendedSecondary : Bool
  revertElapsed     : Nat
  fcsCount          : Nat
  deriving DecidableEq, Repr

/-- The mirror transmitter after each reset (R82). -/
def Mir.reset : Mir :=
  { stream := .closed, nextSeq := 0#16, dirty := [], walk := .idle, cursor := 0, turn := .liveFirst, openFrame := none,
    sinceCheckpoint := 0, replay := [], replayCount := 0, replayTimer := .stopped, gapLatch := none, dataPath := none,
    suspendedPrimary := false, suspendedSecondary := false, revertElapsed := 0, fcsCount := 0 }

/-! ## The shadow receiver (SHD) -/

/-- The kind of a digest comparison (R103). -/
inductive CompareKind where
  | bulkEnd | checkpoint
  deriving DecidableEq, Repr

/-- The record of the last digest comparison (R103). -/
structure Comparison where
  kind          : CompareKind
  matched       : Bool
  gen           : Word32
  seq           : Word16
  receivedCount : Word32
  receivedSum   : Word32
  localCount    : Word32
  localSum      : Word32
  deriving DecidableEq, Repr

/-- The shadow receiver's items (R103). -/
structure Shd where
  bound       : Bool
  adoptedGen  : Word32
  expectedSeq : Word16
  unacked     : Nat
  ackTimer    : Timer
  ackPath     : PathId
  bulkWanted  : Bool
  refresh     : List Nat
  bulkStart   : Nat
  lastCompare : Option Comparison
  deriving DecidableEq, Repr

/-- The shadow receiver at power-on and at pin reset (R103). -/
def Shd.reset : Shd :=
  { bound := false, adoptedGen := 0#32, expectedSeq := 0#16, unacked := 0, ackTimer := .stopped, ackPath := .primary,
    bulkWanted := false, refresh := [], bulkStart := 0, lastCompare := none }

/-! ## The pairing controller (PAI) -/

/-- A record of the role history (R120). -/
structure RoleRecord where
  fromRole : Role
  toRole   : Role
  cause    : Cause
  seconds  : Word32
  ms       : Nat
  deriving DecidableEq, Repr

/-- What the pairing controller holds of one path (R120). -/
structure PathState where
  up        : Bool
  deadTimer : Timer
  judgment  : Judgment
  seen      : Bool
  deriving DecidableEq, Repr

/-- A path after each reset (R120). -/
def PathState.reset : PathState := { up := false, deadTimer := .stopped, judgment := .none, seen := false }

/-- The fields of a hello as they stand on the wire (R123, R186). -/
structure Hello where
  flags       : Byte
  stationId   : Word16
  stationMac  : Mac
  priority    : Byte
  role        : Byte
  revision    : Byte
  count       : Byte
  pairGen     : Word32
  adoptedGen  : Word32
  handleCount : Word32
  slotCount   : Word32
  zoneDigest  : Word32
  liveCount   : Word32
  refresh     : List Word16
  deriving DecidableEq, Repr

/-- The peer record: the last governing COMPATIBLE hello and the path it came on (R120, R127). -/
structure PeerRecord where
  hello : Hello
  path  : PathId
  deriving DecidableEq, Repr

/-- The pairing controller's items (R120). -/
structure Pai where
  role           : Role
  history        : List RoleRecord
  primary        : PathState
  secondary      : PathState
  peer           : Option PeerRecord
  peerActiveSeen : Bool
  listenTimer    : Timer
  drainTimer     : Timer
  yieldFlag      : Bool
  helloTimer     : Timer
  pairGen        : Word32
  peerGenSeen    : Word32
  deriving DecidableEq, Repr

/-- The pairing controller at power-on and at pin reset (R120). -/
def Pai.reset : Pai :=
  { role := .detached, history := [], primary := PathState.reset, secondary := PathState.reset, peer := none,
    peerActiveSeen := false, listenTimer := .stopped, drainTimer := .stopped, yieldFlag := false,
    helloTimer := .stopped, pairGen := 0#32, peerGenSeen := 0#32 }

/-! ## The takeover unit (TKO) -/

/-- The announcement burst (R141). -/
inductive Burst where
  | idle
  | running (rounds : Nat) (spacing : Timer)
  deriving DecidableEq, Repr

/-- The takeover unit's items (R141). -/
structure Tko where
  grace     : Timer
  tolerance : Nat
  burst     : Burst
  deriving DecidableEq, Repr

/-- The takeover unit after each reset (R141). -/
def Tko.reset : Tko := { grace := .stopped, tolerance := 0, burst := .idle }

/-! ## The time base and patrol (TIM) -/

/-- The time base's items (R152), the patrol cursor (R160), and whether this tick's patrol step is still to be made. -/
structure Tim where
  running   : Bool
  acc       : Word32
  increment : Nat
  ms        : Nat
  seconds   : Word32
  cursor    : Nat
  patrolDue : Bool
  deriving DecidableEq, Repr

/-- The time base and patrol at power-on and at pin reset (R152, R160). -/
def Tim.reset : Tim :=
  { running := false, acc := 0#32, increment := 171799, ms := 0, seconds := 0#32, cursor := 0, patrolDue := false }

/-! ## The fault and report unit (FLT) -/

/-- What a reporting rule names beside the code (R176): a handle, a port or path, a sequence, a generation. The port or
path is held as its code: 1, 2, 3 for the ports, 3 and 4 for the paths (R188). -/
structure ErrInfo where
  handle : Option Nat
  place  : Option Nat
  seq    : Option Nat
  gen    : Option Word32
  deriving DecidableEq, Repr

/-- A first-error record (R176). -/
structure FirstError where
  code    : ErrCode
  seconds : Word32
  ms      : Nat
  info    : ErrInfo
  deriving DecidableEq, Repr

/-- The record of one class (R176). -/
structure ErrRecord where
  first   : Option FirstError
  count   : Nat
  codeSet : Word32
  deriving DecidableEq, Repr

/-- An empty record of a class (R176). -/
def ErrRecord.empty : ErrRecord := { first := none, count := 0, codeSet := 0#32 }

/-- The reset cause record (R185). -/
structure ResetRecord where
  cause : ResetCause
  role  : Role
  count : Nat
  deriving DecidableEq, Repr

/-- The fault and report unit's items (R176 to R185): the error log, the counter set, the flags and their mask (bit 0
READY to bit 8 ERR_FAULT, R188), the keepalive timer, the notice holdoff and its pending mark, the reset cause. -/
structure Flt where
  logNote     : ErrRecord
  logDegraded : ErrRecord
  logLoss     : ErrRecord
  logFault    : ErrRecord
  counters    : Vector Word32 64
  flags       : BitVec 9
  mask        : BitVec 9
  keepalive   : Timer
  holdoff     : Timer
  noticeMark  : Bool
  resetRecord : ResetRecord
  deriving DecidableEq, Repr

/-! ## The whole part -/

/-- The state of the part. `mgtQueue` is the agent's request queue (R163). `pending` is the queue of commands that wait
for this model's step, and `freeCount` the counter that draws the free values of Config: both are the model's own. -/
structure State where
  cfg       : ConfigRec
  zones     : Vector Zone 8
  timeouts  : Vector Nat 8
  prt       : Prt
  tbl       : Tbl
  hold      : List HoldEntry
  mir       : Mir
  shd       : Shd
  pai       : Pai
  tko       : Tko
  tim       : Tim
  mgtQueue  : List Frame
  flt       : Flt
  pending   : List Instr
  freeCount : Nat
  deriving DecidableEq, Repr

/-- The reasons a step can stop with a fault. There is none: the spec gives every command of the table an effect in
every state, so no meaning raises a fault (safe: nothing is cut off). -/
inductive Fault where
  deriving DecidableEq, Repr

/-- The reasons a step can be refused. -/
inductive Refusal where
  /-- Raised by `exec`'s arm of a row that has no meaning yet; no arm raises it now (safe: the model stops). -/
  | notModelled (mnemonic : String)
  deriving DecidableEq, Repr

/-- The READY notice that each power-on sends at once (R184, R187): to the broadcast address from MAC zero, EtherType
0x88B5, kind 2, role DETACHED, flags READY, cause POWER, role at reset DETACHED, count 0. -/
def powerOnNotice : Frame :=
  [0xFF#8, 0xFF#8, 0xFF#8, 0xFF#8, 0xFF#8, 0xFF#8, 0#8, 0#8, 0#8, 0#8, 0#8, 0#8, 0x88#8, 0xB5#8,
   2#8, 0#8, 0#8, 1#8, 1#8, 0#8, 0#8, 0#8, 0#8, 0#8, 0#8, 0#8]

/-- The part right after power-on: every block at its power-on values, READY risen, its notice handed to the P-port and
the notice holdoff running (R3, R4, R27, R82, R103, R120, R141, R152, R163, R182 to R185). -/
def State.reset : State where
  cfg       := ConfigRec.default
  zones     := Vector.replicate 8 Zone.default
  timeouts  := defaultTimeouts
  prt       := { pQueue := [powerOnNotice], wQueue := [], sQueue := [], pSent := none, wSent := none, sSent := none,
                 peerMac := none }
  tbl       := Tbl.cleared
  hold      := []
  mir       := Mir.reset
  shd       := Shd.reset
  pai       := Pai.reset
  tko       := Tko.reset
  tim       := Tim.reset
  mgtQueue  := []
  flt       := { logNote := ErrRecord.empty, logDegraded := ErrRecord.empty, logLoss := ErrRecord.empty,
                 logFault := ErrRecord.empty, counters := Vector.replicate 64 0#32, flags := 1#9, mask := 1#9,
                 keepalive := .stopped, holdoff := .running 10, noticeMark := false,
                 resetRecord := { cause := .power, role := .detached, count := 0 } }
  pending   := []
  freeCount := 0

end Sys2Proof.Machine
end

