-- ==== Sys2Proof/Machine/Bytes.lean ====
section
/-! DEFINITION. Byte order and slices of frames (most significant byte first, chapter 12), sequence and checksum arithmetic
(conventions of the overview), saturating counts. -/

namespace Sys2Proof.Machine

/-! ## Reading fields -/

/-- The byte at an offset; a byte that the frame does not hold reads as zero (callers check lengths first). -/
def byteAt (f : List Byte) (i : Nat) : Byte := f.getD i 0#8

/-- Two bytes at an offset, most significant first. -/
def word16At (f : List Byte) (i : Nat) : Word16 := byteAt f i ++ byteAt f (i + 1)

/-- Four bytes at an offset, most significant first. -/
def word32At (f : List Byte) (i : Nat) : Word32 := word16At f i ++ word16At f (i + 2)

/-- Six bytes at an offset: a MAC address. -/
def macAt (f : List Byte) (i : Nat) : Mac := word16At f i ++ word32At f (i + 2)

/-- `len` bytes from an offset. -/
def slice (f : List Byte) (off len : Nat) : List Byte := (f.drop off).take len

/-! ## Writing fields -/

/-- A 16-bit value as two bytes. -/
def bytes16 (v : Word16) : List Byte := [v.extractLsb' 8 8, v.extractLsb' 0 8]

/-- A 32-bit value as four bytes. -/
def bytes32 (v : Word32) : List Byte := [v.extractLsb' 24 8, v.extractLsb' 16 8, v.extractLsb' 8 8, v.extractLsb' 0 8]

/-- A 48-bit value as six bytes. -/
def bytes48 (v : BitVec 48) : List Byte :=
  [v.extractLsb' 40 8, v.extractLsb' 32 8, v.extractLsb' 24 8, v.extractLsb' 16 8, v.extractLsb' 8 8, v.extractLsb' 0 8]

/-- A number as one byte. -/
def nat8 (n : Nat) : Byte := BitVec.ofNat 8 n

/-- A number as two bytes. -/
def nat16 (n : Nat) : List Byte := bytes16 (BitVec.ofNat 16 n)

/-- A number as three bytes. -/
def nat24 (n : Nat) : List Byte := nat8 (n / 65536) :: nat16 n

/-- A number as four bytes. -/
def nat32 (n : Nat) : List Byte := bytes32 (BitVec.ofNat 32 n)

/-- `n` zero bytes. -/
def zeros (n : Nat) : List Byte := List.replicate n 0#8

/-- A frame padded with zero bytes to at least `n` bytes. -/
def padTo (n : Nat) (f : List Byte) : List Byte := f ++ zeros (n - f.length)

/-- A flag as a bit of a byte, at place `k`. -/
def flagBit (b : Bool) (k : Nat) : Byte := if b then BitVec.ofNat 8 (2 ^ k) else 0#8

/-! ## Sequence arithmetic (conventions) -/

/-- x is after y: diff(x, y) is 1 to 2^31 − 1. -/
def seqAfter (x y : Word32) : Bool := 0 < (x - y).toNat && (x - y).toNat < 2 ^ 31

/-- x is before y: diff(x, y) is 2^31 + 1 to 2^32 − 1. -/
def seqBefore (x y : Word32) : Bool := 2 ^ 31 < (x - y).toNat

/-- "Not after" is met by equal and by before, and not by opposite. -/
def seqNotAfter (x y : Word32) : Bool := x == y || seqBefore x y

/-- "Not before" is met by equal and by after, and not by opposite. -/
def seqNotBefore (x y : Word32) : Bool := x == y || seqAfter x y

/-- The later of two generations; of equal or opposite ones the first is kept (R84, R144). -/
def laterGen (a b : Word32) : Word32 := if seqAfter b a then b else a

/-! ## Checksum arithmetic (conventions, R20) -/

/-- The 16-bit sum with end-around carry. -/
def onesAdd (a b : Word16) : Word16 :=
  let n := a.toNat + b.toNat
  BitVec.ofNat 16 (n % 65536 + n / 65536)

/-- The ones' complement sum of a list of words. -/
def onesSum (ws : List Word16) : Word16 := ws.foldl onesAdd 0#16

/-- HC′ for one changed word m to m′: ~(~HC + ~m + m′). A word that keeps its value is not entered (R20). -/
def adjustWord (hc m m' : Word16) : Word16 :=
  if m = m' then hc else ~~~(onesAdd (onesAdd (~~~hc) (~~~m)) m')

/-- A checksum adjusted for each of its words (R20). -/
def adjustWords (hc : Word16) (ws : List (Word16 × Word16)) : Word16 :=
  ws.foldl (fun h w => adjustWord h w.1 w.2) hc

/-- The two halves of an address before and after, as words of a checksum. -/
def addrWords (a a' : Ip4) : List (Word16 × Word16) :=
  [(a.extractLsb' 16 16, a'.extractLsb' 16 16), (a.extractLsb' 0 16, a'.extractLsb' 0 16)]

/-! ## Saturating counts -/

/-- A counter of 32 bits that saturates at 4,294,967,295. -/
def satAdd32 (c : Word32) (n : Nat) : Word32 := BitVec.ofNat 32 (min (c.toNat + n) 4294967295)

/-- A counter of 48 bits that saturates at 2^48 − 1 (R25). -/
def satAdd48 (c : BitVec 48) (n : Nat) : BitVec 48 := BitVec.ofNat 48 (min (c.toNat + n) (2 ^ 48 - 1))

/-- A MAC is unicast when the group bit of its first byte is clear. -/
def isUnicast (m : Mac) : Bool := !m.getLsbD 40

end Sys2Proof.Machine
end

