-- ==== Sys2Proof/Machine/Codes.lean ====
section
/-! DEFINITION. The codes of the enumerated fields (R189), and the place, class and codes of the errors. -/

namespace Sys2Proof.Machine

/-- The code of a role. -/
def Role.code : Role → Nat
  | .detached => 0 | .listen => 1 | .solo => 2 | .active => 3 | .standbySync => 4 | .standbyReady => 5
  | .takeover => 6 | .yielding => 7 | .faulted => 8

/-- The role that a code names. -/
def Role.ofCode : Nat → Option Role
  | 0 => some .detached | 1 => some .listen | 2 => some .solo | 3 => some .active | 4 => some .standbySync
  | 5 => some .standbyReady | 6 => some .takeover | 7 => some .yielding | 8 => some .faulted | _ => none

/-- The code of a role-change cause. -/
def Cause.code : Cause → Nat
  | .start => 1 | .stop => 2 | .softReset => 3 | .electionWon => 4 | .electionLost => 5 | .peerActive => 6
  | .peerStandby => 7 | .listenTimeout => 8 | .peerLost => 9 | .peerUnusable => 10 | .peerTakeover => 11
  | .dualActive => 12 | .yield => 13 | .yieldAbandoned => 14 | .bulkMatch => 15 | .bulkBegin => 16 | .yieldFlag => 17
  | .peerListen => 18 | .take => 19 | .graceEnd => 20 | .dualTakeover => 21 | .keepalive => 22 | .forceFault => 23
  | .faultError => 24 | .resume => 25

/-- The code of a direction. -/
def Dir.code : Dir → Nat
  | .orig => 1 | .reply => 2

/-- The code of a handle state. -/
def HandleState.code : HandleState → Nat
  | .free => 0 | .live => 1 | .retired => 2

/-- The code of a session state. -/
def SessionState.code : SessionState → Nat
  | .none => 0 | .new => 1 | .halfOpen => 2 | .opened => 3 | .drainOne => 4 | .drainBoth => 5 | .linger => 6 | .flow => 7

/-- The session state that a code of a delta names: 1 to 7 (R109). -/
def SessionState.ofCode : Nat → Option SessionState
  | 1 => some .new | 2 => some .halfOpen | 3 => some .opened | 4 => some .drainOne | 5 => some .drainBoth
  | 6 => some .linger | 7 => some .flow | _ => Option.none

/-- The code of a fin_order. -/
def finOrderCode : Option Dir → Nat
  | none => 0 | some d => d.code

/-- The code of a pending kind. -/
def Pending.code : Pending → Nat
  | .none => 0 | .create => 1 | .update => 2 | .remove => 3

/-- The code of a removal reason; the last three are in no record and no delta. -/
def RemovalReason.code : RemovalReason → Nat
  | .management => 1 | .expired => 2 | .reopen => 3 | .parity => 4 | .stale => 0 | .purge => 0 | .remote => 0

/-- The code of the removal_reason field: 0 when there is none. -/
def removalCode : Option RemovalReason → Nat
  | none => 0 | some r => r.code

/-- The code of a judgment. -/
def Judgment.code : Judgment → Nat
  | .none => 0 | .compatible => 1 | .revision => 2 | .geometry => 3 | .zones => 4 | .self => 5

/-- The code of a reset cause. -/
def ResetCause.code : ResetCause → Nat
  | .power => 1 | .pin => 2 | .soft => 3

/-- The class of an error (R176). -/
def ErrCode.cls : ErrCode → ErrClass
  | .prt1 | .prt2 | .trk1 | .trk2 | .hld1 | .hld2 | .hld4 | .mir1 | .mir4 | .mir5 => .note
  | .pai4 | .pai5 | .pai6 | .tko2 | .mgt1 | .mgt2 => .note
  | .mir2 | .mir3 | .shd1 | .shd2 | .shd4 | .pai1 | .pai2 | .pai3 => .degraded
  | .tbl1 | .tbl2 | .hld3 | .shd3 | .tko1 => .loss
  | .tbl3 | .flt1 | .flt2 => .fault

/-- The two-byte error code: module number × 256 + the code's own number (R189). -/
def ErrCode.code : ErrCode → Nat
  | .prt1 => 0x0101 | .prt2 => 0x0102 | .tbl1 => 0x0201 | .tbl2 => 0x0202 | .tbl3 => 0x0203 | .trk1 => 0x0301
  | .trk2 => 0x0302 | .hld1 => 0x0401 | .hld2 => 0x0402 | .hld3 => 0x0403 | .hld4 => 0x0404 | .mir1 => 0x0501
  | .mir2 => 0x0502 | .mir3 => 0x0503 | .mir4 => 0x0504 | .mir5 => 0x0505 | .shd1 => 0x0601 | .shd2 => 0x0602
  | .shd3 => 0x0603 | .shd4 => 0x0604 | .pai1 => 0x0701 | .pai2 => 0x0702 | .pai3 => 0x0703 | .pai4 => 0x0704
  | .pai5 => 0x0705 | .pai6 => 0x0706 | .tko1 => 0x0801 | .tko2 => 0x0802 | .mgt1 => 0x0901 | .mgt2 => 0x0902
  | .flt1 => 0x0A01 | .flt2 => 0x0A02

/-- The bit of a code in the ERRLOG code set (R189). -/
def ErrCode.bit : ErrCode → Nat
  | .prt1 => 0 | .prt2 => 1 | .tbl1 => 2 | .tbl2 => 3 | .tbl3 => 4 | .trk1 => 5 | .trk2 => 6 | .hld1 => 7
  | .hld2 => 8 | .hld3 => 9 | .hld4 => 10 | .mir1 => 11 | .mir2 => 12 | .mir3 => 13 | .mir4 => 14 | .mir5 => 15
  | .shd1 => 16 | .shd2 => 17 | .shd3 => 18 | .shd4 => 19 | .pai1 => 20 | .pai2 => 21 | .pai3 => 22 | .pai4 => 23
  | .pai5 => 24 | .pai6 => 25 | .tko1 => 26 | .tko2 => 27 | .mgt1 => 28 | .mgt2 => 29 | .flt1 => 30 | .flt2 => 31

/-- The nine status flags by their bit (R188). -/
inductive Flag where
  | ready | role | peer | path | bulk | errNote | errDegraded | errLoss | errFault
  deriving DecidableEq, Repr

/-- The bit of a status flag (R188). -/
def Flag.bit : Flag → Nat
  | .ready => 0 | .role => 1 | .peer => 2 | .path => 3 | .bulk => 4 | .errNote => 5 | .errDegraded => 6 | .errLoss => 7
  | .errFault => 8

/-- The status flag of a class (R176). -/
def ErrClass.flag : ErrClass → Flag
  | .note => .errNote | .degraded => .errDegraded | .loss => .errLoss | .fault => .errFault

/-- The port-or-path code of a port (R188). -/
def portPlace : Port → Nat
  | .p => 1 | .w => 2 | .s => 3

/-- The port-or-path code of a path (R188). -/
def pathPlace : PathId → Nat
  | .primary => 3 | .secondary => 4

/-- The counters of the COUNTERS object (R181), each at its position. -/
inductive Ctr where
  | pRx | wRx | sRx | pTx | wTx | sTx | pFcs | wFcs | sFcs | pLen | wLen | sLen | pTxDrop | wTxDrop | sTxDrop
  | sDiscard | mirrorBad | gateDrop | hitFwd
  | excUnzoned | excNonIpv4 | excIpOptions | excFragment | excBadIpChecksum | excTtlExpired | excIcmpError | excMiss
  | excOutOfWindow | reopen
  | installRefused | stashInsert | paritySlot | parityRecord | remParity
  | trkRefState | trkRefRight | trkRefLeft | trkRefAck | trkDrop
  | holdRelFlush | holdDropRemoved | holdDropRole | ackIgnored | shdRoleDrop
  | tkoEnter | tkoPartial | announceSent | patrolSweep | mgtReq | mgtRefused | mgtQdrop | mgtRunt
  | dataSent | dataResent | streamStart | trkMark | holdEnter | holdRelAck | holdRelTimeout | holdFull | holdDropSecond
  | remExpired | remManagement | installOk
  | shdAccept | shdAhead | shdGenDrop | shdAckSent | shdDup | shdOrphan | shdRemIgnored | shdDigestOk | shdDigestBad
  | remStale | remRemote | remPurge
  deriving DecidableEq, Repr

/-- The position of a counter (R181); positions 52 to 63 are shared by two counters each. -/
def Ctr.pos : Ctr → Fin 64
  | .pRx => 0 | .wRx => 1 | .sRx => 2 | .pTx => 3 | .wTx => 4 | .sTx => 5 | .pFcs => 6 | .wFcs => 7 | .sFcs => 8
  | .pLen => 9 | .wLen => 10 | .sLen => 11 | .pTxDrop => 12 | .wTxDrop => 13 | .sTxDrop => 14 | .sDiscard => 15
  | .mirrorBad => 16 | .gateDrop => 17 | .hitFwd => 18 | .excUnzoned => 19 | .excNonIpv4 => 20 | .excIpOptions => 21
  | .excFragment => 22 | .excBadIpChecksum => 23 | .excTtlExpired => 24 | .excIcmpError => 25 | .excMiss => 26
  | .excOutOfWindow => 27 | .reopen => 28 | .installRefused => 29 | .stashInsert => 30 | .paritySlot => 31
  | .parityRecord => 32 | .remParity => 33 | .trkRefState => 34 | .trkRefRight => 35 | .trkRefLeft => 36
  | .trkRefAck => 37 | .trkDrop => 38 | .holdRelFlush => 39 | .holdDropRemoved => 40 | .holdDropRole => 41
  | .ackIgnored => 42 | .shdRoleDrop => 43 | .tkoEnter => 44 | .tkoPartial => 45 | .announceSent => 46
  | .patrolSweep => 47 | .mgtReq => 48 | .mgtRefused => 49 | .mgtQdrop => 50 | .mgtRunt => 51
  | .dataSent => 52 | .shdAccept => 52 | .dataResent => 53 | .shdAhead => 53 | .streamStart => 54 | .shdGenDrop => 54
  | .trkMark => 55 | .shdAckSent => 55 | .holdEnter => 56 | .shdDup => 56 | .holdRelAck => 57 | .shdOrphan => 57
  | .holdRelTimeout => 58 | .shdRemIgnored => 58 | .holdFull => 59 | .shdDigestOk => 59 | .holdDropSecond => 60
  | .shdDigestBad => 60 | .remExpired => 61 | .remStale => 61 | .remManagement => 62 | .remRemote => 62
  | .installOk => 63 | .remPurge => 63

/-- The statuses of a response (10.5). -/
inductive Status where
  | ok | clamped | badCommand | badObject | badIndex | badLength | readOnly | locked | badState | badConfig | notActive
  | duplicate | tableFull | bucketFull | badRecord | stale
  deriving DecidableEq, Repr

/-- The code of a status (R189). -/
def Status.code : Status → Nat
  | .ok => 0 | .clamped => 1 | .badCommand => 2 | .badObject => 3 | .badIndex => 4 | .badLength => 5 | .readOnly => 6
  | .locked => 7 | .badState => 8 | .badConfig => 9 | .notActive => 10 | .duplicate => 11 | .tableFull => 12
  | .bucketFull => 13 | .badRecord => 14 | .stale => 15

/-- The exception reasons (R16). -/
inductive Reason where
  | unzoned | nonIpv4 | ipOptions | fragment | badIpChecksum | ttlExpired | icmpError | miss | outOfWindow | reopen
  deriving DecidableEq, Repr

/-- The code of an exception reason (R189). -/
def Reason.code : Reason → Nat
  | .unzoned => 1 | .nonIpv4 => 2 | .ipOptions => 3 | .fragment => 4 | .badIpChecksum => 5 | .ttlExpired => 6
  | .icmpError => 7 | .miss => 8 | .outOfWindow => 9 | .reopen => 10

/-- The nine objects of the agent (R167). -/
inductive Object where
  | config | zones | timeouts | session | status | counters | errlog | pairing | clock
  deriving DecidableEq, Repr

/-- The object that a code names (R189). -/
def Object.ofCode : Nat → Option Object
  | 1 => some .config | 2 => some .zones | 3 => some .timeouts | 4 => some .session | 5 => some .status
  | 6 => some .counters | 7 => some .errlog | 8 => some .pairing | 9 => some .clock | _ => none

/-- The entry size of an object in bytes (R167). -/
def Object.entrySize : Object → Nat
  | .config => 128 | .zones => 16 | .timeouts => 4 | .session => 128 | .status => 8 | .counters => 4 | .errlog => 32
  | .pairing => 640 | .clock => 16

/-- The number of indices of an object (R167). -/
def Object.indices : Object → Nat
  | .config => 1 | .zones => 8 | .timeouts => 8 | .session => 32768 | .status => 1 | .counters => 64 | .errlog => 4
  | .pairing => 1 | .clock => 1

/-- Whether an object is written at all (R167). -/
def Object.writable : Object → Bool
  | .config | .zones | .timeouts | .status | .clock => true
  | .session | .counters | .errlog | .pairing => false

/-- The four step modes (R166). -/
inductive StepMode where
  | increment | decrement | fixed | circulate
  deriving DecidableEq, Repr

/-- The step mode that a code names (R189). -/
def StepMode.ofCode : Nat → Option StepMode
  | 0 => some .increment | 1 => some .decrement | 2 => some .fixed | 3 => some .circulate | _ => none

end Sys2Proof.Machine
end

