-- ==== Sys2Proof/Machine/Flags.lean ====
section
/-! DEFINITION. The status flags, the error log and the counters: what every block reports to the fault and report unit
(chapter 11). None of these operations sends anything: a rise becomes a notice at the end of its event (Ops.lean). -/

namespace Sys2Proof.Machine

/-! ## Status flags (R182) -/

/-- The flag word with one flag set. -/
def Flag.bitmap (f : Flag) : BitVec 9 := BitVec.ofNat 9 (2 ^ f.bit)

/-- A cause sets its flag; a flag already set stays set (R182). -/
def raise (f : Flag) (s : State) : State :=
  { s with flt := { s.flt with flags := s.flt.flags ||| f.bitmap } }

/-! ## The error log (R176) -/

/-- A report that names nothing. -/
def ErrInfo.none : ErrInfo := { handle := .none, place := .none, seq := .none, gen := .none }

/-- A report that names a handle. -/
def ErrInfo.ofHandle (h : Nat) : ErrInfo := { ErrInfo.none with handle := some h }

/-- A report that names a port or path by its code. -/
def ErrInfo.ofPlace (p : Nat) : ErrInfo := { ErrInfo.none with place := some p }

/-- A report that names a sequence. -/
def ErrInfo.ofSeq (n : Nat) : ErrInfo := { ErrInfo.none with seq := some n }

/-- What a report does to the record of its class (R176): the first error is kept with the clock reading; a later one
raises the count, which stops at 65,535, and joins its code to the code set. -/
def ErrRecord.report (r : ErrRecord) (code : ErrCode) (info : ErrInfo) (seconds : Word32) (ms : Nat) : ErrRecord :=
  match r.first with
  | .none => { first := some { code := code, seconds := seconds, ms := ms, info := info }, count := 0, codeSet := 0#32 }
  | some _ =>
    { r with count := min (r.count + 1) 65535, codeSet := r.codeSet ||| BitVec.ofNat 32 (2 ^ code.bit) }

/-- The record of a class. -/
def Flt.record (f : Flt) : ErrClass → ErrRecord
  | .note => f.logNote | .degraded => f.logDegraded | .loss => f.logLoss | .fault => f.logFault

/-- The unit with the record of a class replaced. -/
def Flt.setRecord (f : Flt) (c : ErrClass) (r : ErrRecord) : Flt :=
  match c with
  | .note => { f with logNote := r }
  | .degraded => { f with logDegraded := r }
  | .loss => { f with logLoss := r }
  | .fault => { f with logFault := r }

/-- A block reports an error: it is filed in the record of its class and the class's flag rises (R176). The role change
of a FAULT-class error is made by `raiseFault` (Roles.lean). -/
def report (code : ErrCode) (info : ErrInfo) (s : State) : State :=
  raise code.cls.flag
    { s with flt := s.flt.setRecord code.cls ((s.flt.record code.cls).report code info s.tim.seconds s.tim.ms) }

/-! ## Counters (R181) -/

/-- The counter at its position. -/
def counter (s : State) (c : Ctr) : Word32 := s.flt.counters[c.pos]

/-- A counter rises by n, saturating at 4,294,967,295. -/
def bumpBy (c : Ctr) (n : Nat) (s : State) : State :=
  { s with flt := { s.flt with counters := s.flt.counters.set c.pos (satAdd32 s.flt.counters[c.pos] n) } }

/-- A counter rises by 1. -/
def bump (c : Ctr) (s : State) : State := bumpBy c 1 s

/-! ## Roles as conditions -/

/-- SOLO, ACTIVE, TAKEOVER and YIELDING (overview, Roles). The gate is open in these roles (1.4). -/
def Role.isActive : Role → Bool
  | .solo | .active | .takeover | .yielding => true
  | .detached | .listen | .standbySync | .standbyReady | .faulted => false

/-- STANDBY_SYNC and STANDBY_READY. -/
def Role.isStandby : Role → Bool
  | .standbySync | .standbyReady => true
  | .detached | .listen | .solo | .active | .takeover | .yielding | .faulted => false

/-- The roles in which the stream may be open: ACTIVE, TAKEOVER and YIELDING (R84, R86). -/
def Role.mayStream : Role → Bool
  | .active | .takeover | .yielding => true
  | .detached | .listen | .solo | .standbySync | .standbyReady | .faulted => false

/-- The roles in which the keepalive timer runs: all but DETACHED and FAULTED (R139, R179). -/
def Role.keepaliveRuns : Role → Bool
  | .detached | .faulted => false
  | .listen | .solo | .active | .standbySync | .standbyReady | .takeover | .yielding => true

/-! ## Timers (R155) -/

/-- One clock tick reaches a timer: a running timer counts it. -/
def Timer.tick : Timer → Timer
  | .stopped => .stopped
  | .running n => .running (n - 1)

/-- A timer has expired and its owner's event is due. -/
def Timer.due (t : Timer) : Bool := t == .running 0

/-- The ticks a timer still has to count, 0 when stopped. -/
def Timer.left : Timer → Nat
  | .stopped => 0
  | .running n => n

end Sys2Proof.Machine
end

