-- ==== Sys2Proof/Machine/Ops.lean ====
section
/-! DEFINITION. The named operations over the part's storage: sparse stores in canonical form, the free list, the transmit
queues, the notices. -/

namespace Sys2Proof.Machine

/-! ## Sparse stores

A store is a list of (place, value) pairs with the places strictly rising. -/

/-- The value at a place, if one is listed. -/
def sparseFind {α : Type} (m : List (Nat × α)) (k : Nat) : Option α :=
  match m with
  | [] => none
  | (j, v) :: rest => if k = j then some v else if k < j then none else sparseFind rest k

/-- A store with a value put at a place. -/
def sparsePut {α : Type} (m : List (Nat × α)) (k : Nat) (v : α) : List (Nat × α) :=
  match m with
  | [] => [(k, v)]
  | (j, w) :: rest => if k = j then (k, v) :: rest else if k < j then (k, v) :: (j, w) :: rest else (j, w) :: sparsePut rest k v

/-- A store with a place emptied. -/
def sparseDrop {α : Type} (m : List (Nat × α)) (k : Nat) : List (Nat × α) :=
  match m with
  | [] => []
  | (j, w) :: rest => if k = j then rest else if k < j then (j, w) :: rest else (j, w) :: sparseDrop rest k

/-- The canonical form: places strictly rising. -/
def sparseSorted {α : Type} : List (Nat × α) → Bool
  | [] => true
  | [_] => true
  | (j, _) :: (k, w) :: rest => decide (j < k) && sparseSorted ((k, w) :: rest)

/-! ## The record store and the key table -/

/-- The record of a handle; an unlisted handle is FREE with epoch 0 (R27). -/
def Tbl.record (t : Tbl) (h : Nat) : Record := (sparseFind t.records h).getD Record.fresh

/-- The record store with one record written; a record as after clearing is not listed. -/
def putRecord (rs : List (Nat × Record)) (h : Nat) (r : Record) : List (Nat × Record) :=
  if r = Record.fresh then sparseDrop rs h else sparsePut rs h r

/-- The table with one record written. -/
def Tbl.setRecord (t : Tbl) (h : Nat) (r : Record) : Tbl := { t with records := putRecord t.records h r }

/-- Every record of the store changed by one function; a record that becomes as after clearing is not listed. -/
def mapRecords (f : Record → Record) (rs : List (Nat × Record)) : List (Nat × Record) :=
  rs.filterMap fun p => let r := f p.2; if r = Record.fresh then none else some (p.1, r)

/-- The table's stores are in canonical form: places strictly rising, no listed record as after clearing, handles and
positions in range. -/
def Tbl.wf (t : Tbl) : Bool :=
  sparseSorted t.records && t.records.all (fun p => decide (p.1 < Config.handles) && decide (p.2 ≠ Record.fresh)) &&
  sparseSorted t.slots && t.slots.all (fun p => decide (p.1 < Config.keySlots))

/-- The record of a handle in the whole state. -/
def recordOf (s : State) (h : Nat) : Record := s.tbl.record h

/-- A record written in the whole state. -/
def setRecord (h : Nat) (r : Record) (s : State) : State := { s with tbl := s.tbl.setRecord h r }

/-! ## The free list (R28) -/

/-- The handles of the free list in order. -/
def freeHandles (f : List Run) : List Nat := f.flatMap fun r => List.range' r.first r.count

/-- The length of the free list. -/
def freeLength (f : List Run) : Nat := (f.map Run.count).sum

/-- A run put before a free list, joined to the first run when the two are consecutive; an empty run is left out. -/
def joinRun (r : Run) (f : List Run) : List Run :=
  if r.count = 0 then f
  else match f with
    | [] => [r]
    | q :: rest => if r.first + r.count = q.first then { first := r.first, count := r.count + q.count } :: rest else r :: q :: rest

/-- The head of the free list. -/
def freeHead (f : List Run) : Option Nat := f.head?.map Run.first

/-- The free list without its head. -/
def freePop (f : List Run) : List Run :=
  match f with
  | [] => []
  | r :: rest => joinRun { first := r.first + 1, count := r.count - 1 } rest

/-- A handle joins the tail of the free list. -/
def freePush (f : List Run) (h : Nat) : List Run :=
  match f with
  | [] => [{ first := h, count := 1 }]
  | [r] => joinRun r [{ first := h, count := 1 }]
  | r :: rest => r :: freePush rest h

/-- A handle is taken out of the free list from wherever it stands; the others keep their order. -/
def freeTake (f : List Run) (h : Nat) : List Run :=
  match f with
  | [] => []
  | r :: rest =>
    if r.first ≤ h ∧ h < r.first + r.count then
      joinRun { first := r.first, count := h - r.first }
        (joinRun { first := h + 1, count := r.first + r.count - (h + 1) } rest)
    else joinRun r (freeTake rest h)

/-! ## Transmit queues (R2) -/

/-- The transmit queue of a port. -/
def Prt.queue (p : Prt) : Port → List Frame
  | .p => p.pQueue | .w => p.wQueue | .s => p.sQueue

/-- The path with a port's transmit queue replaced. -/
def Prt.setQueue (p : Prt) (port : Port) (q : List Frame) : Prt :=
  match port with
  | .p => { p with pQueue := q }
  | .w => { p with wQueue := q }
  | .s => { p with sQueue := q }

/-- How many frames a port's transmit queue holds at most (R2). -/
def queueRoom : Port → Nat
  | .p => Config.pQueueRoom | .w => Config.wQueueRoom | .s => Config.sQueueRoom

/-- The overflow counter of a port (R2). -/
def dropCounter : Port → Ctr
  | .p => .pTxDrop | .w => .wTxDrop | .s => .sTxDrop

/-- A block hands a frame to a port: it joins the tail of the transmit queue, or, when the queue is full, it is discarded,
counted and logged as PRT1 with the port (R2). -/
def handToPort (port : Port) (f : Frame) (s : State) : State :=
  if (s.prt.queue port).length < queueRoom port then
    { s with prt := s.prt.setQueue port (s.prt.queue port ++ [f]) }
  else report .prt1 (ErrInfo.ofPlace (portPlace port)) (bump (dropCounter port) s)

/-! ## Ethernet headers the part writes -/

/-- A frame with an untagged header. -/
def etherFrame (dst src : Mac) (etype : Word16) (payload : List Byte) : Frame :=
  bytes48 dst ++ bytes48 src ++ bytes16 etype ++ payload

/-- The two bytes after 0x8100: priority, the bit between, VLAN id. -/
def tagControl (prio : BitVec 3) (bit : Bool) (vlan : Nat) : List Byte :=
  bytes16 (prio ++ BitVec.ofBool bit ++ BitVec.ofNat 12 vlan)

/-- A frame with a tagged header. -/
def taggedFrame (dst src : Mac) (prio : BitVec 3) (bit : Bool) (vlan : Nat) (etype : Word16) (payload : List Byte) : Frame :=
  bytes48 dst ++ bytes48 src ++ [0x81#8, 0x00#8] ++ tagControl prio bit vlan ++ bytes16 etype ++ payload

/-! ## Notices (R184) -/

/-- The notice frame: the flags, the role and the reset cause as they stand (R184, R187). Its reserved bytes are zero (log
entry 55, DESIGN CHOICE). -/
def noticeFrame (s : State) : Frame :=
  etherFrame s.cfg.noticeMac s.cfg.stationMac s.cfg.mgmtEthertype
    ([2#8, nat8 s.pai.role.code] ++ bytes16 (s.flt.flags.setWidth 16) ++
      [nat8 s.flt.resetRecord.cause.code, nat8 s.flt.resetRecord.role.code] ++ nat16 s.flt.resetRecord.count ++ zeros 4)

/-- A notice is handed to the P-port and the holdoff starts (R184). -/
def sendNotice (s : State) : State :=
  handToPort .p (noticeFrame s) { s with flt := { s.flt with holdoff := .running s.cfg.noticeHoldoff } }

/-- The end of an event that began with the flags `before`. When an unmasked flag has risen in it, a notice is sent, or,
while the holdoff runs, the pending mark is set; several rises in one event send one notice (R183, R184). -/
def settle (before : BitVec 9) (s : State) : State :=
  if s.flt.flags &&& ~~~before &&& s.flt.mask = 0#9 then s
  else match s.flt.holdoff with
    | .stopped => 
      let s' := sendNotice s
      if s'.flt.flags &&& ~~~s.flt.flags &&& s'.flt.mask = 0#9 then s'
      else { s' with flt := { s'.flt with noticeMark := true } }
    | .running _ => { s with flt := { s.flt with noticeMark := true } }

/-- One event of the part: its effect, then the notice its rises cause. -/
def event (f : State → State) (s : State) : State := settle s.flt.flags (f s)

end Sys2Proof.Machine
end

