-- ==== Sys2Proof/Machine/Operands.lean ====
section
/-! DEFINITION. Reading frames: the Ethernet header (R5), the fast-path parser (R13, R14), TCP segments (R52, R53), mirror
headers (R186), management requests (R187). -/

namespace Sys2Proof.Machine

/-! ## The Ethernet header (R5) -/

/-- What the path reads of a frame's header. `tagVlan` is the id of the tag itself (0 untagged), `vlan` the frame's VLAN,
`off` the offset of the first byte after the EtherType. -/
structure Header where
  dst     : Mac
  src     : Mac
  tagged  : Bool
  tagVlan : Nat
  vlan    : Nat
  prio    : BitVec 3
  tagBit  : Bool
  etype   : Word16
  off     : Nat
  deriving DecidableEq, Repr

/-- The header of a frame; one tag is read, and VLAN id 0 means default_vlan (R5). -/
def readHeader (defaultVlan : Nat) (f : Frame) : Header :=
  if word16At f 12 = 0x8100#16 then
    let tci := word16At f 14
    let vid := (tci.extractLsb' 0 12).toNat
    { dst := macAt f 0, src := macAt f 6, tagged := true, tagVlan := vid, vlan := if vid = 0 then defaultVlan else vid,
      prio := tci.extractLsb' 13 3, tagBit := tci.getLsbD 12, etype := word16At f 16, off := 18 }
  else
    { dst := macAt f 0, src := macAt f 6, tagged := false, tagVlan := 0, vlan := defaultVlan, prio := 0#3, tagBit := false,
      etype := word16At f 12, off := 14 }

/-- The header of a frame as this part's configuration reads it. -/
def headerOf (s : State) (f : Frame) : Header := readHeader s.cfg.defaultVlan f

/-! ## Zones (R4) -/

/-- The enabled zones with their numbers, in ascending order. -/
def enabledZones (zs : Vector Zone 8) : List (Nat × Zone) :=
  ((List.range 8).zip zs.toList).filter fun p => p.2.enabled

/-- The number of the enabled zone whose VLAN id is given (R13). -/
def zoneOfVlan (zs : Vector Zone 8) (vlan : Nat) : Option Nat :=
  ((enabledZones zs).find? fun p => p.2.vlan == vlan).map Prod.fst

/-- The zone table's entry of a number (numbers above 7 read as a disabled zone). -/
def zoneAt (zs : Vector Zone 8) (i : Nat) : Zone := zs.toList.getD i Zone.default

/-- A MAC is the virtual MAC of an enabled zone (R7, R12). -/
def isVirtualMac (zs : Vector Zone 8) (m : Mac) : Bool := (enabledZones zs).any fun p => p.2.mac == m

/-- An address is the non-zero virtual IPv4 of an enabled zone (R7, R12). -/
def isVirtualIp (zs : Vector Zone 8) (a : Ip4) : Bool := (enabledZones zs).any fun p => p.2.ip == a && p.2.ip != 0#32

/-! ## ARP fields

Ethernet and IPv4 ARP: the fields of R149 in their order; log entry 10. -/

/-- The sender protocol address of an ARP frame, when the frame holds it (R12). -/
def arpSender (h : Header) (f : Frame) : Option Ip4 :=
  if h.etype = 0x0806#16 ∧ h.off + 18 ≤ f.length then some (word32At f (h.off + 14)) else none

/-- The target protocol address of an ARP frame, when the frame holds it (R7). -/
def arpTarget (h : Header) (f : Frame) : Option Ip4 :=
  if h.etype = 0x0806#16 ∧ h.off + 28 ≤ f.length then some (word32At f (h.off + 24)) else none

/-! ## The fast-path parser (R13, R14) -/

/-- What the parser answers: a reason with the frame's zone (none for UNZONED), or a key. -/
inductive Parsed where
  | refused (reason : Reason) (zone : Option Nat)
  | keyed (zone : Nat) (key : Key)
  deriving DecidableEq, Repr

/-- The ten words of an IPv4 header at an offset. -/
def ipHeaderWords (f : Frame) (ip : Nat) : List Word16 := (List.range 10).map fun k => word16At f (ip + 2 * k)

/-- The IPv4 total length. -/
def ipTotal (f : Frame) (ip : Nat) : Nat := (word16At f (ip + 2)).toNat

/-- The IPv4 header length field. -/
def ipIhl (f : Frame) (ip : Nat) : Nat := ((byteAt f ip).extractLsb' 0 4).toNat

/-- The IPv4 protocol. -/
def ipProto (f : Frame) (ip : Nat) : Byte := byteAt f (ip + 9)

/-- The TCP data offset in 4-byte units, of the header at an offset. -/
def tcpDataOffset (f : Frame) (l4 : Nat) : Nat := ((byteAt f (l4 + 12)).extractLsb' 4 4).toNat

/-- The transport step of the parser: the two ports, or the reason why the frame cannot be keyed (R14). -/
def parsePorts (f : Frame) (ip : Nat) : Except Reason (Word16 × Word16) :=
  let l4 := ip + 20
  let room := ipTotal f ip - 20
  if ipProto f ip = 6#8 then
    if 20 ≤ room ∧ 5 ≤ tcpDataOffset f l4 ∧ tcpDataOffset f l4 * 4 ≤ room then .ok (word16At f l4, word16At f (l4 + 2))
    else .error .nonIpv4
  else if ipProto f ip = 17#8 then
    if 8 ≤ room then .ok (word16At f l4, word16At f (l4 + 2)) else .error .nonIpv4
  else if ipProto f ip = 1#8 then
    if room = 0 then .error .nonIpv4
    else if byteAt f l4 = 8#8 ∨ byteAt f l4 = 0#8 then
      if 8 ≤ room then .ok (word16At f (l4 + 4), word16At f (l4 + 4)) else .error .nonIpv4
    else .error .icmpError
  else .ok (0#16, 0#16)

/-- The parser: R13's six steps in order, then R14. -/
def parseFrame (zs : Vector Zone 8) (h : Header) (f : Frame) : Parsed :=
  match zoneOfVlan zs h.vlan with
  | none => .refused .unzoned none
  | some z =>
    let ip := h.off
    if ¬(h.etype = 0x0800#16 ∧ (byteAt f ip).extractLsb' 4 4 = 4#4 ∧ 5 ≤ ipIhl f ip ∧ ipIhl f ip * 4 ≤ ipTotal f ip ∧
        ipTotal f ip ≤ f.length - ip) then .refused .nonIpv4 (some z)
    else if ipIhl f ip ≠ 5 then .refused .ipOptions (some z)
    else if (word16At f (ip + 6)).getLsbD 13 ∨ (word16At f (ip + 6)).extractLsb' 0 13 ≠ 0#13 then .refused .fragment (some z)
    else if onesSum (ipHeaderWords f ip) ≠ 0xFFFF#16 then .refused .badIpChecksum (some z)
    else if (byteAt f (ip + 8)).toNat < 2 then .refused .ttlExpired (some z)
    else match parsePorts f ip with
      | .error r => .refused r (some z)
      | .ok (sp, dp) =>
        .keyed z { zone := nat8 z, proto := ipProto f ip, srcAddr := word32At f (ip + 12), srcPort := sp,
                   dstAddr := word32At f (ip + 16), dstPort := dp }

/-! ## TCP segments (R52, R53) -/

/-- A TCP segment as the tracker reads it. `window` is the window field unshifted; `options` are the bytes from byte 20
of the TCP header to its end. -/
structure Segment where
  seq     : Word32
  ack     : Word32
  window  : Word16
  hasSyn  : Bool
  hasAck  : Bool
  hasFin  : Bool
  hasRst  : Bool
  payload : Nat
  options : List Byte
  deriving DecidableEq, Repr

/-- The segment of a parsed TCP frame whose IPv4 header is at `ip` (IHL 5). -/
def readSegment (f : Frame) (ip : Nat) : Segment :=
  let l4 := ip + 20
  let flags := byteAt f (l4 + 13)
  let doff := tcpDataOffset f l4
  { seq := word32At f (l4 + 4), ack := word32At f (l4 + 8), window := word16At f (l4 + 14),
    hasFin := flags.getLsbD 0, hasSyn := flags.getLsbD 1, hasRst := flags.getLsbD 2, hasAck := flags.getLsbD 4,
    payload := ipTotal f ip - 20 - doff * 4, options := slice f (l4 + 20) (doff * 4 - 20) }

/-- E: the segment's end, S + L with L the payload plus one for SYN and one for FIN (R52). -/
def Segment.finish (g : Segment) : Word32 :=
  g.seq + BitVec.ofNat 32 (g.payload + (if g.hasSyn then 1 else 0) + (if g.hasFin then 1 else 0))

/-- What the option walk finds: a malformed list, or the scale value if one is offered (R53). -/
inductive Options where
  | malformed
  | scale (value : Option Byte)
  deriving DecidableEq, Repr

/-- The option walk (R53). `fuel` bounds the steps; each step leaves at least one byte behind. -/
def walkOptions (fuel : Nat) (found : Option Byte) (os : List Byte) : Options :=
  match fuel with
  | 0 => .scale found
  | fuel + 1 =>
    match os with
    | [] => .scale found
    | kind :: rest =>
      if kind = 0#8 then .scale found
      else if kind = 1#8 then walkOptions fuel found rest
      else match rest with
        | [] => .malformed
        | len :: _ =>
          if len.toNat < 2 ∨ os.length < len.toNat then .malformed
          else
            let found' := if kind = 3#8 ∧ len = 3#8 then found.orElse fun _ => some (byteAt os 2) else found
            walkOptions fuel found' (os.drop len.toNat)

/-- The options of a SYN segment (R53). -/
def readOptions (g : Segment) : Options := walkOptions (g.options.length + 1) none g.options

/-! ## Mirror headers (R186) -/

/-- The fields of a hello from its first byte, the message type. The refresh list is read for a count up to 16. -/
def readHello (p : List Byte) : Hello :=
  { flags := byteAt p 1, stationId := word16At p 2, stationMac := macAt p 4, priority := byteAt p 10, role := byteAt p 11,
    revision := byteAt p 12, count := byteAt p 13, pairGen := word32At p 14, adoptedGen := word32At p 18,
    handleCount := word32At p 22, slotCount := word32At p 26, zoneDigest := word32At p 30, liveCount := word32At p 34,
    refresh := (List.range (min (byteAt p 13).toNat 16)).map fun k => word16At p (38 + 2 * k) }

/-- The bytes of a hello (R186). -/
def helloBytes (h : Hello) : List Byte :=
  [1#8, h.flags] ++ bytes16 h.stationId ++ bytes48 h.stationMac ++ [h.priority, h.role, h.revision, h.count] ++
    bytes32 h.pairGen ++ bytes32 h.adoptedGen ++ bytes32 h.handleCount ++ bytes32 h.slotCount ++ bytes32 h.zoneDigest ++
    bytes32 h.liveCount ++ h.refresh.flatMap bytes16

/-- BULK_WANTED in a hello. -/
def Hello.bulkWanted (h : Hello) : Bool := h.flags.getLsbD 0

/-- YIELD in a hello. -/
def Hello.yieldFlag (h : Hello) : Bool := h.flags.getLsbD 1

/-- The role a hello shows. -/
def Hello.shownRole (h : Hello) : Option Role := Role.ofCode h.role.toNat

/-! ## Management requests (R165, R187) -/

/-- A request as the agent takes it from its queue. `rest` is the number of bytes after the request header. -/
structure Request where
  src      : Mac
  tag      : Word16
  command  : Nat
  object   : Nat
  index    : Nat
  count    : Nat
  stepMode : Nat
  span     : Nat
  clear    : Bool
  length   : Nat
  rest     : Nat
  payload  : List Byte
  deriving DecidableEq, Repr

/-- The request that a management frame holds: its header is the 16 bytes after the EtherType, its payload the bytes that
follow, as many as the header states (R187). Bits 1 to 7 of the flag byte are ignored (log entry 51). -/
def readRequest (f : Frame) : Request :=
  let h := readHeader 0 f
  let p := f.drop h.off
  { src := h.src, tag := word16At p 0, command := (byteAt p 2).toNat, object := (byteAt p 3).toNat,
    index := (word16At p 4).toNat, count := (byteAt p 6).toNat, stepMode := (byteAt p 7).toNat, span := (byteAt p 8).toNat,
    clear := (byteAt p 9).getLsbD 0, length := (word16At p 10).toNat, rest := (p.drop 16).length,
    payload := (p.drop 16).take (word16At p 10).toNat }

/-- The rows of the table that a request of the queue can be. -/
inductive Row where
  | runt | undefined | read | readCountersClear | write | writeConfig | writeZones | writeTimeouts | writeStatus | writeClock
  | install | find | remove | keepalive
  | start | stop | take | yield | resume | resumePath | forceFault | softReset | clearErrors | clearStatus
  | clockRun | clockHalt | clockSet
  deriving DecidableEq, Repr

/-- The row of a CONTROL action code (R189). -/
def Row.ofAction : Nat → Row
  | 1 => .start | 2 => .stop | 3 => .take | 4 => .yield | 5 => .resume | 6 => .resumePath | 7 => .forceFault
  | 8 => .softReset | 9 => .clearErrors | 10 => .clearStatus | 11 => .clockRun | 12 => .clockHalt | 13 => .clockSet
  | _ => .undefined

/-- The row that takes a request: the frame that is no request (R163), else by its command, its object, and for CONTROL
its action (R165, R174). A CONTROL request without an action byte has no defined action. -/
def Request.row (r : Request) : Row :=
  if r.rest < r.length then .runt
  else match r.command with
    | 1 => if r.object = 6 ∧ r.clear then .readCountersClear else .read
    | 2 => match r.object with
      | 1 => .writeConfig | 2 => .writeZones | 3 => .writeTimeouts | 5 => .writeStatus | 9 => .writeClock | _ => .write
    | 3 => .install
    | 4 => .find
    | 5 => .remove
    | 6 => match r.payload with
      | [] => .undefined
      | a :: _ => Row.ofAction a.toNat
    | 7 => .keepalive
    | _ => .undefined

/-- The argument of a CONTROL request (R187). -/
def Request.argument (r : Request) : Word32 := word32At r.payload 4

/-! ## Key records (R186) -/

/-- The key record at an offset. -/
def readKey (p : List Byte) (i : Nat) : Key :=
  { zone := byteAt p i, proto := byteAt p (i + 1), srcAddr := word32At p (i + 2), srcPort := word16At p (i + 6),
    dstAddr := word32At p (i + 8), dstPort := word16At p (i + 12) }

/-- The first 14 bytes of a key record. -/
def keyBytes (k : Key) : List Byte :=
  [k.zone, k.proto] ++ bytes32 k.srcAddr ++ bytes16 k.srcPort ++ bytes32 k.dstAddr ++ bytes16 k.dstPort

/-- A whole key record, 16 bytes. -/
def keyRecord (k : Key) : List Byte := keyBytes k ++ zeros 2

end Sys2Proof.Machine
end

