-- ==== Sys2Proof/Machine/Table.lean ====
section
/-! DEFINITION. The session table's operations (chapter 2) but for parity checks and lookups (Parity.lean): the hash, the
insert, the digest, marks on the dirty list, removal, clearing. -/

namespace Sys2Proof.Machine

/-! ## The key table (R29 to R32) -/

/-- The seven words of a key (R30). -/
def keyWords (k : Key) : List Word16 :=
  [k.zone ++ k.proto, k.srcAddr.extractLsb' 16 16, k.srcAddr.extractLsb' 0 16, k.srcPort, k.dstAddr.extractLsb' 16 16,
   k.dstAddr.extractLsb' 0 16, k.dstPort]

/-- One step of the hash: rotate left by 5, then exclusive or with the word (R30). -/
def hashStep (h w : Word16) : Word16 := ((h <<< 5) ||| (h >>> 11)) ^^^ w

/-- The running value after the seventh word (R30). -/
def hashKey (seed : Word16) (k : Key) : Word16 := (keyWords k).foldl hashStep seed

/-- The bucket of a key: the low 14 bits (R30). -/
def bucketOf (seed : Word16) (k : Key) : Nat := (hashKey seed k).toNat % Config.buckets

/-- The positions a lookup of a key reads, in the order an insert prefers them: the 4 slots of its bucket, then the 32
stash slots (R29, R31, R32). -/
def keyPositions (seed : Word16) (k : Key) : List Nat :=
  (List.range 4).map (fun i => bucketOf seed k * 4 + i) ++ (List.range Config.stashSlots).map (fun i => Config.bucketSlots + i)

/-- The slot at a position, if it is occupied. -/
def Tbl.slot (t : Tbl) (pos : Nat) : Option Slot := sparseFind t.slots pos

/-- The slot among a key's positions that holds the key (R31). -/
def Tbl.findKey (t : Tbl) (seed : Word16) (k : Key) : Option Slot :=
  (keyPositions seed k).findSome? fun pos => (t.slot pos).filter fun sl => sl.key == k

/-- The position an insert gives a key: the lowest empty slot of its bucket, else of the stash (R32). -/
def Tbl.freePosition (t : Tbl) (seed : Word16) (k : Key) : Option Nat :=
  (keyPositions seed k).find? fun pos => (t.slot pos).isNone

/-- The table with a slot occupied. -/
def Tbl.putSlot (t : Tbl) (pos : Nat) (sl : Slot) : Tbl := { t with slots := sparsePut t.slots pos sl }

/-- The table with a slot emptied. -/
def Tbl.dropSlot (t : Tbl) (pos : Nat) : Tbl := { t with slots := sparseDrop t.slots pos }

/-- The insert of a session's two keys, orig_key first: the table with both placed and their two positions, or nothing
when a place for both cannot be found (R32). -/
def Tbl.insertKeys (t : Tbl) (seed : Word16) (orig reply : Key) (h : Nat) : Option (Tbl × Nat × Nat) :=
  match t.freePosition seed orig with
  | none => none
  | some p =>
    let t1 := t.putSlot p { key := orig, handle := h, dir := .orig, keyGood := true, refGood := true }
    match t1.freePosition seed reply with
    | none => none
    | some q => some (t1.putSlot q { key := reply, handle := h, dir := .reply, keyGood := true, refGood := true }, p, q)

/-- How many of two positions stand in the stash (R32). -/
def stashCount (p q : Nat) : Nat :=
  (if Config.bucketSlots ≤ p then 1 else 0) + (if Config.bucketSlots ≤ q then 1 else 0)

/-! ## The digest (R43) -/

/-- The term of a LIVE handle: handle × 65,536 + epoch. -/
def digestTerm (h : Nat) (epoch : Word16) : Word32 := BitVec.ofNat 32 (h * 65536 + epoch.toNat)

/-- A handle becomes LIVE. -/
def Tbl.digestAdd (t : Tbl) (h : Nat) (epoch : Word16) : Tbl :=
  { t with liveCount := t.liveCount + 1, digestSum := t.digestSum + digestTerm h epoch }

/-- A handle leaves LIVE. -/
def Tbl.digestDrop (t : Tbl) (h : Nat) (epoch : Word16) : Tbl :=
  { t with liveCount := t.liveCount - 1, digestSum := t.digestSum - digestTerm h epoch }

/-! ## Handles (R24 to R28, R39) -/

/-- A FREE handle's record: the epoch is kept, all else as after clearing (R25, R26). -/
def freedRecord (epoch : Word16) : Record := { Record.fresh with epoch := epoch }

/-- A RETIRED handle's record: the anchor keeps the epoch, the pending kind REMOVE and the reason (R25, R38). -/
def retiredRecord (epoch : Word16) (reason : RemovalReason) : Record :=
  { Record.fresh with handleState := .retired, epoch := epoch, pending := .remove, removalReason := some reason }

/-- A handle becomes FREE and joins the tail of the free list (R28). -/
def Tbl.release (t : Tbl) (h : Nat) : Tbl :=
  { (t.setRecord h (freedRecord (t.record h).epoch)) with free := freePush t.free h }

/-- A RETIRED handle becomes FREE (R39); any other handle is left. -/
def Tbl.releaseRetired (t : Tbl) (h : Nat) : Tbl :=
  if (t.record h).handleState = .retired then t.release h else t

/-- The RETIRED handles in ascending order. -/
def Tbl.retiredHandles (t : Tbl) : List Nat :=
  (t.records.filter fun p => p.2.handleState == .retired).map Prod.fst

/-- The LIVE handles in ascending order. -/
def Tbl.liveHandles (t : Tbl) : List Nat :=
  (t.records.filter fun p => p.2.handleState == .live).map Prod.fst

/-- Every RETIRED handle becomes FREE, in ascending handle order (R39). -/
def freeAllRetired (s : State) : State :=
  { s with tbl := s.tbl.retiredHandles.foldl Tbl.releaseRetired s.tbl }

/-! ## Marks (R87) -/

/-- The pending kind of a handle written. -/
def setPending (h : Nat) (p : Pending) (s : State) : State :=
  setRecord h { recordOf s h with pending := p } s

/-- A mark on the dirty list, combined with the handle's pending kind (R87). Marks are made only while the stream is
open. A RETIRED handle receives none. -/
def markDirty (kind : Pending) (h : Nat) (s : State) : State :=
  if s.mir.stream = .closed then s
  else match (recordOf s h).pending, kind with
    | .none, _ =>
      let s := setPending h kind s
      { s with mir := { s.mir with dirty := s.mir.dirty ++ [h] } }
    | .update, .create => setPending h .create s
    | .update, _ => s
    | .create, _ => s
    | .remove, _ => s

/-! ## Removal (R37, R38) -/

/-- The counter of a removal reason (R37). -/
def removalCounter : RemovalReason → Ctr
  | .management => .remManagement | .expired => .remExpired | .reopen => .reopen | .parity => .remParity
  | .stale => .remStale | .purge => .remPurge | .remote => .remRemote

/-- The held first frame of a removed session is discarded (R79). -/
def discardHeld (h : Nat) (s : State) : State :=
  if s.hold.any (fun e => e.handle == h) then
    bump .holdDropRemoved { s with hold := s.hold.filter fun e => e.handle != h }
  else s

/-- A removed handle becomes FREE at once when the stream is closed, or when it is pending CREATE with its mirrored group
absent; otherwise it is RETIRED with a REMOVE pending (R38). -/
def becomesFree (stream : Stream) (pending : Pending) (groupPresent : Bool) : Bool :=
  stream == .closed || (pending == .create && !groupPresent)

/-- The fate of a removed handle (R38). -/
def settleHandle (h : Nat) (r : Record) (reason : RemovalReason) (groupPresent : Bool) (s : State) : State :=
  if becomesFree s.mir.stream r.pending groupPresent then
    { s with tbl := s.tbl.release h, mir := { s.mir with dirty := s.mir.dirty.filter fun k => k != h } }
  else
    let s1 := setRecord h (retiredRecord r.epoch reason) s
    if r.pending = .none then { s1 with mir := { s1.mir with dirty := s1.mir.dirty ++ [h] } } else s1

/-- A removal of a LIVE handle's session (R37): both slots are emptied, the handle leaves the digest, the reason's counter
rises, a held frame is discarded, and the handle becomes RETIRED or FREE. A handle that is not LIVE is left. A body parity
failure removes with the mirrored group counted as present (R38). -/
def removeSession (h : Nat) (reason : RemovalReason) (bodyFailed : Bool) (s : State) : State :=
  let r := recordOf s h
  if r.handleState = .live then
    let t := ((s.tbl.dropSlot r.slotOrig).dropSlot r.slotReply).digestDrop h r.epoch
    settleHandle h r reason (bodyFailed || r.body.mirrored.isSome)
      (discardHeld h (bump (removalCounter reason) { s with tbl := t }))
  else s

/-! ## Clearing (R27) -/

/-- The clearing of the table; entries still held are discarded with their sessions (R27, R79). -/
def clearTable (s : State) : State :=
  bumpBy .holdDropRemoved s.hold.length { s with tbl := Tbl.cleared, hold := [] }

end Sys2Proof.Machine
end

