-- ==== Sys2Proof/Machine/Mirror.lean ====
section
/-! DEFINITION. Mirror frames on their way out (R10, R186), hellos (R122 to R124), announcements (R148 to R150), and the
release of held frames (R76, R77). -/

namespace Sys2Proof.Machine

/-! ## Mirror frames (R10, R186) -/

/-- The destination of a mirror frame: the peer's station MAC, or broadcast while none is known (R10). -/
def mirrorDst (s : State) : Mac := s.prt.peerMac.getD broadcastMac

/-- A mirror frame for a path, padded to 64 bytes with its FCS (R10, R186). -/
def mirrorFrame (path : PathId) (payload : List Byte) (s : State) : Frame :=
  match path with
  | .primary => padTo 60 (etherFrame (mirrorDst s) s.cfg.stationMac s.cfg.mirrorEthertype payload)
  | .secondary =>
    padTo 60 (taggedFrame (mirrorDst s) s.cfg.stationMac 0#3 Config.tunnelTagBit s.cfg.syncVlan s.cfg.mirrorEthertype payload)

/-- A block hands a mirror frame to a path. When tunnel_enable is off nothing is handed to the secondary (R10). -/
def sendMirror (path : PathId) (payload : List Byte) (s : State) : State :=
  match path with
  | .primary => handToPort .s (mirrorFrame .primary payload s) s
  | .secondary => if s.cfg.tunnelEnable then handToPort .w (mirrorFrame .secondary payload s) s else s

/-! ## Hellos (R122 to R124) -/

/-- The zone digest (R124). -/
def zoneDigest (zs : Vector Zone 8) : Word32 :=
  ((enabledZones zs).map fun p => BitVec.ofNat 32 (p.2.vlan * 65536 + p.1) + p.2.ip).foldl (· + ·) 0#32

/-- The hello that the part would build now (R123). -/
def buildHello (s : State) : Hello :=
  { flags := flagBit s.shd.bulkWanted 0 ||| flagBit s.pai.yieldFlag 1
    stationId := BitVec.ofNat 16 s.cfg.stationId
    stationMac := s.cfg.stationMac
    priority := nat8 s.cfg.priority
    role := nat8 s.pai.role.code
    revision := nat8 Config.revision
    count := nat8 s.shd.refresh.length
    pairGen := s.pai.pairGen
    adoptedGen := s.shd.adoptedGen
    handleCount := BitVec.ofNat 32 Config.handles
    slotCount := BitVec.ofNat 32 Config.keySlots
    zoneDigest := zoneDigest s.zones
    liveCount := BitVec.ofNat 32 s.tbl.liveCount
    refresh := s.shd.refresh.map (BitVec.ofNat 16) }

/-- A hello is built and sent on both paths, the same content on each, and the hello timer restarts (R122). In DETACHED
none is sent. -/
def sendHello (s : State) : State :=
  if s.pai.role = .detached then s
  else
    let p := helloBytes (buildHello s)
    let s := sendMirror .secondary p (sendMirror .primary p s)
    { s with pai := { s.pai with helloTimer := .running s.cfg.helloInterval } }

/-- BULK_WANTED becomes set; the change from clear to set sends a hello at once (R116, R122). -/
def setBulkWanted (s : State) : State :=
  if s.shd.bulkWanted then s
  else sendHello { s with shd := { s.shd with bulkWanted := true } }

/-- A handle joins the refresh list; at a full list SHD2 is logged and BULK_WANTED set (R117). -/
def joinRefresh (h : Nat) (s : State) : State :=
  if s.shd.refresh.contains h then s
  else if s.shd.refresh.length < Config.refreshRoom then
    { s with shd := { s.shd with refresh := s.shd.refresh ++ [h] } }
  else setBulkWanted (report .shd2 (ErrInfo.ofHandle h) s)

/-! ## Announcements (R148 to R150) -/

/-- The announcing zones in ascending order (R148). -/
def announcingZones (zs : Vector Zone 8) : List Zone :=
  ((enabledZones zs).map Prod.snd).filter fun z => z.announce && z.ip != 0#32

/-- The ARP fields of a zone's announcement (R149). -/
def announcementArp (z : Zone) : List Byte :=
  bytes16 1#16 ++ bytes16 0x0800#16 ++ [6#8, 4#8] ++ bytes16 1#16 ++ bytes48 z.mac ++ bytes32 z.ip ++ zeros 6 ++ bytes32 z.ip

/-- A zone's announcement (R149). -/
def announcement (cfg : ConfigRec) (z : Zone) : Frame :=
  padTo 60 (if z.vlan = cfg.defaultVlan then etherFrame broadcastMac z.mac 0x0806#16 (announcementArp z)
    else taggedFrame broadcastMac z.mac 0#3 Config.announceTagBit z.vlan 0x0806#16 (announcementArp z))

/-- One announcement is handed to the W-port and counted (R149). -/
def sendAnnouncement (s : State) (z : Zone) : State :=
  bump .announceSent (handToPort .w (announcement s.cfg z) s)

/-- One round: an announcement for each announcing zone in ascending index (R150). -/
def sendRound (s : State) : State := (announcingZones s.zones).foldl sendAnnouncement s

/-- A burst after one more round has been sent, with the rounds that remain (R150). -/
def burstAfter (rounds spacing : Nat) : Burst :=
  if rounds = 0 then .idle else .running rounds (.running spacing)

/-- A burst starts: it replaces any burst in progress and sends its first round at once; with no announcing zone it is
IDLE at once (R148). -/
def startBurst (s : State) : State :=
  if announcingZones s.zones = [] then { s with tko := { s.tko with burst := .idle } }
  else
    let s := sendRound s
    { s with tko := { s.tko with burst := burstAfter (s.cfg.announceCount - 1) s.cfg.announceSpacing } }

/-- A role change to a role outside the active ones ends the burst; TKO2 is logged with the rounds that remained (R150). -/
def endBurst (s : State) : State :=
  match s.tko.burst with
  | .idle => s
  | .running rounds _ =>
    let s := { s with tko := { s.tko with burst := .idle } }
    if rounds = 0 then s else report .tko2 (ErrInfo.ofSeq rounds) s

/-! ## Release of held frames (R76, R77, R80) -/

/-- The session record's release_seq becomes absent; the entry's session is the LIVE record of the same epoch. -/
def clearReleaseSeq (e : HoldEntry) (s : State) : State :=
  let r := recordOf s e.handle
  if r.handleState = .live ∧ r.epoch = e.epoch then
    setRecord e.handle { r with body := { r.body with releaseSeq := none } } s
  else s

/-- A held frame that has left the queue is handed to the W-port, counted by its cause and in HIT_FWD (R23, R76). -/
def releaseHeld (cause : Ctr) (s : State) (e : HoldEntry) : State :=
  bump .hitFwd (bump cause (handToPort .w e.frame (clearReleaseSeq e s)))

/-- The entries of the hold queue that a condition picks are released in queue order; the others keep their order. -/
def releaseWhere (pick : HoldEntry → Bool) (cause : Ctr) (s : State) : State :=
  (s.hold.filter pick).foldl (releaseHeld cause) { s with hold := s.hold.filter fun e => !pick e }

/-- A stream restart releases every entry unprotected and logs HLD4 once with the first handle (R80). -/
def flushHold (s : State) : State :=
  match s.hold with
  | [] => s
  | e :: _ => report .hld4 (ErrInfo.ofHandle e.handle) (releaseWhere (fun _ => true) .holdRelFlush s)

/-- A stream close disposes of the entries by the role the part has at the close (R81): released in the active roles;
discarded in the others, with HLD3 but for DETACHED. -/
def disposeHold (role : Role) (s : State) : State :=
  match s.hold with
  | [] => s
  | e :: _ =>
    if role.isActive then releaseWhere (fun _ => true) .holdRelFlush s
    else
      let s1 := bumpBy .holdDropRole s.hold.length (s.hold.foldl (fun t e => clearReleaseSeq e t) { s with hold := [] })
      if role = .detached then s1 else report .hld3 (ErrInfo.ofHandle e.handle) s1

end Sys2Proof.Machine
end

