-- ==== Sys2Proof/Machine/Stream.lean ====
section
/-! DEFINITION. The mirror transmitter (chapter 5): the data path, the stream's opening, restart and close, the builder, the
replay queue and acknowledgements. -/

namespace Sys2Proof.Machine

/-! ## DATA frames -/

/-- The bytes of a DATA frame (R186). -/
def dataBytes (d : DataFrame) : List Byte :=
  [2#8, 0#8] ++ nat16 d.deltas.length ++ bytes32 d.gen ++ bytes16 d.seq ++ zeros 2 ++ d.deltas

/-- Every frame of the replay queue is sent again in order on a path, and counted; with no path nothing is sent. -/
def retransmitOn (path : Option PathId) (s : State) : State :=
  match path with
  | none => s
  | some p =>
    bumpBy .dataResent s.mir.replay.length (s.mir.replay.foldl (fun s d => sendMirror p (dataBytes d) s) s)

/-- The replay timer restarts when frames are outstanding (R96). -/
def restartReplayTimer (s : State) : State :=
  { s with mir := { s.mir with
      replayTimer := if s.mir.replay = [] then .stopped else .running s.cfg.replayTimeout } }

/-! ## The data path (R98) -/

/-- The path that R98's rule chooses. -/
def choosePath (s : State) : Option PathId :=
  if s.mir.stream = .opened ∧ s.pai.primary.up ∧ ¬ s.mir.suspendedPrimary then some .primary
  else if s.mir.stream = .opened ∧ s.cfg.tunnelEnable ∧ s.pai.secondary.up ∧ ¬ s.mir.suspendedSecondary then some .secondary
  else none

/-- The data path is chosen anew; a different result while the stream is open is a data-path change (R98). -/
def rechoose (s : State) : State :=
  let c := choosePath s
  if c = s.mir.dataPath then s
  else if s.mir.stream = .closed then { s with mir := { s.mir with dataPath := c } }
  else
    let s1 := retransmitOn c { s with mir := { s.mir with dataPath := c, replayCount := 0, gapLatch := none } }
    raise .path (restartReplayTimer s1)

/-- A suspension of the primary begins: its revert timer starts from zero (R99, R100). A suspension of the secondary has
no timer of its own. -/
def suspend (path : PathId) (s : State) : State :=
  match path with
  | .primary => { s with mir := { s.mir with suspendedPrimary := true, revertElapsed := 0 } }
  | .secondary => { s with mir := { s.mir with suspendedSecondary := true } }

/-- Both suspensions end (R100). -/
def endSuspensions (s : State) : State :=
  { s with mir := { s.mir with suspendedPrimary := false, suspendedSecondary := false, revertElapsed := 0 } }

/-- An S-port FCS discard reaches the mirror transmitter (R1, R99). -/
def countFcs (s : State) : State :=
  let n := min (s.mir.fcsCount + 1) 65535
  let s1 := { s with mir := { s.mir with fcsCount := n } }
  if s.mir.stream = .opened ∧ n = s.cfg.fcsThreshold then
    if s.mir.suspendedPrimary then { s1 with mir := { s1.mir with revertElapsed := 0 } }
    else rechoose (report .pai1 (ErrInfo.ofPlace (pathPlace .primary)) (suspend .primary s1))
  else s1

/-! ## Opening, restart and close (R84 to R86) -/

/-- The open DATA frame that a stream begins with: BULK_BEGIN with the live count of this moment (R85, R92). -/
def bulkBeginFrame (s : State) : OpenFrame :=
  { deltas := [4#8, 0#8, 0#8, 0#8] ++ nat32 s.tbl.liveCount ++ zeros 4, removes := [], creates := [],
    timer := if s.cfg.coalesceTime = 0 then .stopped else .running s.cfg.coalesceTime }

/-- The dirty list is cleared and every pending kind becomes NONE (R85, R86). -/
def clearDirty (s : State) : State :=
  { s with mir := { s.mir with dirty := [] },
           tbl := { s.tbl with records := mapRecords (fun r => { r with pending := .none }) s.tbl.records } }

/-- Every LIVE record's mirrored group becomes absent (R85). -/
def dropMirrored (s : State) : State :=
  { s with tbl := { s.tbl with
      records := mapRecords (fun r => if r.handleState = .live then { r with body := { r.body with mirrored := none } } else r)
        s.tbl.records } }

/-- The replay queue is cleared: the count becomes 0, the timer stops, the latch clears, an open frame is discarded. -/
def clearReplay (s : State) : State :=
  { s with mir := { s.mir with replay := [], replayCount := 0, replayTimer := .stopped, gapLatch := none, openFrame := none } }

/-- What an opening or restart settles of the old generation (R85, 2 to 7). -/
def settleOldStream (s : State) : State :=
  dropMirrored (flushHold (freeAllRetired (clearDirty (clearReplay s))))

/-- An opening, or a restart when the stream is open, with its new generation (R85). The path chosen at an opening is no
data-path change (R98). -/
def beginStream (gen : Word32) (s : State) : State :=
  let s1 := endSuspensions (settleOldStream { s with pai := { s.pai with pairGen := gen } })
  let s2 :=
    if s.mir.stream = .closed then
      let s' := { s1 with mir := { s1.mir with stream := .opened } }
      { s' with mir := { s'.mir with dataPath := choosePath s' } }
    else rechoose s1
  let s3 := { s2 with mir := { s2.mir with
      nextSeq := 0#16, sinceCheckpoint := 0, walk := .walking, cursor := 0, turn := .liveFirst,
      openFrame := some (bulkBeginFrame s2) } }
  raise .bulk (bump .streamStart s3)

/-- A close of the stream; the held frames are disposed of by the role at the close (R81, R86). -/
def closeStream (role : Role) (s : State) : State :=
  if s.mir.stream = .closed then s
  else
    let s1 := freeAllRetired (clearDirty (clearReplay { s with mir := { s.mir with stream := .closed } }))
    disposeHold role { s1 with mir := { s1.mir with
      walk := .idle, cursor := 0, turn := .liveFirst, sinceCheckpoint := 0, dataPath := none } }

/-! ## Deltas (R89, R186) -/

/-- State and fin_order in one byte. -/
def stateByte (b : Body) : Byte := nat8 (b.state.code + 16 * finOrderCode b.finOrder)

/-- A direction tracker, 21 bytes. -/
def trackerBytes (d : DirTracker) : List Byte :=
  [d.wscale.setWidth 8 ||| flagBit d.seeded 4 ||| flagBit d.edgeValid 5 ||| flagBit d.scaleOffered 6 |||
    flagBit d.finEnd.isSome 7] ++
  bytes32 d.hiSeq ++ bytes32 d.hiAck ++ bytes32 d.rightEdge ++ bytes32 d.maxWin ++ bytes32 (d.finEnd.getD 0#32)

/-- The 48 bytes of an UPDATE, which CREATE and BULK_RECORD begin with. -/
def updateBytes (kind : Byte) (h : Nat) (r : Record) : List Byte :=
  [kind, stateByte r.body] ++ nat16 h ++ bytes16 r.epoch ++ trackerBytes r.body.dirOrig ++ trackerBytes r.body.dirReply

/-- The 96 bytes of a CREATE or BULK_RECORD. -/
def createBytes (kind : Byte) (h : Nat) (r : Record) : List Byte :=
  updateBytes kind h r ++ keyRecord r.body.origKey ++ keyRecord r.body.replyKey ++ bytes48 r.body.nextHopOrig ++
    bytes48 r.body.nextHopReply ++ [nat8 (r.body.flowClass.getD 0)] ++ zeros 3

/-- The 8 bytes of a REMOVE, from the anchor. -/
def removeBytes (h : Nat) (r : Record) : List Byte :=
  [3#8, nat8 (removalCode r.removalReason)] ++ nat16 h ++ bytes16 r.epoch ++ zeros 2

/-- The 12 bytes of a BULK_END or CHECKPOINT: the live count and digest sum of the moment. -/
def digestBytes (kind : Byte) (s : State) : List Byte :=
  [kind, 0#8, 0#8, 0#8] ++ nat32 s.tbl.liveCount ++ bytes32 s.tbl.digestSum

/-- The mirrored group that a built delta writes (R70). -/
def mirroredOf (b : Body) : Mirrored :=
  { hiSeqOrig := b.dirOrig.hiSeq, rightOrig := b.dirOrig.rightEdge, hiSeqReply := b.dirReply.hiSeq,
    rightReply := b.dirReply.rightEdge, seen := b.lastSeen }

/-! ## The builder (R89 to R92) -/

/-- A delta the builder has chosen. -/
inductive Choice where
  | live (h : Nat)
  | bulkRecord (h : Nat)
  | bulkEnd
  | checkpoint
  deriving DecidableEq, Repr

/-- The first LIVE handle at or above a place. -/
def nextLive (s : State) (from_ : Nat) : Option Nat := s.tbl.liveHandles.find? fun h => decide (from_ ≤ h)

/-- While WALKING, when the next delta is to be a BULK_RECORD, the cursor first moves up over every handle that is not
LIVE; past 32,767 the walk becomes ENDING (R90). -/
def advanceWalk (s : State) : State :=
  if s.mir.walk = .walking ∧ (s.mir.turn = .bulkNext ∨ s.mir.dirty = []) then
    match nextLive s s.mir.cursor with
    | some h => { s with mir := { s.mir with cursor := h } }
    | none => { s with mir := { s.mir with cursor := Config.handles, walk := .ending } }
  else s

/-- The next delta by the walk state and the alternation (R90, R91), after `advanceWalk`. -/
def chooseDelta (s : State) : Option Choice :=
  match s.mir.walk with
  | .walking =>
    match s.mir.turn, s.mir.dirty with
    | .liveFirst, h :: _ => some (.live h)
    | _, _ => some (.bulkRecord s.mir.cursor)
  | .ending =>
    match s.mir.dirty with
    | h :: _ => some (.live h)
    | [] => some .bulkEnd
  | .idle =>
    match s.mir.dirty with
    | h :: _ => some (.live h)
    | [] =>
      if s.mir.openFrame.isNone ∧ 0 < s.cfg.checkpointInterval ∧ s.cfg.checkpointInterval ≤ s.mir.sinceCheckpoint then
        some .checkpoint
      else none

/-- The bytes of a chosen delta, built from the record as it stands (R89). -/
def choiceBytes (c : Choice) (s : State) : List Byte :=
  match c with
  | .live h =>
    match (recordOf s h).pending with
    | .create => createBytes 1#8 h (recordOf s h)
    | .update => updateBytes 2#8 h (recordOf s h)
    | .remove => removeBytes h (recordOf s h)
    | .none => []
  | .bulkRecord h => createBytes 5#8 h (recordOf s h)
  | .bulkEnd => digestBytes 6#8 s
  | .checkpoint => digestBytes 7#8 s

/-- The open frame, begun when there is none (R92). Its coalesce timer starts with its first delta. -/
def openFrameOf (s : State) : OpenFrame :=
  s.mir.openFrame.getD
    { deltas := [], removes := [], creates := [],
      timer := if s.cfg.coalesceTime = 0 then .stopped else .running s.cfg.coalesceTime }

/-- The open frame with a delta placed in it. -/
def addDelta (c : Choice) (s : State) (fr : OpenFrame) : OpenFrame :=
  let fr := { fr with deltas := fr.deltas ++ choiceBytes c s }
  match c with
  | .live h =>
    match (recordOf s h).pending with
    | .create => { fr with creates := fr.creates ++ [(h, (recordOf s h).epoch)] }
    | .remove => { fr with removes := fr.removes ++ [h] }
    | _ => fr
  | _ => fr

/-- The mirrored group of a handle written (R70). -/
def writeMirrored (h : Nat) (s : State) : State :=
  let r := recordOf s h
  setRecord h { r with body := { r.body with mirrored := some (mirroredOf r.body) } } s

/-- A CREATE or UPDATE writes the handle's mirrored group; a REMOVE has none to write (R70). -/
def groupBuilt (h : Nat) (s : State) : State :=
  match (recordOf s h).pending with
  | .create | .update => writeMirrored h s
  | .remove | .none => s

/-- What building a chosen delta does to its handle and to the walk (R89 to R91). -/
def builtEffect (c : Choice) (s : State) : State :=
  match c with
  | .live h =>
    let s1 := setPending h .none (groupBuilt h s)
    { s1 with mir := { s1.mir with dirty := s1.mir.dirty.filter (fun k => k != h), turn := .bulkNext } }
  | .bulkRecord h =>
    let s1 := writeMirrored h s
    { s1 with mir := { s1.mir with
        cursor := h + 1, turn := .liveFirst, walk := if h + 1 < Config.handles then s1.mir.walk else .ending } }
  | .bulkEnd => raise .bulk { s with mir := { s.mir with walk := .idle } }
  | .checkpoint => { s with mir := { s.mir with sinceCheckpoint := 0 } }

/-- A chosen delta is placed in the open frame. -/
def placeChoice (c : Choice) (s : State) : State :=
  let fr := addDelta c s (openFrameOf s)
  let s1 := builtEffect c s
  { s1 with mir := { s1.mir with openFrame := some fr } }

/-- The hold entry that a CREATE of a handle and epoch is for (R75, R92). -/
def awaitsCreate (c : Nat × Word16) (e : HoldEntry) : Bool := e.handle == c.1 && e.epoch == c.2

/-- The hold entry that a CREATE gives its sequence: R75 writes release_seq once for an entry, so a later CREATE of a session
still held leaves it (log entry 46). -/
def takesSeq (c : Nat × Word16) (e : HoldEntry) : Bool := awaitsCreate c e && e.releaseSeq.isNone

/-- At a frame's closing, the release_seq of each CREATE's hold entry and session record (R75). -/
def writeReleaseSeq (seq : Word16) (s : State) (c : Nat × Word16) : State :=
  if s.hold.any (takesSeq c) then
    let r := recordOf s c.1
    let s1 := { s with hold := s.hold.map fun e => if takesSeq c e then { e with releaseSeq := some seq } else e }
    if r.handleState = .live ∧ r.epoch = c.2 then
      setRecord c.1 { r with body := { r.body with releaseSeq := some seq } } s1
    else s1
  else s

/-- The open frame closes: it takes its sequence and generation, joins the replay queue, and is sent on the data path when
there is one (R92). -/
def closeFrame (s : State) : State :=
  match s.mir.openFrame with
  | none => s
  | some fr =>
    let d : DataFrame :=
      { gen := s.pai.pairGen, seq := s.mir.nextSeq, deltas := fr.deltas, removes := fr.removes, creates := fr.creates }
    let s1 := { s with mir := { s.mir with
        openFrame := none, nextSeq := s.mir.nextSeq + 1#16, sinceCheckpoint := min (s.mir.sinceCheckpoint + 1) 4096,
        replay := s.mir.replay ++ [d],
        replayTimer := if s.mir.replay = [] then .running s.cfg.replayTimeout else s.mir.replayTimer } }
    let s2 := fr.creates.foldl (writeReleaseSeq d.seq) s1
    match s2.mir.dataPath with
    | none => s2
    | some p => bump .dataSent (sendMirror p (dataBytes d) s2)

/-- The frame just received a CREATE that a held frame waits for (R92). -/
def heldCreate (c : Choice) (s : State) : Bool :=
  match c with
  | .live h => (recordOf s h).pending == .create && s.hold.any (awaitsCreate (h, (recordOf s h).epoch))
  | _ => false

/-- The builder has no further delta to place in the open frame. -/
def nothingFurther (s : State) : Bool := s.mir.walk == .idle && s.mir.dirty.isEmpty

/-- A chosen delta is placed; the frame closes at once on a held CREATE, and, with coalesce_time 0, when nothing further
is to be placed (R92), while the clock is HALTED too (log entry 57, DESIGN CHOICE). -/
def buildChoice (c : Choice) (s : State) : State :=
  let s1 := placeChoice c s
  if heldCreate c s ∨ (s.cfg.coalesceTime = 0 ∧ nothingFurther s1) then closeFrame s1 else s1

/-- A delta that does not fit begins the next frame: the choice of a BULK_RECORD stands (R92). -/
def commitChoice (c : Choice) (s : State) : State :=
  match c with
  | .bulkRecord _ => { s with mir := { s.mir with turn := .bulkNext } }
  | _ => s

/-- A chosen delta that does not fit closes the open frame first, and begins the next one when the replay queue has room
(R92). -/
def buildOverflow (c : Choice) (s : State) : State :=
  let s1 := closeFrame (commitChoice c s)
  if s1.mir.replay.length < Config.replayRoom then buildChoice c s1 else s1

/-- A chosen delta fits the open frame (5.4). -/
def choiceFits (c : Choice) (s : State) : Bool :=
  decide ((openFrameOf s).deltas.length + (choiceBytes c s).length ≤ Config.deltaRoom)

/-- The builder's next delta, after the cursor has moved (R89 to R92). With no delta to place and coalesce_time 0, the open
frame closes, while the clock is HALTED too (log entry 57, DESIGN CHOICE). -/
def buildNext (s : State) : State :=
  match chooseDelta s with
  | none => if s.cfg.coalesceTime = 0 then closeFrame s else s
  | some c => if choiceFits c s then buildChoice c s else buildOverflow c s

/-- One step of the builder (R89 to R92): the next delta is placed when a frame is open or the replay queue has room for
a new one. -/
def buildDelta (s : State) : State :=
  if s.mir.stream = .closed then s
  else if s.mir.openFrame.isNone ∧ Config.replayRoom ≤ s.mir.replay.length then s
  else buildNext (advanceWalk s)

/-! ## The replay timer (R95, R97) -/

/-- The path that a restart will run on: the rule of R98 with no suspension. -/
def restartPath (s : State) : Option PathId := choosePath (endSuspensions s)

/-- The data path, when there is one, becomes suspended (R97, 3). -/
def suspendDataPath (s : State) : State :=
  match s.mir.dataPath with
  | none => s
  | some p => suspend p s

/-- The replay count becomes 0 (R97, 3). -/
def clearReplayCount (s : State) : State := { s with mir := { s.mir with replayCount := 0 } }

/-- No path is left: MIR3 with the path of the restart, and the stream restarts with the next generation (R97, 4). -/
def restartStream (s : State) : State :=
  beginStream (s.pai.pairGen + 1#32) (report .mir3 { ErrInfo.none with place := (restartPath s).map pathPlace } s)

/-- From the limit onward: the data path is suspended and chosen anew, or the stream restarts (R97, 3 and 4). -/
def atReplayLimit (s : State) : State :=
  if s.mir.replayCount = s.cfg.replayLimit then
    let s1 := report .mir2 { ErrInfo.none with place := s.mir.dataPath.map pathPlace } s
    let s2 := rechoose (clearReplayCount (suspendDataPath s1))
    if s2.mir.dataPath = none then restartStream s2 else s2
  else s

/-- The replay timer's expiry with frames outstanding (R97). -/
def replayExpired (s : State) : State :=
  let s1 := retransmitOn s.mir.dataPath s
  atReplayLimit (restartReplayTimer { s1 with mir := { s1.mir with replayCount := s1.mir.replayCount + 1, gapLatch := none } })

/-- A gap flag is acted on (R95). -/
def gapRetransmit (next : Word16) (s : State) : State :=
  let s1 := retransmitOn s.mir.dataPath s
  atReplayLimit
    (restartReplayTimer { s1 with mir := { s1.mir with replayCount := s1.mir.replayCount + 1, gapLatch := some next } })

/-- A gap flag is acted on when the latch does not hold its next_expected and frames remain (R95). -/
def gapActs (next : Word16) (s : State) : Bool := s.mir.gapLatch != some next && !s.mir.replay.isEmpty

/-! ## Acknowledgements (R94) -/

/-- The sequence of the oldest unacknowledged frame; next_seq when the queue is empty (R93). -/
def oldestSeq (m : Mir) : Word16 :=
  match m.replay with
  | [] => m.nextSeq
  | d :: _ => d.seq

/-- What a taken ACK of the k oldest frames does (R94). -/
def takeAck (k : Nat) (s : State) : State :=
  let acked := s.mir.replay.take k
  let s1 := { s with mir := { s.mir with replay := s.mir.replay.drop k, replayCount := 0, gapLatch := none } }
  let s2 := { s1 with tbl := (acked.flatMap DataFrame.removes).foldl Tbl.releaseRetired s1.tbl }
  let seqs := acked.map DataFrame.seq
  restartReplayTimer
    (releaseWhere (fun e => match e.releaseSeq with | some q => seqs.contains q | none => false) .holdRelAck s2)

/-- An ACK reaches the mirror transmitter (R94, R95). -/
def receiveAck (gen : Word32) (next : Word16) (gap : Bool) (s : State) : State :=
  if s.mir.stream = .closed then bump .ackIgnored s
  else if gen ≠ s.pai.pairGen then bump .ackIgnored s
  else
    let k := (next - oldestSeq s.mir).toNat
    if k = 0 then
      if gap ∧ gapActs next s then gapRetransmit next s else bump .ackIgnored s
    else if k ≤ s.mir.replay.length then
      let s1 := takeAck k s
      if gap ∧ gapActs next s1 then gapRetransmit next s1 else s1
    else bump .ackIgnored (report .mir1 (ErrInfo.ofSeq next.toNat) s)

/-! ## Drain (R101) -/

/-- The mirror transmitter is drained. -/
def isDrained (s : State) : Bool :=
  s.mir.stream == .opened && s.mir.dirty.isEmpty && s.mir.openFrame.isNone && s.mir.walk == .idle && s.mir.replay.isEmpty

end Sys2Proof.Machine
end

