-- ==== Sys2Proof/Machine/Roles.lean ====
section
/-! DEFINITION. The role change as one event (R139) with what each block does by it, and the entry to FAULTED of every
FAULT-class error (R138, R178). -/

namespace Sys2Proof.Machine

/-! ## Presence and usability (R128) -/

/-- The peer is present while at least one path is UP. -/
def peerPresent (s : State) : Bool := s.pai.primary.up || s.pai.secondary.up

/-- The role in the peer record. -/
def peerRole (s : State) : Option Role := s.pai.peer.bind fun p => p.hello.shownRole

/-- The peer is usable while it is present and the role in the peer record is not FAULTED. -/
def peerUsable (s : State) : Bool :=
  peerPresent s && (match peerRole s with | some r => r != .faulted | none => false)

/-- The PEER flag rises when presence or usability has changed since `before` (R128). -/
def watchPeer (before s : State) : State :=
  if peerPresent before = peerPresent s ∧ peerUsable before = peerUsable s then s else raise .peer s

/-- The governing path: the primary when it is UP, otherwise the secondary (R127). -/
def governingPath (s : State) : PathId := if s.pai.primary.up then .primary else .secondary

/-- The dead interval in ticks (R121). -/
def deadInterval (s : State) : Nat := s.cfg.helloInterval * s.cfg.deadMultiplier

/-- What is held of a path. -/
def Pai.path (p : Pai) : PathId → PathState
  | .primary => p.primary | .secondary => p.secondary

/-- The pairing controller with what it holds of a path replaced. -/
def Pai.setPath (p : Pai) (i : PathId) (st : PathState) : Pai :=
  match i with
  | .primary => { p with primary := st }
  | .secondary => { p with secondary := st }

/-! ## What the blocks do at a role change -/

/-- The role history takes a record; the oldest of eight leaves first (R120, R139). -/
def addHistory (from_ to_ : Role) (cause : Cause) (s : State) : State :=
  let r : RoleRecord := { fromRole := from_, toRole := to_, cause := cause, seconds := s.tim.seconds, ms := s.tim.ms }
  let h := s.pai.history ++ [r]
  { s with pai := { s.pai with history := h.drop (h.length - Config.historyRoom) } }

/-- The shadow receiver when the part leaves the standby roles (R118). -/
def leaveStandby (s : State) : State :=
  { s with shd := { s.shd with refresh := [], bulkWanted := false, ackTimer := .stopped, unacked := 0, bound := false } }

/-- The mirrored group and release_seq of every LIVE record become absent on entry to the standby roles (R48). -/
def dropStandbyFields (s : State) : State :=
  { s with tbl := { s.tbl with
      records := mapRecords
        (fun r => if r.handleState = .live then { r with body := { r.body with mirrored := none, releaseSeq := none } } else r)
        s.tbl.records } }

/-- The causes by which a part enters a standby role having seen the peer in an active role (R135). -/
def Cause.sawActive : Cause → Bool
  | .peerActive | .peerTakeover | .dualActive | .dualTakeover => true
  | _ => false

/-- The shadow receiver and the pairing latch when the part enters a standby role from outside them (R105, R116, R135).
BULK_WANTED is carried by the hello of the role change. -/
def enterStandby (from_ to_ : Role) (cause : Cause) (s : State) : State :=
  let s1 := dropStandbyFields s
  { s1 with
    shd := { s1.shd with bound := false, expectedSeq := 0#16, unacked := 0, ackTimer := .stopped,
                         bulkWanted := s1.shd.bulkWanted || (to_ == .standbySync && (from_ == .listen || from_.isActive)) }
    pai := { s1.pai with peerActiveSeen := cause.sawActive } }

/-- The standby side at a role change: entry, leaving, or neither (R105, R118). -/
def standbyAtChange (from_ to_ : Role) (cause : Cause) (s : State) : State :=
  if from_.isStandby ∧ ¬ to_.isStandby then leaveStandby s
  else if ¬ from_.isStandby ∧ to_.isStandby then enterStandby from_ to_ cause s
  else s

/-- The stream at a role change: a role outside ACTIVE, TAKEOVER and YIELDING closes it (R86). -/
def streamAtChange (to_ : Role) (s : State) : State := if to_.mayStream then s else closeStream to_ s

/-- The listen timer runs in LISTEN alone (R132). -/
def listenAtChange (to_ : Role) (s : State) : State :=
  { s with pai := { s.pai with listenTimer := if to_ = .listen then .running (deadInterval s) else .stopped } }

/-- The drain timer starts on entering YIELDING, and stops with the YIELD flag cleared on leaving it (R134). -/
def yieldAtChange (to_ : Role) (s : State) : State :=
  { s with pai := { s.pai with
      drainTimer := if to_ = .yielding then .running s.cfg.yieldDrainLimit else .stopped, yieldFlag := false } }

/-- The tolerance in effect on entering TAKEOVER: grace_tolerance, but at least sync_stride (R146). -/
def graceTolerance (cfg : ConfigRec) : Nat := max cfg.graceTolerance cfg.syncStride

/-- The takeover unit on entering TAKEOVER: generation, tolerance, grace timer, report (R143 to R146). The path is that of
the governing path at the entry, or none when neither is UP. -/
def enterTakeover (from_ : Role) (s : State) : State :=
  let s1 := { s with
    pai := { s.pai with pairGen := laterGen s.pai.pairGen s.pai.peerGenSeen + 1#32 }
    tko := { s.tko with grace := .running (s.cfg.gracePeriod * 1000), tolerance := graceTolerance s.cfg } }
  let s2 := bump .tkoEnter s1
  if from_ = .standbySync then
    bump .tkoPartial
      (report .tko1
        { ErrInfo.none with
            place := if peerPresent s2 then some (pathPlace (governingPath s2)) else none
            seq := some s2.shd.expectedSeq.toNat } s2)
  else s2

/-- The takeover unit at a role change (R143, R146, R147). -/
def takeoverAtChange (from_ to_ : Role) (s : State) : State :=
  if to_ = .takeover then enterTakeover from_ s
  else { s with tko := { s.tko with grace := .stopped, tolerance := 0 } }

/-- A burst starts on TAKEOVER, and on ACTIVE or SOLO from LISTEN; it ends when the role leaves the active roles
(R148, R150). -/
def burstAtChange (from_ to_ : Role) (s : State) : State :=
  if to_ = .takeover ∨ (from_ = .listen ∧ (to_ = .active ∨ to_ = .solo)) then startBurst s
  else if to_.isActive then s
  else endBurst s

/-- The keepalive timer stops in FAULTED and DETACHED (R179). -/
def keepaliveAtChange (to_ : Role) (s : State) : State :=
  if to_.keepaliveRuns then s else { s with flt := { s.flt with keepalive := .stopped } }

/-- The patrol stops outside the active roles: a role change taken before the step leaves no step for this tick (R160). -/
def patrolAtChange (to_ : Role) (s : State) : State :=
  if to_.isActive then s else { s with tim := { s.tim with patrolDue := false } }

/-- A path on entering DETACHED: DOWN with its dead timer stopped; judgment and latch are kept (R126). -/
def PathState.down (p : PathState) : PathState := { p with up := false, deadTimer := .stopped }

/-- The paths, the hello timer and the latch on entering DETACHED (R122, R126, R131). A path that was UP raises PATH. -/
def detachAtChange (to_ : Role) (s : State) : State :=
  if to_ = .detached then
    let s1 := { s with pai := { s.pai with
        primary := s.pai.primary.down, secondary := s.pai.secondary.down, helloTimer := .stopped, peerActiveSeen := false } }
    let s2 := if peerPresent s then raise .path s1 else s1
    watchPeer s s2
  else s

/-- A role change, as one event (R139): the role, its history record and the ROLE flag; then every block acts by the new
role; then the hello, built after these changes (R122, R143). -/
def changeRole (to_ : Role) (cause : Cause) (s : State) : State :=
  let from_ := s.pai.role
  let s1 := raise .role (addHistory from_ to_ cause { s with pai := { s.pai with role := to_ } })
  let s2 := streamAtChange to_ (standbyAtChange from_ to_ cause s1)
  let s3 := takeoverAtChange from_ to_ (yieldAtChange to_ (listenAtChange to_ s2))
  let s4 := patrolAtChange to_ (keepaliveAtChange to_ (burstAtChange from_ to_ s3))
  sendHello (detachAtChange to_ s4)

/-! ## Faults (R138, R178) -/

/-- The cause of the role change that a FAULT-class code makes (R178). -/
def faultCause : ErrCode → Cause
  | .flt1 => .keepalive
  | .flt2 => .forceFault
  | _ => .faultError

/-- A FAULT-class error: filed, and in the same event the role becomes FAULTED, but for DETACHED and FAULTED (R178). -/
def raiseFault (code : ErrCode) (info : ErrInfo) (s : State) : State :=
  let s1 := report code info s
  if s.pai.role = .detached ∨ s.pai.role = .faulted then s1 else changeRole .faulted (faultCause code) s1

/-- A TBL3: the fault with the slot position or the handle, the parity counter, and the clearing of the table (R46). -/
def tableFault (info : ErrInfo) (ctr : Ctr) (s : State) : State := clearTable (raiseFault .tbl3 info (bump ctr s))

end Sys2Proof.Machine
end

