-- ==== Sys2Proof/Machine/Parity.lean ====
section
/-! DEFINITION. Parity checks and their effects (R44 to R46, R48), and lookups (R31). -/

namespace Sys2Proof.Machine

/-- A removal with reason PARITY; on the standby side the handle also joins the refresh list (R45, R48). -/
def removeParity (h : Nat) (bodyFailed : Bool) (s : State) : State :=
  let s1 := removeSession h .parity bodyFailed s
  if s.pai.role.isStandby then joinRefresh h s1 else s1

/-- What a parity check leaves: nothing found, a session removed, or the table cleared. -/
inductive Checked where
  | good | removed | cleared
  deriving DecidableEq, Repr

/-- A LIVE record claims a slot when one of its two slot positions names the slot's position (R44). -/
def claims (r : Record) (pos : Nat) : Bool := r.handleState == .live && (r.slotOrig == pos || r.slotReply == pos)

/-- The check of one slot position (R44, R46): a key parity failure costs the session that claims the slot, any other
failure clears the table. An empty slot holds nothing to check. -/
def checkSlot (pos : Nat) (s : State) : State × Checked :=
  match s.tbl.slot pos with
  | none => (s, .good)
  | some sl =>
    if sl.refGood ∧ sl.keyGood then (s, .good)
    else if sl.refGood ∧ claims (recordOf s sl.handle) pos then
      (removeParity sl.handle false (bump .paritySlot (report .tbl1 (ErrInfo.ofHandle sl.handle) s)), .removed)
    else (tableFault (ErrInfo.ofSeq pos) .paritySlot s, .cleared)

/-- The check of a record's anchor, and of a LIVE record's body (R45, R46). -/
def checkRecord (h : Nat) (s : State) : State × Checked :=
  let r := recordOf s h
  if ¬ r.anchorGood then (tableFault (ErrInfo.ofHandle h) .parityRecord s, .cleared)
  else if r.handleState = .live ∧ ¬ r.bodyGood then
    (removeParity h true (bump .parityRecord (report .tbl2 (ErrInfo.ofHandle h) s)), .removed)
  else (s, .good)

/-- The check of every occupied slot among some positions, up to one that clears the table; the answer says whether the
table was cleared (R31, R44). -/
def checkSlots : List Nat → State → State × Bool
  | [], s => (s, false)
  | p :: ps, s =>
    match checkSlot p s with
    | (s1, .cleared) => (s1, true)
    | (s1, _) => checkSlots ps s1

/-- A lookup of a key (R31): every occupied slot of its bucket and of the stash is checked, a slot that fails is treated as
absent, and a hit also checks the record. The answer is the handle and direction, or a miss. -/
def lookup (k : Key) (s : State) : State × Option (Nat × Dir) :=
  match checkSlots (keyPositions s.cfg.hashSeed k) s with
  | (s1, true) => (s1, none)
  | (s1, false) =>
    match s1.tbl.findKey s1.cfg.hashSeed k with
    | none => (s1, none)
    | some sl =>
      match checkRecord sl.handle s1 with
      | (s2, .good) => (s2, some (sl.handle, sl.dir))
      | (s2, _) => (s2, none)

end Sys2Proof.Machine
end

