-- ==== Sys2Proof/Machine/Tracker.lean ====
section
/-! DEFINITION. Connection tracking (chapter 3): what the tracker answers for a frame of a session, judged on the session's
record alone, and what is written back. -/

namespace Sys2Proof.Machine

/-! ## Directions of a record -/

/-- The opposite direction. -/
def Dir.other : Dir → Dir
  | .orig => .reply | .reply => .orig

/-- The tracker of a direction. -/
def Body.dir (b : Body) : Dir → DirTracker
  | .orig => b.dirOrig | .reply => b.dirReply

/-- The body with a direction's tracker replaced. -/
def Body.setDir (b : Body) (d : Dir) (t : DirTracker) : Body :=
  match d with
  | .orig => { b with dirOrig := t }
  | .reply => { b with dirReply := t }

/-! ## Segment values (R52, R54) -/

/-- Scaling is in effect when both directions have offered a scale (R54). -/
def Body.scaling (b : Body) : Bool := b.dirOrig.scaleOffered && b.dirReply.scaleOffered

/-- W: the window field, shifted by the sender's wscale when scaling is in effect and the segment does not carry SYN (R52). -/
def windowOf (b : Body) (d : Dir) (g : Segment) : Word32 :=
  if b.scaling ∧ ¬ g.hasSyn then g.window.setWidth 32 <<< (b.dir d).wscale.toNat else g.window.setWidth 32

/-- A tolerance as a sequence distance. -/
def tolWord (tol : Nat) : Word32 := BitVec.ofNat 32 tol

/-! ## The window checks (R65) -/

/-- C1: E is not after the other direction's right_edge + tol; applied when that edge is valid. -/
def passC1 (b : Body) (d : Dir) (g : Segment) (tol : Nat) : Bool :=
  !(b.dir d.other).edgeValid || seqNotAfter g.finish ((b.dir d.other).rightEdge + tolWord tol)

/-- C2: S is not before this direction's hi_seq less the other's max_win less tol; applied when the other is seeded. -/
def passC2 (b : Body) (d : Dir) (g : Segment) (tol : Nat) : Bool :=
  !(b.dir d.other).seeded || seqNotBefore g.seq ((b.dir d).hiSeq - (b.dir d.other).maxWin - tolWord tol)

/-- C3: A is not after the other direction's hi_seq + tol; applied when ACK is set and the other is seeded. -/
def passC3 (b : Body) (d : Dir) (g : Segment) (tol : Nat) : Bool :=
  !(g.hasAck && (b.dir d.other).seeded) || seqNotAfter g.ack ((b.dir d.other).hiSeq + tolWord tol)

/-- The counter of the first check that fails (R65). -/
def failedCheck (b : Body) (d : Dir) (g : Segment) (tol : Nat) : Option Ctr :=
  if !passC1 b d g tol then some .trkRefRight
  else if !passC2 b d g tol then some .trkRefLeft
  else if !passC3 b d g tol then some .trkRefAck
  else none

/-- The checks of an RST: C1, and C2 when its direction is seeded; C3 is not applied (R63). -/
def failedCheckRst (b : Body) (d : Dir) (g : Segment) (tol : Nat) : Option Ctr :=
  if !passC1 b d g tol then some .trkRefRight
  else if (b.dir d).seeded && !passC2 b d g tol then some .trkRefLeft
  else none

/-! ## Seeding and update (R66, R67) -/

/-- The greater of two windows. -/
def maxWord (a b : Word32) : Word32 := if a.toNat < b.toNat then b else a

/-- A segment seeds its direction (R66). -/
def seedDir (t : DirTracker) (g : Segment) (w : Word32) : DirTracker :=
  let t1 := { t with seeded := true, hiSeq := g.finish, maxWin := maxWord w 1#32 }
  if g.hasAck then { t1 with hiAck := g.ack, rightEdge := g.ack + w, edgeValid := true } else t1

/-- A checked segment updates its direction (R67). -/
def updateDir (t : DirTracker) (g : Segment) (w : Word32) : DirTracker :=
  let t1 := { t with hiSeq := if seqAfter g.finish t.hiSeq then g.finish else t.hiSeq, maxWin := maxWord t.maxWin w }
  if g.hasAck then
    { t1 with
      hiAck := if seqAfter g.ack t.hiAck ∨ ¬ t.edgeValid then g.ack else t.hiAck
      rightEdge := if seqAfter (g.ack + w) t.rightEdge ∨ ¬ t.edgeValid then g.ack + w else t.rightEdge
      edgeValid := true }
  else t1

/-! ## The window-scale option (R53, R54) -/

/-- The tracker with the scale a SYN's options offer, and the errors the reading logs (R53, R54). -/
def scaleDir (t : DirTracker) (g : Segment) : DirTracker × List ErrCode :=
  match readOptions g with
  | .malformed => ({ t with scaleOffered := false, wscale := 0#4 }, [.trk1])
  | .scale none => ({ t with scaleOffered := false, wscale := 0#4 }, [])
  | .scale (some v) =>
    if 14 < v.toNat then ({ t with scaleOffered := true, wscale := 14#4 }, [.trk2])
    else ({ t with scaleOffered := true, wscale := v.setWidth 4 }, [])

/-- The scaling decision at the REPLY SYN+ACK: when not both have offered, both wscale become 0 (R54). -/
def decideScaling (b : Body) : Body :=
  if b.scaling then b
  else { b with dirOrig := { b.dirOrig with wscale := 0#4 }, dirReply := { b.dirReply with wscale := 0#4 } }

/-! ## The state machine (R57 to R63) -/

/-- What the tracker answers: the changed body with the errors logged, a refusal with its counter, or REOPEN (R49). -/
inductive Verdict where
  | accept (b : Body) (notes : List ErrCode)
  | refuse (ctr : Ctr)
  | reopen
  deriving DecidableEq, Repr

/-- Whether a segment without RST fits the state (R57 step 3, R58 to R62). -/
def fits (b : Body) (d : Dir) (g : Segment) : Bool :=
  !(g.hasSyn && g.hasFin) &&
  match b.state, d with
  | .new, .orig => g.hasSyn && !g.hasAck
  | .new, .reply => g.hasSyn && g.hasAck
  | .halfOpen, .orig => (g.hasAck && !g.hasSyn) || (g.hasSyn && !g.hasAck)
  | .halfOpen, .reply => g.hasSyn && g.hasAck
  | .opened, d => !g.hasSyn || !(b.dir d).seeded
  | .drainOne, _ | .drainBoth, _ | .linger, _ => !g.hasSyn
  | .flow, _ | .none, _ => true

/-- An accepted FIN in OPEN: DRAIN_ONE with its direction and end (R60). -/
def finFromOpen (b : Body) (d : Dir) (g : Segment) : Body :=
  if g.hasFin then
    ({ b with state := .drainOne, finOrder := some d }).setDir d { b.dir d with finEnd := some g.finish }
  else b

/-- The last ACK of the drain: from fin_order's direction, not before the other's fin_end (R61). A record that a received delta
leaves without one of the two is ended by no ACK (log entry 53, DESIGN CHOICE). -/
def endsDrain (b : Body) (d : Dir) (g : Segment) : Bool :=
  b.finOrder == some d && g.hasAck &&
    (match (b.dir d.other).finEnd with | some e => seqNotBefore g.ack e | none => false)

/-- The transition of the fitting rule (R57 step 6), with the errors of the options read. In DRAIN_ONE a record without fin_order,
which only a received delta leaves, makes no FIN transition (log entry 53, DESIGN CHOICE). -/
def transition (b : Body) (d : Dir) (g : Segment) : Body × List ErrCode :=
  match b.state with
  | .new =>
    let p := scaleDir (b.dir d) g
    let b1 := b.setDir d p.1
    match d with
    | .orig => (b1, p.2)
    | .reply => ({ decideScaling b1 with state := .halfOpen }, p.2)
  | .halfOpen => (if d = .orig ∧ ¬ g.hasSyn then finFromOpen { b with state := .opened } d g else b, [])
  | .opened => (finFromOpen b d g, [])
  | .drainOne =>
    (if g.hasFin ∧ b.finOrder = some d.other then
      ({ b with state := .drainBoth }).setDir d { b.dir d with finEnd := some g.finish } else b, [])
  | .drainBoth => (if endsDrain b d g then { b with state := .linger } else b, [])
  | .linger | .flow | .none => (b, [])

/-- Step 7 of R57: last_seen, and the direction's packets and bytes (R25). -/
def account (b : Body) (d : Dir) (total : Nat) (now : Word32) : Body :=
  match d with
  | .orig => { b with lastSeen := now, packetsOrig := satAdd32 b.packetsOrig 1, bytesOrig := satAdd48 b.bytesOrig total }
  | .reply => { b with lastSeen := now, packetsReply := satAdd32 b.packetsReply 1, bytesReply := satAdd48 b.bytesReply total }

/-- The tracker's answer for a TCP segment (R57). -/
def judgeTcp (b : Body) (d : Dir) (g : Segment) (tol total : Nat) (now : Word32) : Verdict :=
  if g.hasRst then
    match failedCheckRst b d g tol with
    | some c => .refuse c
    | none => .accept (account { b with state := .linger } d total now) []
  else if b.state = .linger ∧ d = .orig ∧ g.hasSyn ∧ ¬ g.hasAck ∧ ¬ g.hasFin then .reopen
  else if ¬ fits b d g then .refuse .trkRefState
  else
    let w := windowOf b d g
    if ¬ (b.dir d).seeded then
      let p := transition (b.setDir d (seedDir (b.dir d) g w)) d g
      .accept (account p.1 d total now) p.2
    else match failedCheck b d g tol with
      | some c => .refuse c
      | none =>
        let p := transition (b.setDir d (updateDir (b.dir d) g w)) d g
        .accept (account p.1 d total now) p.2

/-- The tracker's answer for a frame of a session: a FLOW session accepts every frame (R64). -/
def judge (b : Body) (d : Dir) (f : Frame) (ip tol : Nat) (now : Word32) : Verdict :=
  if b.state = .flow then .accept (account b d (ipTotal f ip) now) []
  else judgeTcp b d (readSegment f ip) tol (ipTotal f ip) now

/-! ## Replicating the changes (R70, R71) -/

/-- A direction's edge has moved by more than the stride since the last delta built (R71). -/
def edgeMoved (now base : Word32) (stride : Nat) : Bool := stride < (now - base).toNat

/-- A direction was seeded, its edge became valid, or its scale changed (R71). -/
def dirChanged (old new : DirTracker) : Bool :=
  old.seeded != new.seeded || old.edgeValid != new.edgeValid || old.scaleOffered != new.scaleOffered ||
    old.wscale != new.wscale

/-- The UPDATE criteria of R71 for an accepted frame, against the mirrored group. The touch criterion is judged alike while the
clock is HALTED (log entry 56, DESIGN CHOICE). -/
def updateDue (cfg : ConfigRec) (m : Mirrored) (old new : Body) : Bool :=
  cfg.touchInterval ≤ (new.lastSeen - m.seen).toNat ||
  (new.state != .flow &&
    (old.state != new.state || dirChanged old.dirOrig new.dirOrig || dirChanged old.dirReply new.dirReply ||
     edgeMoved new.dirOrig.hiSeq m.hiSeqOrig cfg.syncStride || edgeMoved new.dirOrig.rightEdge m.rightOrig cfg.syncStride ||
     edgeMoved new.dirReply.hiSeq m.hiSeqReply cfg.syncStride || edgeMoved new.dirReply.rightEdge m.rightReply cfg.syncStride))

/-- After an accepted frame: the mark, when the stream is open, the group present and a criterion met (R71). -/
def markAfter (h : Nat) (old new : Body) (s : State) : State :=
  if s.mir.stream = .opened ∧ new.mirrored.any (fun m => updateDue s.cfg m old new) then
    bump .trkMark (markDirty .update h s)
  else s

/-- The write-back of an accepted frame: the body is written to the LIVE record, the option errors are logged, and the
criteria are evaluated (R49, R57 step 8). -/
def writeBack (h : Nat) (old new : Body) (notes : List ErrCode) (s : State) : State :=
  let s1 := setRecord h { recordOf s h with body := new } s
  markAfter h old new (notes.foldl (fun s c => report c (ErrInfo.ofHandle h) s) s1)

/-! ## Sessions at install (R35, R55) -/

/-- A pure SYN: SYN without ACK, FIN or RST (R55). -/
def Segment.pureSyn (g : Segment) : Bool := g.hasSyn && !g.hasAck && !g.hasFin && !g.hasRst

/-- The ORIG direction of a NEW install, seeded from the enclosed SYN, with the option errors (R55). -/
def seedNew (g : Segment) : DirTracker × List ErrCode :=
  scaleDir { DirTracker.unseeded with
    seeded := true, hiSeq := g.finish, maxWin := maxWord (g.window.setWidth 32) 1#32 } g

end Sys2Proof.Machine
end

