-- ==== Sys2Proof/Machine/Shadow.lean ====
section
/-! DEFINITION. The shadow receiver (chapter 6): reading deltas, placements and the other applications, judging a DATA
frame, and acknowledging. -/

namespace Sys2Proof.Machine

/-! ## Reading deltas (R109, R186) -/

/-- What an UPDATE carries of a session, and what a CREATE or BULK_RECORD begins with. -/
structure Image where
  state    : SessionState
  finOrder : Option Dir
  dirOrig  : DirTracker
  dirReply : DirTracker
  deriving DecidableEq, Repr

/-- What a CREATE or BULK_RECORD carries beyond its image. `flowClass` is the byte as it stands. -/
structure Whole where
  image        : Image
  origKey      : Key
  replyKey     : Key
  nextHopOrig  : Mac
  nextHopReply : Mac
  flowClass    : Nat
  deriving DecidableEq, Repr

/-- A delta as it is applied; a CREATE and a BULK_RECORD are applied alike (R110). -/
inductive Delta where
  | place (h : Nat) (epoch : Word16) (w : Whole)
  | update (h : Nat) (epoch : Word16) (i : Image)
  | remove (h : Nat) (epoch : Word16)
  | bulkBegin (count : Word32)
  | compare (kind : CompareKind) (count sum : Word32)
  deriving DecidableEq, Repr

/-- The size of a delta by its kind byte (5.4, R186). -/
def deltaSize : Byte → Option Nat
  | 1#8 => some 96 | 2#8 => some 48 | 3#8 => some 8 | 4#8 => some 12 | 5#8 => some 96 | 6#8 => some 12 | 7#8 => some 12
  | _ => none

/-- A direction tracker of a delta; a wscale above 14 or a max_win above 2^30 lies outside its range (R50). With its
fin_end-present bit clear the four fin_end bytes are ignored, whatever they hold (log entry 52). -/
def readTracker (p : List Byte) (i : Nat) : Option DirTracker :=
  let b := byteAt p i
  if 14 < (b.extractLsb' 0 4).toNat ∨ 2 ^ 30 < (word32At p (i + 13)).toNat then none
  else some
    { wscale := b.extractLsb' 0 4, seeded := b.getLsbD 4, edgeValid := b.getLsbD 5, scaleOffered := b.getLsbD 6,
      hiSeq := word32At p (i + 1), hiAck := word32At p (i + 5), rightEdge := word32At p (i + 9),
      maxWin := word32At p (i + 13), finEnd := if b.getLsbD 7 then some (word32At p (i + 17)) else none }

/-- A fin_order of a delta: 3 has no code. -/
def readFinOrder (n : Nat) : Option (Option Dir) :=
  match n with
  | 0 => some none | 1 => some (some .orig) | 2 => some (some .reply) | _ => none

/-- The image in the first 48 bytes of an UPDATE, CREATE or BULK_RECORD. -/
def readImage (p : List Byte) : Option Image :=
  match SessionState.ofCode ((byteAt p 1).extractLsb' 0 4).toNat, readFinOrder ((byteAt p 1).extractLsb' 4 2).toNat,
      readTracker p 6, readTracker p 27 with
  | some st, some fo, some d0, some d1 => some { state := st, finOrder := fo, dirOrig := d0, dirReply := d1 }
  | _, _, _, _ => none

/-- The handle of a delta, when it is one (R109). -/
def readHandle (p : List Byte) : Option Nat :=
  if (word16At p 2).toNat < Config.handles then some (word16At p 2).toNat else none

/-- The whole record of a CREATE or BULK_RECORD; a next hop is unicast (R25). -/
def readWhole (p : List Byte) : Option Whole :=
  match readImage p with
  | none => none
  | some im =>
    if isUnicast (macAt p 80) ∧ isUnicast (macAt p 86) then
      some { image := im, origKey := readKey p 48, replyKey := readKey p 64, nextHopOrig := macAt p 80,
             nextHopReply := macAt p 86, flowClass := (byteAt p 92).toNat }
    else none

/-- A live count of a delta: 0 to 32,768 (R43, R103). -/
def readCount (p : List Byte) : Option Word32 :=
  if (word32At p 4).toNat ≤ Config.handles then some (word32At p 4) else none

/-- The delta that exactly the bytes of its size spell. -/
def spellDelta (p : List Byte) : Option Delta :=
  match (byteAt p 0).toNat with
  | 1 | 5 => (readHandle p).bind fun h => (readWhole p).map fun w => .place h (word16At p 4) w
  | 2 => (readHandle p).bind fun h => (readImage p).map fun i => .update h (word16At p 4) i
  | 3 =>
    if 1 ≤ (byteAt p 1).toNat ∧ (byteAt p 1).toNat ≤ 4 then (readHandle p).map fun h => .remove h (word16At p 4) else none
  | 4 => (readCount p).map .bulkBegin
  | 6 => (readCount p).map fun c => .compare .bulkEnd c (word32At p 8)
  | 7 => (readCount p).map fun c => .compare .checkpoint c (word32At p 8)
  | _ => none

/-- The first delta of some bytes and the bytes behind it, or nothing when it is malformed in itself (R109). -/
def readDelta (bs : List Byte) : Option (Delta × List Byte) :=
  match bs with
  | [] => none
  | kind :: _ =>
    match deltaSize kind with
    | none => none
    | some n => if bs.length < n then none else (spellDelta (bs.take n)).map fun d => (d, bs.drop n)

/-! ## What a delta must agree with (R109) -/

/-- A protocol has a state: FLOW for every protocol but TCP, the others for TCP alone. -/
def stateFits (proto : Byte) (st : SessionState) : Bool := if proto = 6#8 then st != .flow else st == .flow

/-- A protocol has a flow_class byte: 0 for TCP, 4 to 7 for the others. -/
def flowClassFits (proto : Byte) (c : Nat) : Bool := if proto = 6#8 then c == 0 else decide (4 ≤ c) && decide (c ≤ 7)

/-- A key's zone is enabled here. -/
def zoneEnabled (zs : Vector Zone 8) (z : Byte) : Bool := (zoneAt zs z.toNat).enabled

/-- A CREATE or BULK_RECORD is well formed against the zone table and in its keys, state and class (R109). -/
def wholeFits (zs : Vector Zone 8) (w : Whole) : Bool :=
  zoneEnabled zs w.origKey.zone && zoneEnabled zs w.replyKey.zone && w.origKey != w.replyKey &&
    w.origKey.proto == w.replyKey.proto && stateFits w.origKey.proto w.image.state &&
    flowClassFits w.origKey.proto w.flowClass

/-! ## Placement (R47, R110) -/

/-- The body with an image written over its state, fin_order and trackers, gen and last_seen set (R109, R111). -/
def Body.withImage (b : Body) (i : Image) (gen now : Word32) : Body :=
  { b with state := i.state, finOrder := i.finOrder, dirOrig := i.dirOrig, dirReply := i.dirReply, gen := gen, lastSeen := now }

/-- The body with every field that a CREATE or BULK_RECORD carries (R47). -/
def Body.withWhole (b : Body) (w : Whole) (gen now : Word32) : Body :=
  { (b.withImage w.image gen now) with
    origKey := w.origKey, replyKey := w.replyKey, nextHopOrig := w.nextHopOrig, nextHopReply := w.nextHopReply,
    flowClass := if w.origKey.proto = 6#8 then none else some w.flowClass }

/-- A handle leaves the refresh list from wherever it stands (R117). -/
def leaveRefresh (h : Nat) (s : State) : State :=
  { s with shd := { s.shd with refresh := s.shd.refresh.filter fun k => k != h } }

/-- One of the delta's keys is looked up, and another handle's session that holds it is removed as STALE (R47, 3). -/
def removeCollision (h : Nat) (k : Key) (s : State) : State :=
  match lookup k s with
  | (s1, some (h', _)) => if h' = h then s1 else removeSession h' .stale false s1
  | (s1, none) => s1

/-- The insert of a placement: the handle leaves the free list and becomes LIVE with the delta's epoch, or, when its keys
find no place, SHD3 is logged and the handle joins the refresh list (R47, 4 to 6). -/
def placeRecord (h : Nat) (epoch : Word16) (w : Whole) (s : State) : State :=
  match s.tbl.insertKeys s.cfg.hashSeed w.origKey w.replyKey h with
  | none => joinRefresh h (report .shd3 (ErrInfo.ofHandle h) s)
  | some (t, p, q) =>
    let r : Record :=
      { handleState := .live, epoch := epoch, pending := .none, removalReason := none, slotOrig := p, slotReply := q,
        anchorGood := true, body := Body.cleared.withWhole w s.shd.adoptedGen s.tim.seconds, bodyGood := true }
    let t1 := ({ (t.setRecord h r) with free := freeTake t.free h }).digestAdd h epoch
    leaveRefresh h (bumpBy .stashInsert (stashCount p q) { s with tbl := t1 })

/-- The record holds the delta's very session (R47, 1). -/
def sameSession (r : Record) (epoch : Word16) (w : Whole) : Bool :=
  r.handleState == .live && r.epoch == epoch && r.body.origKey == w.origKey && r.body.replyKey == w.replyKey

/-- The part is still in a standby role: a step goes on only while it is (R109, R118). -/
def whileStandby (f : State → State) (s : State) : State := if s.pai.role.isStandby then f s else s

/-- A placement (R47) with the parity checks of the records it reads (R44, R110). -/
def placeDelta (h : Nat) (epoch : Word16) (w : Whole) (s : State) : State :=
  whileStandby (fun s1 =>
    let r := recordOf s1 h
    if sameSession r epoch w then
      leaveRefresh h (setRecord h { r with body := r.body.withWhole w s1.shd.adoptedGen s1.tim.seconds } s1)
    else
      whileStandby (placeRecord h epoch w)
        (whileStandby (removeCollision h w.replyKey)
          (removeCollision h w.origKey (removeSession h .stale false s1))))
    (checkRecord h s).1

/-! ## The other deltas (R111 to R115) -/

/-- The handle is LIVE with the epoch named. -/
def liveAs (s : State) (h : Nat) (epoch : Word16) : Bool :=
  (recordOf s h).handleState == .live && (recordOf s h).epoch == epoch

/-- The parity of a record that an UPDATE overwrites or a REMOVE removes is checked: that is the LIVE record of the delta's
epoch, and no other record is read (R44, R111, R112). -/
def checkNamed (h : Nat) (epoch : Word16) (s : State) : State := if liveAs s h epoch then (checkRecord h s).1 else s

/-- An UPDATE that passed R109's checks, after the check of the record it overwrites (R111). -/
def updateRecord (h : Nat) (epoch : Word16) (i : Image) (s : State) : State :=
  if liveAs s h epoch then
    let r := recordOf s h
    setRecord h { r with body := r.body.withImage i s.shd.adoptedGen s.tim.seconds } s
  else joinRefresh h (bump .shdOrphan s)

/-- A REMOVE, after the check of the record it removes (R112). -/
def removeRecord (h : Nat) (epoch : Word16) (s : State) : State :=
  leaveRefresh h (if liveAs s h epoch then removeSession h .remote false s else bump .shdRemIgnored s)

/-- A BULK_BEGIN that begins an adopted frame (R113). -/
def beginBulk (count : Word32) (s : State) : State :=
  let s1 := raise .bulk { s with shd := { s.shd with bulkWanted := false, refresh := [], bulkStart := count.toNat } }
  if s1.pai.role = .standbyReady then changeRole .standbySync .bulkBegin s1 else s1

/-- The purge's visit to one LIVE handle: its parity is checked, and a record of another generation is removed (R114). -/
def purgeOne (s : State) (h : Nat) : State :=
  whileStandby (fun s0 =>
    whileStandby (fun s1 =>
      if (recordOf s1 h).handleState = .live ∧ (recordOf s1 h).body.gen ≠ s1.shd.adoptedGen then removeSession h .purge false s1
      else s1) (checkRecord h s0).1) s

/-- The purge of a BULK_END, in ascending handle order (R114). -/
def purge (s : State) : State := s.tbl.liveHandles.foldl purgeOne s

/-- The table's digest beside the one a delta carries (R114, R115). -/
def comparison (kind : CompareKind) (gen : Word32) (seq : Word16) (count sum : Word32) (s : State) : Comparison :=
  { kind := kind, matched := decide (BitVec.ofNat 32 s.tbl.liveCount = count ∧ s.tbl.digestSum = sum), gen := gen, seq := seq,
    receivedCount := count, receivedSum := sum, localCount := BitVec.ofNat 32 s.tbl.liveCount, localSum := s.tbl.digestSum }

/-- The errors SHD1 and SHD4 carry the generation and the sequence of the frame (R119). -/
def frameInfo (gen : Word32) (seq : Word16) : ErrInfo :=
  { handle := none, place := none, seq := some seq.toNat, gen := some gen }

/-- A comparison: it is written, and a mismatch is counted, logged and answered with BULK_WANTED (R114, R115). -/
def compareDigest (kind : CompareKind) (gen : Word32) (seq : Word16) (count sum : Word32) (s : State) : State :=
  let c := comparison kind gen seq count sum s
  let s1 := { s with shd := { s.shd with lastCompare := some c } }
  if c.matched then bump .shdDigestOk s1
  else setBulkWanted (report .shd1 (frameInfo gen seq) (bump .shdDigestBad s1))

/-- The last comparison shows a match. -/
def lastMatched (s : State) : Bool := s.shd.lastCompare.any fun c => c.matched

/-- A BULK_END: purge, compare, BULK, and STANDBY_READY on a match in STANDBY_SYNC (R114). -/
def endBulk (gen : Word32) (seq : Word16) (count sum : Word32) (s : State) : State :=
  whileStandby (fun s1 =>
    let s2 := raise .bulk (compareDigest .bulkEnd gen seq count sum s1)
    if s2.pai.role = .standbySync ∧ lastMatched s2 then changeRole .standbyReady .bulkMatch s2 else s2) (purge s)

/-- The frame that deltas are applied for: its generation and sequence, and whether it is being adopted. -/
structure FrameId where
  gen      : Word32
  seq      : Word16
  adopting : Bool
  deriving DecidableEq, Repr

/-- One delta of an accepted frame, or nothing when it is malformed against the table, the zones or its place in the
frame (R109). -/
def applyDelta (id : FrameId) (first : Bool) (d : Delta) (s : State) : Option State :=
  match d with
  | .place h epoch w => if wholeFits s.zones w then some (placeDelta h epoch w s) else none
  | .update h epoch i =>
    let s1 := checkNamed h epoch s
    if s1.pai.role.isStandby ∧ liveAs s1 h epoch ∧ ¬ stateFits (recordOf s1 h).body.origKey.proto i.state then none
    else some (whileStandby (updateRecord h epoch i) s1)
  | .remove h epoch => some (whileStandby (removeRecord h epoch) (checkNamed h epoch s))
  | .bulkBegin count => if first ∧ id.adopting then some (beginBulk count s) else none
  | .compare .bulkEnd count sum => some (endBulk id.gen id.seq count sum s)
  | .compare .checkpoint count sum => some (compareDigest .checkpoint id.gen id.seq count sum s)

/-- A malformed delta: the rest of the frame is not applied (R109). -/
def malformed (id : FrameId) (s : State) : State := setBulkWanted (report .shd4 (frameInfo id.gen id.seq) s)

/-- The deltas of a frame in order (R109). Each takes at least one byte, so `fuel` as many as the bytes is enough. -/
def applyDeltas (id : FrameId) : Nat → Bool → List Byte → State → State
  | 0, _, _, s => s
  | _ + 1, _, [], s => s
  | fuel + 1, first, b :: bs, s =>
    match readDelta (b :: bs) with
    | none => malformed id s
    | some (d, rest) =>
      match applyDelta id first d s with
      | none => malformed id s
      | some s1 => if s1.pai.role.isStandby then applyDeltas id fuel false rest s1 else s1

/-! ## Acknowledgement (R108) -/

/-- The bytes of an ACK (R186). -/
def ackBytes (gap : Bool) (s : State) : List Byte :=
  [3#8, flagBit gap 0] ++ bytes16 s.shd.expectedSeq ++ bytes32 s.shd.adoptedGen

/-- An ACK is sent on a path: unacknowledged becomes 0 and the ack timer stops (R108). -/
def sendAck (path : PathId) (gap : Bool) (s : State) : State :=
  bump .shdAckSent
    (sendMirror path (ackBytes gap s) { s with shd := { s.shd with unacked := 0, ackTimer := .stopped } })

/-- An accepted frame counts toward the next ACK (R108). -/
def countAccepted (s : State) : State :=
  let n := s.shd.unacked + 1
  if 8 ≤ n ∨ s.cfg.ackDelay = 0 then sendAck s.shd.ackPath false s
  else { s with shd := { s.shd with
      unacked := n, ackTimer := if s.shd.unacked = 0 then .running s.cfg.ackDelay else s.shd.ackTimer } }

/-! ## Taking frames (R105 to R107) -/

/-- The bytes of deltas of a DATA frame: from byte 12 for the length the header states, or to the end of a shorter frame
(R186). -/
def deltaRange (p : List Byte) : List Byte := slice p 12 (word16At p 2).toNat

/-- A frame is accepted in order: the receiver's items, then its deltas, then its acknowledgement (R107 to R109). -/
def acceptFrame (path : PathId) (id : FrameId) (ds : List Byte) (s : State) : State :=
  let s1 := bump .shdAccept { s with shd := { s.shd with expectedSeq := id.seq + 1#16, ackPath := path } }
  whileStandby countAccepted (applyDeltas id ds.length true ds s1)

/-- A generation is adopted (R106). -/
def adoptGen (g : Word32) (s : State) : State :=
  { s with shd := { s.shd with bound := true, adoptedGen := g },
           pai := { s.pai with pairGen := laterGen s.pai.pairGen g } }

/-- The frame begins a stream: sequence 0, and BULK_BEGIN as its first delta (R106). -/
def beginsStream (seq : Word16) (ds : List Byte) : Bool := seq == 0#16 && ds.head? == some 4#8

/-- A frame of the adopted generation, by its sequence (R107). -/
def takeCurrent (path : PathId) (gen : Word32) (seq : Word16) (ds : List Byte) (s : State) : State :=
  let d := (seq - s.shd.expectedSeq).toNat
  if d = 0 then acceptFrame path { gen := gen, seq := seq, adopting := false } ds s
  else if d ≤ 32767 then sendAck path true (bump .shdAhead s)
  else sendAck path false (bump .shdDup s)

/-- A DATA frame reaches the shadow receiver from a path (R105 to R107). `p` is the mirror frame from its message type. -/
def receiveData (path : PathId) (p : List Byte) (s : State) : State :=
  let gen := word32At p 4
  let seq := word16At p 8
  let ds := deltaRange p
  if ¬ s.pai.role.isStandby then bump .shdRoleDrop s
  else if seqAfter gen s.shd.adoptedGen then
    if beginsStream seq ds then acceptFrame path { gen := gen, seq := seq, adopting := true } ds (adoptGen gen s)
    else bump .shdGenDrop s
  else if gen = s.shd.adoptedGen ∧ s.shd.bound then takeCurrent path gen seq ds s
  else bump .shdGenDrop s

end Sys2Proof.Machine
end

