-- ==== Sys2Proof/Machine/Pairing.lean ====
section
/-! DEFINITION. The pairing controller (chapter 7): judging a hello, the paths, the peer record, what a governing hello does
to the mirror transmitter and to the role, the loss of the peer; and the dispatch of mirror frames. -/

namespace Sys2Proof.Machine

/-! ## Judging a hello (R125) -/

/-- The judgment of a hello with `extra` bytes behind its fixed header: the first row of R125 that matches. -/
def judgeHello (s : State) (h : Hello) (extra : Nat) : Judgment :=
  if h.stationId = BitVec.ofNat 16 s.cfg.stationId then .self
  else if h.revision ≠ nat8 Config.revision ∨ h.shownRole = none ∨ h.shownRole = some .detached ∨
      16 < h.count.toNat ∨ extra < 2 * h.count.toNat then .revision
  else if h.handleCount ≠ BitVec.ofNat 32 Config.handles ∨ h.slotCount ≠ BitVec.ofNat 32 Config.keySlots then .geometry
  else if h.zoneDigest ≠ zoneDigest s.zones then .zones
  else .compatible

/-- The judgment is latched in the path: a change raises PEER, and a change to a non-compatible one logs PAI2 (R125). -/
def latchJudgment (path : PathId) (j : Judgment) (s : State) : State :=
  if (s.pai.path path).judgment = j then s
  else
    let s1 := raise .peer { s with pai := s.pai.setPath path { s.pai.path path with judgment := j } }
    if j = .compatible then s1 else report .pai2 (ErrInfo.ofPlace (pathPlace path)) s1

/-! ## Paths and generations (R126, R127) -/

/-- What every COMPATIBLE hello updates: the peer generation seen, and the destination of mirror frames (R10, R127). -/
def noteHello (h : Hello) (s : State) : State :=
  { s with
    pai := { s.pai with peerGenSeen := laterGen (laterGen s.pai.peerGenSeen h.pairGen) h.adoptedGen }
    prt := { s.prt with peerMac := some h.stationMac } }

/-- A COMPATIBLE hello on a path restarts its dead timer, and brings it UP when it was DOWN (R126). The revert timer of a
suspended primary restarts from zero (R100). -/
def helloOnPath (path : PathId) (s : State) : State :=
  let st := s.pai.path path
  let s1 := { s with pai := s.pai.setPath path { st with up := true, deadTimer := .running (deadInterval s), seen := true } }
  if st.up then s1
  else
    let s2 := if path = .primary ∧ s1.mir.suspendedPrimary then { s1 with mir := { s1.mir with revertElapsed := 0 } } else s1
    rechoose (raise .path s2)

/-! ## Election (R129) -/

/-- This part wins the election against the peer of a hello. -/
def winsElection (s : State) (h : Hello) : Bool :=
  decide (h.priority.toNat < s.cfg.priority) ||
    (s.cfg.priority == h.priority.toNat && decide (s.cfg.stationId < h.stationId.toNat))

/-! ## The mirror transmitter's part of a governing hello (R84, R86, R88) -/

/-- The hello shows a standby role. -/
def Hello.showsStandby (h : Hello) : Bool :=
  match h.shownRole with | some r => r.isStandby | none => false

/-- The hello shows an active role. -/
def Hello.showsActive (h : Hello) : Bool :=
  match h.shownRole with | some r => r.isActive | none => false

/-- The conditions of R84, judged in the role in force when the hello arrived. -/
def opensStream (s : State) (h : Hello) : Bool :=
  s.pai.role.mayStream && h.showsStandby && h.bulkWanted && (s.mir.stream == .closed || h.adoptedGen == s.pai.pairGen)

/-- The generation of an opening or of a restart at the peer's request (R84). -/
def nextGen (s : State) (h : Hello) : Word32 := laterGen (laterGen s.pai.pairGen h.pairGen) h.adoptedGen + 1#32

/-- An opening, or a restart at the peer's request with MIR5 (R84). -/
def openStream (h : Hello) (s : State) : State :=
  let g := nextGen s h
  if s.mir.stream = .closed then beginStream g s
  else beginStream g (report .mir5 { ErrInfo.none with gen := some g } s)

/-- One handle of a hello's refresh list is marked CREATE when it is LIVE (R88). -/
def markRefresh (s : State) (h : Word16) : State :=
  if (recordOf s h.toNat).handleState = .live then markDirty .create h.toNat s else s

/-- The refresh list of a hello of the current generation, while the stream is OPEN (R88). -/
def takeRefresh (h : Hello) (s : State) : State :=
  if s.mir.stream = .opened ∧ h.adoptedGen = s.pai.pairGen then h.refresh.foldl markRefresh s else s

/-- The mirror transmitter acts on a governing hello (R84, R86, R88). `after` is the role that the part has once the hello's
role rule has acted: a close disposes of held frames by it (R81). -/
def mirrorHello (after : Role) (h : Hello) (s : State) : State :=
  if ¬ h.showsStandby then closeStream after s
  else takeRefresh h (if opensStream s h then openStream h s else s)

/-! ## The role rules of a governing hello (R132, R133, R134, R135, R137) -/

/-- The rule in LISTEN (R132). -/
def ruleListen (s : State) (h : Hello) : Role → Option (Role × Cause)
  | .solo | .active | .takeover | .yielding => some (.standbySync, .peerActive)
  | .listen => if winsElection s h then some (.active, .electionWon) else some (.standbySync, .electionLost)
  | .standbySync | .standbyReady => some (.active, .peerStandby)
  | .faulted | .detached => none

/-- The rule of dual activity (R133). -/
def ruleDual (s : State) (h : Hello) : Option (Role × Cause) :=
  if winsElection s h then none else some (.standbySync, .dualActive)

/-- The rule in SOLO (R133). -/
def ruleSolo (s : State) (h : Hello) : Role → Option (Role × Cause)
  | .listen | .standbySync | .standbyReady => some (.active, .peerStandby)
  | .takeover => some (.standbySync, .peerTakeover)
  | .solo | .active | .yielding => ruleDual s h
  | .faulted | .detached => none

/-- The rule in ACTIVE (R133). -/
def ruleActive (s : State) (h : Hello) : Role → Option (Role × Cause)
  | .takeover => some (.standbySync, .peerTakeover)
  | .solo | .active | .yielding => ruleDual s h
  | .faulted => some (.solo, .peerUnusable)
  | .listen | .standbySync | .standbyReady | .detached => none

/-- The rule in YIELDING (R133, R134). -/
def ruleYielding (s : State) (h : Hello) : Role → Option (Role × Cause)
  | .listen => some (.active, .yieldAbandoned)
  | r => ruleActive s h r

/-- The rule in the standby roles. A hello that meets more than one row of R135's table has the cause of the first of them (log
entry 59, DESIGN CHOICE). -/
def ruleStandby (s : State) (h : Hello) (r : Role) : Option (Role × Cause) :=
  if r = .faulted then some (.takeover, .peerUnusable)
  else if h.yieldFlag then some (.takeover, .yieldFlag)
  else if r = .listen ∧ s.pai.peerActiveSeen then some (.takeover, .peerListen)
  else if r.isStandby ∧ s.pai.peerActiveSeen then some (.takeover, .peerStandby)
  else none

/-- The rule in TAKEOVER (R137). -/
def ruleTakeover (s : State) (h : Hello) (r : Role) : Option (Role × Cause) :=
  if r = .takeover ∧ ¬ winsElection s h then some (.standbySync, .dualTakeover) else none

/-- The role change that a governing hello showing a role makes, if any. -/
def helloRule (s : State) (h : Hello) (r : Role) : Option (Role × Cause) :=
  match s.pai.role with
  | .listen => ruleListen s h r
  | .solo => ruleSolo s h r
  | .active => ruleActive s h r
  | .yielding => ruleYielding s h r
  | .standbySync | .standbyReady => ruleStandby s h r
  | .takeover => ruleTakeover s h r
  | .detached | .faulted => none

/-- The error that a role change by a hello logs: PAI3 on a lost dual activity (R133), PAI6 on an abandoned yield (R134). -/
def reportRule (path : PathId) (c : Cause) (s : State) : State :=
  match c with
  | .dualActive => report .pai3 (ErrInfo.ofPlace (pathPlace path)) s
  | .yieldAbandoned => report .pai6 (ErrInfo.ofPlace (pathPlace path)) s
  | _ => s

/-- peer_active_seen is set by a governing hello that shows an active role in a standby role (R135). -/
def latchActive (h : Hello) (s : State) : State :=
  if s.pai.role.isStandby ∧ h.showsActive then { s with pai := { s.pai with peerActiveSeen := true } } else s

/-- A governing COMPATIBLE hello: the mirror transmitter acts in the role in force, then the role rules (R127). -/
def governHello (path : PathId) (h : Hello) (s : State) : State :=
  match h.shownRole.bind (helloRule s h) with
  | none => latchActive h (mirrorHello s.pai.role h s)
  | some (r, c) => changeRole r c (reportRule path c (latchActive h (mirrorHello r h s)))

/-- A COMPATIBLE hello, its judgment latched: it acts on its path, and on the governing path it replaces the peer record
and drives the stream and the role (R126, R127). -/
def takeHello (path : PathId) (h : Hello) (s : State) : State :=
  let s1 := helloOnPath path (noteHello h s)
  if governingPath s1 = path then
    governHello path h (watchPeer s { s1 with pai := { s1.pai with peer := some { hello := h, path := path } } })
  else watchPeer s s1

/-- A hello reaches the pairing controller from a path (R125). -/
def receiveHello (path : PathId) (p : List Byte) (s : State) : State :=
  let h := readHello p
  let j := judgeHello s h (p.length - 38)
  let s1 := latchJudgment path j s
  if j = .compatible then takeHello path h s1 else s1

/-! ## The loss of the peer (R126, R128, R133, R135) -/

/-- The role change that the loss of the peer makes, if any. -/
def lossRule : Role → Option (Role × Cause)
  | .active | .yielding => some (.solo, .peerLost)
  | .standbySync | .standbyReady => some (.takeover, .peerLost)
  | .detached | .listen | .solo | .takeover | .faulted => none

/-- The peer is lost: the stream closes, and the role rule acts (R86, R128). -/
def losePeer (s : State) : State :=
  match lossRule s.pai.role with
  | none => closeStream s.pai.role s
  | some (r, c) => changeRole r c (closeStream r s)

/-- A dead timer's expiry: the path goes DOWN with PAI4, the data path is chosen anew, and the peer may be lost (R126). -/
def pathDown (path : PathId) (s : State) : State :=
  let s1 := { s with pai := s.pai.setPath path { s.pai.path path with up := false, deadTimer := .stopped } }
  let s2 := watchPeer s (rechoose (raise .path (report .pai4 (ErrInfo.ofPlace (pathPlace path)) s1)))
  if peerPresent s ∧ ¬ peerPresent s2 then losePeer s2 else s2

/-! ## Mirror frames (R9) -/

/-- A mirror frame goes to its consumer by its message type; `p` is the frame from the byte after its EtherType (R9). -/
def mirrorDispatch (path : PathId) (p : List Byte) (s : State) : State :=
  match (byteAt p 0).toNat with
  | 1 => receiveHello path p s
  | 2 => receiveData path p s
  | 3 => receiveAck (word32At p 4) (word16At p 2) ((byteAt p 1).getLsbD 0) s
  | _ => report .prt2 (ErrInfo.ofPlace (pathPlace path)) (bump .mirrorBad s)

end Sys2Proof.Machine
end

