-- ==== Sys2Proof/Machine/Objects.lean ====
section
/-! DEFINITION. The nine objects of the agent: the bytes of each entry (R188), the ranges to which a WRITE clamps (R168),
and the reading of a written entry. The reserved bytes and bits of every entry are zero by the model's choice (log entry 55),
but for PAIRING 336 to 639, of which R188 says so. -/

namespace Sys2Proof.Machine

/-! ## CONFIG (R188) -/

/-- A flag as a byte. -/
def bool8 (b : Bool) : Byte := if b then 1#8 else 0#8

/-- The code of an out-of-window policy (R188). -/
def OowPolicy.code : OowPolicy → Nat
  | .exception => 0 | .drop => 1

/-- The 128 bytes of the CONFIG entry, the reserved ones zero (log entry 55, DESIGN CHOICE). -/
def configEntry (c : ConfigRec) : List Byte :=
  bytes16 c.mgmtEthertype ++ bytes16 c.mirrorEthertype ++ nat16 c.defaultVlan ++ nat16 c.syncVlan ++
  bytes48 c.stationMac ++ nat16 c.stationId ++ [bool8 c.tunnelEnable, nat8 c.oowPolicy.code] ++ bytes16 c.hashSeed ++
  nat32 c.syncStride ++ nat16 c.touchInterval ++ nat16 c.revertPeriod ++ nat16 c.checkpointInterval ++
  nat16 c.helloInterval ++ nat16 c.yieldDrainLimit ++ nat16 c.announceSpacing ++ nat32 c.graceTolerance ++
  nat16 c.keepaliveWindow ++ nat16 c.noticeHoldoff ++ bytes48 c.noticeMac ++
  [nat8 c.priority, nat8 c.holdTimeout, nat8 c.coalesceTime, nat8 c.replayTimeout, nat8 c.replayLimit,
   nat8 c.fcsThreshold, nat8 c.ackDelay, nat8 c.deadMultiplier, nat8 c.gracePeriod, nat8 c.announceCount,
   nat8 c.patrolRate] ++ zeros 67

/-- The enumerated byte of tunnel_enable names a choice (R168, R188). -/
def tunnelDefined (p : List Byte) : Bool := decide ((byteAt p 16).toNat ≤ 1)

/-- The enumerated byte of oow_policy names a choice (R168, R188). -/
def policyDefined (p : List Byte) : Bool := decide ((byteAt p 17).toNat ≤ 1)

/-- The fields of a written CONFIG entry as they stand. -/
def readConfig (p : List Byte) : ConfigRec :=
  { mgmtEthertype := word16At p 0, mirrorEthertype := word16At p 2, defaultVlan := (word16At p 4).toNat,
    syncVlan := (word16At p 6).toNat, stationMac := macAt p 8, stationId := (word16At p 14).toNat,
    tunnelEnable := byteAt p 16 == 1#8, oowPolicy := if byteAt p 17 = 1#8 then .drop else .exception,
    hashSeed := word16At p 18, syncStride := (word32At p 20).toNat, touchInterval := (word16At p 24).toNat,
    revertPeriod := (word16At p 26).toNat, checkpointInterval := (word16At p 28).toNat,
    helloInterval := (word16At p 30).toNat, yieldDrainLimit := (word16At p 32).toNat,
    announceSpacing := (word16At p 34).toNat, graceTolerance := (word32At p 36).toNat,
    keepaliveWindow := (word16At p 40).toNat, noticeHoldoff := (word16At p 42).toNat, noticeMac := macAt p 44,
    priority := (byteAt p 50).toNat, holdTimeout := (byteAt p 51).toNat, coalesceTime := (byteAt p 52).toNat,
    replayTimeout := (byteAt p 53).toNat, replayLimit := (byteAt p 54).toNat, fcsThreshold := (byteAt p 55).toNat,
    ackDelay := (byteAt p 56).toNat, deadMultiplier := (byteAt p 57).toNat, gracePeriod := (byteAt p 58).toNat,
    announceCount := (byteAt p 59).toNat, patrolRate := (byteAt p 60).toNat }

/-- A number brought to the nearest bound of a range (R168). -/
def clamp (lo hi n : Nat) : Nat := max lo (min hi n)

/-- An EtherType brought into 0x0600 to 0xFFFF (R4). -/
def clampEthertype (e : Word16) : Word16 := BitVec.ofNat 16 (clamp 0x0600 0xFFFF e.toNat)

/-- A keepalive window: 0, or 100 to 60,000 (R179). -/
def clampWindow (n : Nat) : Nat := if n = 0 then 0 else clamp 100 60000 n

/-- Every numeric item of a CONFIG record brought into its range (R4, R51, R73, R83, R104, R121, R142, R160, R179, R184). -/
def ConfigRec.clamped (c : ConfigRec) : ConfigRec :=
  { c with
    mgmtEthertype := clampEthertype c.mgmtEthertype
    mirrorEthertype := clampEthertype c.mirrorEthertype
    defaultVlan := clamp 1 4094 c.defaultVlan
    syncVlan := clamp 1 4094 c.syncVlan
    syncStride := clamp 1 16777216 c.syncStride
    touchInterval := clamp 1 600 c.touchInterval
    revertPeriod := clamp 0 300 c.revertPeriod
    checkpointInterval := clamp 0 4096 c.checkpointInterval
    helloInterval := clamp 10 1000 c.helloInterval
    yieldDrainLimit := clamp 10 5000 c.yieldDrainLimit
    announceSpacing := clamp 10 1000 c.announceSpacing
    graceTolerance := clamp 0 1073741824 c.graceTolerance
    keepaliveWindow := clampWindow c.keepaliveWindow
    noticeHoldoff := clamp 1 1000 c.noticeHoldoff
    holdTimeout := clamp 1 200 c.holdTimeout
    coalesceTime := clamp 0 10 c.coalesceTime
    replayTimeout := clamp 2 100 c.replayTimeout
    replayLimit := clamp 1 8 c.replayLimit
    fcsThreshold := clamp 1 255 c.fcsThreshold
    ackDelay := clamp 0 10 c.ackDelay
    deadMultiplier := clamp 3 10 c.deadMultiplier
    gracePeriod := clamp 1 60 c.gracePeriod
    announceCount := clamp 1 8 c.announceCount
    patrolRate := clamp 1 64 c.patrolRate }

/-- The record with its free fields taken from another: the two are equal when every fixed field agrees (R169). -/
def ConfigRec.withFree (c d : ConfigRec) : ConfigRec :=
  { c with priority := d.priority, oowPolicy := d.oowPolicy, noticeHoldoff := d.noticeHoldoff,
           keepaliveWindow := d.keepaliveWindow, noticeMac := d.noticeMac }

/-! ## ZONES, TIMEOUTS, STATUS, CLOCK, COUNTERS (R188) -/

/-- The 16 bytes of a ZONES entry, the reserved ones and the other bits of its flag byte zero (log entry 55, DESIGN CHOICE). -/
def zoneEntry (z : Zone) : List Byte :=
  [flagBit z.enabled 0 ||| flagBit z.announce 1, 0#8] ++ nat16 z.vlan ++ bytes48 z.mac ++ bytes32 z.ip ++ zeros 2

/-- The fields of a written ZONES entry. Bits 2 to 7 of the flag byte are ignored (log entry 51). -/
def readZone (p : List Byte) : Zone :=
  { enabled := (byteAt p 0).getLsbD 0, announce := (byteAt p 0).getLsbD 1, vlan := (word16At p 2).toNat, mac := macAt p 4,
    ip := word32At p 10 }

/-- A zone's VLAN id brought into 1 to 4094 (R4). -/
def Zone.clamped (z : Zone) : Zone := { z with vlan := clamp 1 4094 z.vlan }

/-- The 4 bytes of a TIMEOUTS entry. -/
def timeoutEntry (t : Nat) : List Byte := nat32 t

/-- A timeout brought into 1 to 1,048,575 s (R159). -/
def clampTimeout (t : Nat) : Nat := clamp 1 1048575 t

/-- The timeout of a class. -/
def timeoutAt (s : State) (i : Nat) : Nat := s.timeouts.toList.getD i 0

/-- The 8 bytes of the STATUS entry (R183, R188). -/
def statusEntry (f : Flt) : List Byte :=
  bytes16 (f.flags.setWidth 16) ++ bytes16 (f.mask.setWidth 16) ++ [nat8 f.resetRecord.cause.code, nat8 f.resetRecord.role.code] ++
    nat16 f.resetRecord.count

/-- The 16 bytes of the CLOCK entry (R158), the reserved ones zero (log entry 55, DESIGN CHOICE). -/
def clockEntry (t : Tim) : List Byte :=
  [bool8 t.running, 0#8] ++ nat16 t.ms ++ bytes32 t.seconds ++ nat32 t.increment ++ nat16 t.cursor ++ zeros 2

/-- The enumerated run-state byte of a written CLOCK entry names a choice (R165, R188). -/
def runStateDefined (p : List Byte) : Bool := decide ((byteAt p 0).toNat ≤ 1)

/-- An increment brought into 150,000 to 194,000 (R153). -/
def clampIncrement (n : Nat) : Nat := clamp 150000 194000 n

/-- The counter at a position of COUNTERS. -/
def counterAt (s : State) (i : Nat) : Word32 := s.flt.counters.toList.getD i 0#32

/-! ## ERRLOG (R177, R188) -/

/-- The class of an ERRLOG index or of a CLEAR_ERRORS argument (R189). -/
def ErrClass.ofCode : Nat → Option ErrClass
  | 0 => some .note | 1 => some .degraded | 2 => some .loss | 3 => some .fault | _ => none

/-- The 32 bytes of an ERRLOG entry; an empty record reads as zeros (R177), and the reserved bytes and bits of another are zero
(log entry 55, DESIGN CHOICE). -/
def errlogEntry (r : ErrRecord) : List Byte :=
  match r.first with
  | none => zeros 32
  | some e =>
    nat16 e.code.code ++
    [flagBit e.info.handle.isSome 0 ||| flagBit e.info.place.isSome 1 ||| flagBit e.info.seq.isSome 2 |||
      flagBit e.info.gen.isSome 3, nat8 (e.info.place.getD 0)] ++
    bytes32 e.seconds ++ nat16 e.ms ++ nat16 (e.info.handle.getD 0) ++ nat32 (e.info.seq.getD 0) ++
    bytes32 (e.info.gen.getD 0#32) ++ nat16 r.count ++ zeros 2 ++ bytes32 r.codeSet ++ zeros 4

/-! ## SESSION (R42, R188) -/

/-- The mirrored group, 20 bytes. -/
def mirroredBytes (m : Option Mirrored) : List Byte :=
  match m with
  | none => zeros 20
  | some m => bytes32 m.hiSeqOrig ++ bytes32 m.rightOrig ++ bytes32 m.hiSeqReply ++ bytes32 m.rightReply ++ bytes32 m.seen

/-- The fields of a LIVE handle's entry, the reserved bytes and the other presence bits zero (log entry 55, DESIGN CHOICE). -/
def liveEntry (r : Record) : List Byte :=
  [nat8 r.handleState.code, stateByte r.body] ++ bytes16 r.epoch ++
  [nat8 r.pending.code, nat8 (removalCode r.removalReason),
   flagBit r.body.flowClass.isSome 0 ||| flagBit r.body.mirrored.isSome 1 ||| flagBit r.body.releaseSeq.isSome 2,
   nat8 (r.body.flowClass.getD 0)] ++
  trackerBytes r.body.dirOrig ++ trackerBytes r.body.dirReply ++ keyBytes r.body.origKey ++ keyBytes r.body.replyKey ++
  bytes48 r.body.nextHopOrig ++ bytes48 r.body.nextHopReply ++ bytes32 r.body.lastSeen ++ bytes32 r.body.gen ++
  bytes16 (r.body.releaseSeq.getD 0#16) ++ mirroredBytes r.body.mirrored ++ nat24 r.slotOrig ++ nat24 r.slotReply ++ zeros 2

/-- The 128 bytes of a SESSION entry by the handle's state (R42). -/
def sessionEntry (r : Record) : List Byte :=
  match r.handleState with
  | .live => liveEntry r
  | .retired =>
    [nat8 r.handleState.code, 0#8] ++ bytes16 r.epoch ++ [nat8 r.pending.code, nat8 (removalCode r.removalReason)] ++ zeros 122
  | .free => [nat8 r.handleState.code, 0#8] ++ bytes16 r.epoch ++ zeros 124

/-! ## PAIRING (R188) -/

/-- The code of a path: 1 PRIMARY, 2 SECONDARY (R188). -/
def pathCode : PathId → Nat
  | .primary => 1 | .secondary => 2

/-- The code of the data path: 0 NONE (R188). -/
def dataPathCode : Option PathId → Nat
  | none => 0 | some p => pathCode p

/-- The code of the stream. -/
def Stream.code : Stream → Nat
  | .closed => 0 | .opened => 1

/-- The code of the walk. -/
def Walk.code : Walk → Nat
  | .idle => 0 | .walking => 1 | .ending => 2

/-- Bytes 0 to 31 of the PAIRING entry, the other bits of its two flag bytes zero (log entry 55, DESIGN CHOICE). -/
def pairingHead (s : State) : List Byte :=
  [nat8 s.pai.role.code, nat8 s.mir.stream.code, nat8 (dataPathCode s.mir.dataPath), nat8 s.mir.walk.code,
   flagBit s.mir.suspendedPrimary 0 ||| flagBit s.mir.suspendedSecondary 1, bool8 s.shd.bound,
   flagBit s.shd.bulkWanted 0 ||| flagBit s.pai.yieldFlag 1 ||| flagBit s.pai.peerActiveSeen 2, nat8 s.mir.replayCount] ++
  bytes32 s.pai.pairGen ++ bytes32 s.pai.peerGenSeen ++ bytes32 s.shd.adoptedGen ++ bytes16 s.mir.nextSeq ++
  bytes16 (oldestSeq s.mir) ++ bytes16 s.shd.expectedSeq ++ nat16 s.mir.cursor ++ nat16 s.mir.dirty.length ++
  [nat8 s.mir.replay.length, nat8 s.shd.refresh.length]

/-- Bytes 32 to 63: the refresh list, unused places 0xFFFF. -/
def pairingRefresh (s : State) : List Byte :=
  (List.range 16).flatMap fun i => nat16 (s.shd.refresh.getD i 0xFFFF)

/-- The 16 bytes of a path; the revert timer stands with the primary only, and the reserved bytes are zero (log entry 55,
DESIGN CHOICE). -/
def pathEntry (p : PathState) (revert : Nat) : List Byte :=
  [bool8 p.up, nat8 p.judgment.code, bool8 p.seen, 0#8] ++ nat32 p.deadTimer.left ++ nat32 revert ++ zeros 4

/-- Bytes 96 to 175: the peer record with the hello as received, refresh places beyond its count zero; the reserved bytes are zero
(log entry 55, DESIGN CHOICE). -/
def peerEntry (p : Option PeerRecord) : List Byte :=
  match p with
  | none => zeros 80
  | some r =>
    [1#8, Config.peerPathCode (r.path == .primary), 0#8, 0#8] ++ padTo 70 (helloBytes r.hello) ++ zeros 6

/-- The code of a comparison's kind. -/
def CompareKind.code : CompareKind → Nat
  | .bulkEnd => 1 | .checkpoint => 2

/-- The 28 bytes of the last comparison, the reserved ones zero (log entry 55, DESIGN CHOICE). -/
def compareEntry (c : Option Comparison) : List Byte :=
  match c with
  | none => zeros 28
  | some c =>
    [1#8, nat8 c.kind.code, if c.matched then 1#8 else 2#8, 0#8] ++ bytes32 c.gen ++ bytes16 c.seq ++ zeros 2 ++
      bytes32 c.receivedCount ++ bytes32 c.receivedSum ++ bytes32 c.localCount ++ bytes32 c.localSum

/-- The rounds a burst still has to send. -/
def Burst.rounds : Burst → Nat
  | .idle => 0 | .running n _ => n

/-- Bytes 176 to 223, the reserved ones zero (log entry 55, DESIGN CHOICE). -/
def pairingTable (s : State) : List Byte :=
  nat32 s.tbl.liveCount ++ bytes32 s.tbl.digestSum ++ nat16 s.shd.bulkStart ++ zeros 2 ++ compareEntry s.shd.lastCompare ++
    nat32 s.tko.grace.left ++ [nat8 s.tko.burst.rounds] ++ nat16 s.pai.drainTimer.left ++ [0#8]

/-- The 12 bytes of a role history record, the reserved ones zero (log entry 55, DESIGN CHOICE). -/
def historyEntry (r : RoleRecord) : List Byte :=
  [nat8 r.fromRole.code, nat8 r.toRole.code, nat8 r.cause.code, 0#8] ++ bytes32 r.seconds ++ nat16 r.ms ++ zeros 2

/-- Bytes 224 to 319: the role history. Of an unused record R188 states cause 0; its other bytes are zero too (log entry 33,
DESIGN CHOICE). -/
def pairingHistory (s : State) : List Byte :=
  (List.range 8).flatMap fun i => match s.pai.history[i]? with
    | none => zeros 12
    | some r => historyEntry r

/-- Bytes 320 to 335, the reserved ones zero (log entry 55, DESIGN CHOICE). -/
def pairingTimers (s : State) : List Byte :=
  [nat8 s.shd.unacked, nat8 (pathCode s.shd.ackPath)] ++ nat16 s.shd.ackTimer.left ++ nat32 s.pai.listenTimer.left ++
    nat16 s.pai.helloTimer.left ++ zeros 2 ++ nat32 s.tko.tolerance

/-- The 640 bytes of the PAIRING entry. -/
def pairingEntry (s : State) : List Byte :=
  pairingHead s ++ pairingRefresh s ++ pathEntry s.pai.primary s.mir.revertElapsed ++ pathEntry s.pai.secondary 0 ++
    peerEntry s.pai.peer ++ pairingTable s ++ pairingHistory s ++ pairingTimers s ++ zeros 304

/-! ## One entry of an object -/

/-- The entry of an object at an index as it stands (R171, R188). -/
def entryBytes (o : Object) (i : Nat) (s : State) : List Byte :=
  match o with
  | .config => configEntry s.cfg
  | .zones => zoneEntry (zoneAt s.zones i)
  | .timeouts => timeoutEntry (timeoutAt s i)
  | .session => sessionEntry (recordOf s i)
  | .status => statusEntry s.flt
  | .counters => bytes32 (counterAt s i)
  | .errlog => match ErrClass.ofCode i with
    | none => zeros 32
    | some c => errlogEntry (s.flt.record c)
  | .pairing => pairingEntry s
  | .clock => clockEntry s.tim

end Sys2Proof.Machine
end

