-- ==== Sys2Proof/Machine/Agent.lean ====
section
/-! DEFINITION. The management agent (chapter 10): taking a request from the queue, its response, and READ and WRITE. -/

namespace Sys2Proof.Machine

/-! ## Requests and responses (R163, R164, R187) -/

/-- What a request is answered with. -/
structure Answer where
  status  : Status
  payload : List Byte
  deriving DecidableEq, Repr

/-- A response that carries its status alone. -/
def Answer.only (st : Status) : Answer := { status := st, payload := [] }

/-- The statuses that MGT_REFUSED counts: all but OK and CLAMPED (R163). -/
def Status.refuses : Status → Bool
  | .ok | .clamped => false
  | .badCommand | .badObject | .badIndex | .badLength | .readOnly | .locked | .badState | .badConfig | .notActive
  | .duplicate | .tableFull | .bucketFull | .badRecord | .stale => true

/-- The response frame (R164, R187). Its reserved bytes are zero (log entry 55, DESIGN CHOICE). -/
def responseFrame (r : Request) (a : Answer) (s : State) : Frame :=
  etherFrame r.src s.cfg.stationMac s.cfg.mgmtEthertype
    ([1#8, nat8 a.status.code] ++ bytes16 r.tag ++ nat16 a.payload.length ++ zeros 2 ++ a.payload)

/-- The response is handed to the P-port; a refusing status is counted (R163, R164). -/
def respond (r : Request) (a : Answer) (s : State) : State :=
  handToPort .p (responseFrame r a s) (if a.status.refuses then bump .mgtRefused s else s)

/-- What a request does and what it is answered with. -/
abbrev Handler := Request → State → State × Answer

/-- The request leaves the queue and is counted (R164). -/
def dequeue (rest : List Frame) (s : State) : State := bump .mgtReq { s with mgtQueue := rest }

/-- A request taken: its effects, the notice they cause, then its response (R164). -/
def serve (h : Handler) (r : Request) (rest : List Frame) (s : State) : State :=
  let out := h r (dequeue rest s)
  let s1 := settle s.flt.flags out.1
  settle s1.flt.flags (respond r out.2 s1)

/-- A management row acts on the request at the head of the queue when that request is of the row; else nothing is there
for it to take. -/
def takeRequest (row : Row) (h : Handler) (s : State) : State :=
  match s.mgtQueue with
  | [] => s
  | f :: rest => if (readRequest f).row = row then serve h (readRequest f) rest s else s

/-- A frame that is no request leaves the queue without a response (R163). -/
def takeRunt (s : State) : State :=
  match s.mgtQueue with
  | [] => s
  | f :: rest =>
    if (readRequest f).row = .runt then
      event (fun s => report .mgt1 ErrInfo.none (bump .mgtRunt { s with mgtQueue := rest })) s
    else s

/-! ## The checks of READ and WRITE (R165, R166) -/

/-- The index that entry k visits; none below 0 (R166). -/
def visit (m : StepMode) (i span k : Nat) : Option Nat :=
  match m with
  | .increment => some (i + k)
  | .decrement => if k ≤ i then some (i - k) else none
  | .fixed => some i
  | .circulate => some (i + k % span)

/-- The indices of a request in order, or nothing when one lies outside the object's range (R165 check 4, R166). -/
def visits (o : Object) (m : StepMode) (r : Request) : Option (List Nat) :=
  let vs := (List.range r.count).map (visit m r.index r.span)
  if vs.all (fun v => v.any fun i => decide (i < o.indices)) then some (vs.filterMap id) else none

/-- Check 3 but for the step mode's code: the count, the span of CIRCULATE, the clear flag (R165). -/
def fieldsGood (o : Object) (m : StepMode) (isRead : Bool) (r : Request) : Bool :=
  decide (1 ≤ r.count) && (m != .circulate || (decide (1 ≤ r.span) && decide (r.span ≤ 4))) &&
    (!r.clear || (isRead && o == .counters))

/-- Check 5: the response fits, and a WRITE's payload is exactly its entries (R165). -/
def lengthFits (o : Object) (isRead : Bool) (r : Request) : Bool :=
  decide (r.count * o.entrySize ≤ Config.responseRoom) && (isRead || r.length == r.count * o.entrySize)

/-- Checks 2 to 5 in order: the object and the indices to visit, or the status of the first that fails (R165). -/
def checkAccess (isRead : Bool) (r : Request) : Except Status (Object × List Nat) :=
  match Object.ofCode r.object with
  | none => .error .badObject
  | some o =>
    match StepMode.ofCode r.stepMode with
    | none => .error .badCommand
    | some m =>
      if ¬ fieldsGood o m isRead r then .error .badCommand
      else match visits o m r with
        | none => .error .badIndex
        | some is => if lengthFits o isRead r then .ok (o, is) else .error .badLength

/-! ## READ (R171, R172) -/

/-- One entry captured; a SESSION read first checks the record's parity, and the entry shows the result (R42, R171). -/
def capture (o : Object) (i : Nat) (s : State) : State × List Byte :=
  match o with
  | .session => let s1 := (checkRecord i s).1; (s1, entryBytes .session i s1)
  | .config | .zones | .timeouts | .status | .counters | .errlog | .pairing | .clock => (s, entryBytes o i s)

/-- A counter at a position becomes 0: the captured value is lowered by itself (R172). -/
def clearCounter (i : Nat) (s : State) : State :=
  { s with flt := { s.flt with counters := s.flt.counters.setIfInBounds i 0#32 } }

/-- A counter captured and lowered, as one event (R172). -/
def captureClear (i : Nat) (s : State) : State × List Byte := (clearCounter i s, entryBytes .counters i s)

/-- The entries of a READ captured one after another (R171). -/
def captureAll (c : Nat → State → State × List Byte) : List Nat → State → State × List Byte
  | [], s => (s, [])
  | i :: is, s =>
    let p := c i s
    let q := captureAll c is p.1
    (q.1, p.2 ++ q.2)

/-- A READ without the clear flag (R165, R171). -/
def answerRead : Handler := fun r s =>
  match checkAccess true r with
  | .error st => (s, Answer.only st)
  | .ok (o, is) => let p := captureAll (capture o) is s; (p.1, { status := .ok, payload := p.2 })

/-- A READ of COUNTERS with the clear flag (R172). -/
def answerReadClear : Handler := fun r s =>
  match checkAccess true r with
  | .error st => (s, Answer.only st)
  | .ok (_, is) => let p := captureAll captureClear is s; (p.1, { status := .ok, payload := p.2 })

/-! ## WRITE (R167 to R170) -/

/-- The entries of a payload, each of the object's size. -/
def entriesOf (size : Nat) : Nat → List Byte → List (List Byte)
  | 0, _ => []
  | n + 1, p => p.take size :: entriesOf size n (p.drop size)

/-- Check 7: the role does not permit the write (R167, R169). A CONFIG entry outside DETACHED may differ from the values in
force in its free fields alone, after clamping. -/
def writeLocked (o : Object) (es : List (List Byte)) (s : State) : Bool :=
  s.pai.role != .detached &&
  match o with
  | .config => es.any fun p => !tunnelDefined p || (readConfig p).clamped.withFree s.cfg != s.cfg
  | .zones => true
  | .timeouts | .session | .status | .counters | .errlog | .pairing | .clock => false

/-- Check 8 for one entry: an undefined enumeration or a broken consistency rule (R165, R168, R170). The run state of a CLOCK
entry is judged too, though R153 does not apply it. -/
def entryBad (o : Object) (p : List Byte) : Bool :=
  match o with
  | .config =>
    !tunnelDefined p || !policyDefined p || (readConfig p).clamped.mgmtEthertype == (readConfig p).clamped.mirrorEthertype
  | .zones => (readZone p).enabled && !isUnicast (readZone p).mac
  | .status => word16At p 0 &&& 0xFE00#16 != 0#16 || word16At p 2 &&& 0xFE00#16 != 0#16
  | .clock => !runStateDefined p
  | .timeouts | .session | .counters | .errlog | .pairing => false

/-- A field of an entry lies outside its range (R168). Of a CLOCK entry the increment alone is judged, and not the ms or the
cursor, which R153 does not apply (log entry 54, DESIGN CHOICE). -/
def entryClamps (o : Object) (p : List Byte) : Bool :=
  match o with
  | .config => (readConfig p).clamped != readConfig p
  | .zones => (readZone p).clamped != readZone p
  | .timeouts => clampTimeout (word32At p 0).toNat != (word32At p 0).toNat
  | .clock => clampIncrement (word32At p 8).toNat != (word32At p 8).toNat
  | .session | .status | .counters | .errlog | .pairing => false

/-- One entry applied at its index (R168 to R170, R153). -/
def applyEntry (o : Object) (s : State) (e : Nat × List Byte) : State :=
  match o with
  | .config => { s with cfg := (readConfig e.2).clamped }
  | .zones => { s with zones := s.zones.setIfInBounds e.1 (readZone e.2).clamped }
  | .timeouts => { s with timeouts := s.timeouts.setIfInBounds e.1 (clampTimeout (word32At e.2 0).toNat) }
  | .status =>
    { s with flt := { s.flt with
        flags := s.flt.flags &&& ~~~((word16At e.2 0).setWidth 9), mask := (word16At e.2 2).setWidth 9 } }
  | .clock => { s with tim := { s.tim with increment := clampIncrement (word32At e.2 8).toNat } }
  | .session | .counters | .errlog | .pairing => s

/-- The keepalive timer after a write that may have changed keepalive_window, from the window `old` (R180). -/
def keepaliveAfterWrite (old : Nat) (s : State) : State :=
  let new := s.cfg.keepaliveWindow
  if new = old then s
  else if new = 0 then { s with flt := { s.flt with keepalive := .stopped } }
  else if s.flt.keepalive ≠ .stopped ∨ (old = 0 ∧ s.pai.role.keepaliveRuns) then
    { s with flt := { s.flt with keepalive := .running new } }
  else s

/-- The entries of a write applied in order, as one event (R168). -/
def applyEntries (o : Object) (is : List Nat) (es : List (List Byte)) (s : State) : State :=
  keepaliveAfterWrite s.cfg.keepaliveWindow ((is.zip es).foldl (applyEntry o) s)

/-- A WRITE: checks 2 to 8 over every entry, then the whole write or nothing; the response shows the entries as stored
(R165, R168). -/
def answerWrite : Handler := fun r s =>
  match checkAccess false r with
  | .error st => (s, Answer.only st)
  | .ok (o, is) =>
    let es := entriesOf o.entrySize r.count r.payload
    if ¬ o.writable then (s, Answer.only .readOnly)
    else if writeLocked o es s then (s, Answer.only .locked)
    else if es.any (entryBad o) then (s, Answer.only .badConfig)
    else
      let s1 := applyEntries o is es s
      (s1, { status := if es.any (entryClamps o) then .clamped else .ok, payload := is.flatMap fun i => entryBytes o i s1 })

/-- A command or CONTROL action that is not defined (R165 check 1, R174). A CONTROL request without its 8 bytes answers
BAD_LENGTH (R187). -/
def answerUndefined : Handler := fun r s =>
  (s, Answer.only (if r.command = 6 ∧ r.length ≠ 8 then .badLength else .badCommand))

/-! ## The rows -/

/-- READ (R165, R166, R171). -/
def execRead (s : State) : Host.Outcome State Fault Refusal := .next (takeRequest .read answerRead s)

/-- READ of COUNTERS with the clear flag (R172). -/
def execReadCountersClear (s : State) : Host.Outcome State Fault Refusal :=
  .next (takeRequest .readCountersClear answerReadClear s)

/-- WRITE of an object that is not written, or that is none (R165, R167). -/
def execWrite (s : State) : Host.Outcome State Fault Refusal := .next (takeRequest .write answerWrite s)

/-- WRITE of CONFIG (R168, R169, R180). -/
def execWriteConfig (s : State) : Host.Outcome State Fault Refusal := .next (takeRequest .writeConfig answerWrite s)

/-- WRITE of ZONES (R4, R167). -/
def execWriteZones (s : State) : Host.Outcome State Fault Refusal := .next (takeRequest .writeZones answerWrite s)

/-- WRITE of TIMEOUTS (R159). -/
def execWriteTimeouts (s : State) : Host.Outcome State Fault Refusal := .next (takeRequest .writeTimeouts answerWrite s)

/-- WRITE of STATUS (R170). -/
def execWriteStatus (s : State) : Host.Outcome State Fault Refusal := .next (takeRequest .writeStatus answerWrite s)

/-- WRITE of CLOCK (R153). -/
def execWriteClock (s : State) : Host.Outcome State Fault Refusal := .next (takeRequest .writeClock answerWrite s)

/-- A frame that is no request (R163). -/
def execRuntRequest (s : State) : Host.Outcome State Fault Refusal := .next (takeRunt s)

/-- A request of no defined command or action (R165, R174). -/
def execUndefinedCommand (s : State) : Host.Outcome State Fault Refusal := .next (takeRequest .undefined answerUndefined s)

end Sys2Proof.Machine
end

