-- ==== Sys2Proof/Machine/Rewrite.lean ====
section
/-! DEFINITION. The rewrite unit (1.7): the link layer, addresses, ports, TTL and checksums of an accepted frame. -/

namespace Sys2Proof.Machine

/-- Bytes of a frame replaced from an offset. -/
def overwrite (f : List Byte) (off : Nat) (new : List Byte) : List Byte :=
  f.take off ++ new ++ f.drop (off + new.length)

/-- The new addresses and ports of a frame by its direction (R18). -/
structure Translation where
  srcAddr : Ip4
  srcPort : Word16
  dstAddr : Ip4
  dstPort : Word16
  deriving DecidableEq, Repr

/-- The translation that a session's two keys imply (R18). -/
def translation (b : Body) : Dir → Translation
  | .orig => { srcAddr := b.replyKey.dstAddr, srcPort := b.replyKey.dstPort, dstAddr := b.replyKey.srcAddr,
               dstPort := b.replyKey.srcPort }
  | .reply => { srcAddr := b.origKey.dstAddr, srcPort := b.origKey.dstPort, dstAddr := b.origKey.srcAddr,
                dstPort := b.origKey.srcPort }

/-- The zone a frame leaves in (R17). -/
def outZone (b : Body) : Dir → Nat
  | .orig => b.replyKey.zone.toNat
  | .reply => b.origKey.zone.toNat

/-- The next hop a frame leaves toward (R17). -/
def nextHop (b : Body) : Dir → Mac
  | .orig => b.nextHopOrig
  | .reply => b.nextHopReply

/-- The header words of the address changes, for the checksums (R21, R22). -/
def addressWords (p : List Byte) (t : Translation) : List (Word16 × Word16) :=
  addrWords (word32At p 12) t.srcAddr ++ addrWords (word32At p 16) t.dstAddr

/-- The TTL/protocol word after the decrement: lowered by 0x0100 (R19). -/
def ttlWord (p : List Byte) : Word16 := word16At p 8 - 0x0100#16

/-- The IPv4 header with the TTL lowered, the addresses replaced and its checksum adjusted (R18, R19, R21). -/
def rewriteIp (p : List Byte) (t : Translation) : List Byte :=
  let sum := adjustWords (word16At p 10) ((word16At p 8, ttlWord p) :: addressWords p t)
  overwrite p 8 (bytes16 (ttlWord p) ++ bytes16 sum ++ bytes32 t.srcAddr ++ bytes32 t.dstAddr)

/-- The two port words before and after. -/
def portWords (p : List Byte) (t : Translation) : List (Word16 × Word16) :=
  [(word16At p 20, t.srcPort), (word16At p 22, t.dstPort)]

/-- A UDP checksum after its words have changed: 0x0000 on arrival means none, and a computed 0x0000 is written as 0xFFFF;
with no word changed it is not computed (R20, R22). -/
def udpChecksum (hc : Word16) (ws : List (Word16 × Word16)) : Word16 :=
  if hc = 0#16 then 0#16
  else if ws.all (fun w => w.1 == w.2) then hc
  else if adjustWords hc ws = 0#16 then 0xFFFF#16
  else adjustWords hc ws

/-- The transport header by the protocol (R18, R22). `p` is the packet as it arrived, `q` with its IPv4 header rewritten. -/
def rewriteTransport (p q : List Byte) (t : Translation) : List Byte :=
  let ws := addressWords p t ++ portWords p t
  if byteAt p 9 = 6#8 then
    overwrite (overwrite q 20 (bytes16 t.srcPort ++ bytes16 t.dstPort)) 36 (bytes16 (adjustWords (word16At p 36) ws))
  else if byteAt p 9 = 17#8 then
    overwrite (overwrite q 20 (bytes16 t.srcPort ++ bytes16 t.dstPort)) 26 (bytes16 (udpChecksum (word16At p 26) ws))
  else if byteAt p 9 = 1#8 then
    overwrite (overwrite q 24 (bytes16 t.srcPort)) 22
      (bytes16 (adjustWords (word16At p 22) [(word16At p 24, t.srcPort)]))
  else q

/-- The packet, with what follows it, as it leaves. -/
def rewritePacket (p : List Byte) (t : Translation) : List Byte := rewriteTransport p (rewriteIp p t) t

/-- The frame that leaves: the next hop's MAC, the outgoing zone's virtual MAC, its VLAN tag (none when it is
default_vlan) with the priority the frame arrived with, and the rewritten packet (R17 to R22). An untagged frame of 1,519 to
1,522 bytes that leaves tagged is longer than R17's 1,522 bytes and is sent as it stands (log entry 49). -/
def rewriteFrame (cfg : ConfigRec) (zs : Vector Zone 8) (b : Body) (d : Dir) (f : Frame) : Frame :=
  let h := readHeader cfg.defaultVlan f
  let z := zoneAt zs (outZone b d)
  let p := rewritePacket (f.drop h.off) (translation b d)
  if z.vlan = cfg.defaultVlan then etherFrame (nextHop b d) z.mac h.etype p
  else taggedFrame (nextHop b d) z.mac h.prio (Config.rewriteTagBit h.tagBit) z.vlan h.etype p

end Sys2Proof.Machine
end

