-- ==== Sys2Proof/Machine/Path.lean ====
section
/-! DEFINITION. The traffic path (chapter 1): the receive check, the gate, exception tags, and the fast path of a VIRTUAL
frame. -/

namespace Sys2Proof.Machine

/-! ## Receiving (R1) -/

/-- The FCS counter of a port. -/
def fcsCounter : Port → Ctr
  | .p => .pFcs | .w => .wFcs | .s => .sFcs

/-- The length counter of a port. -/
def lengthCounter : Port → Ctr
  | .p => .pLen | .w => .wLen | .s => .sLen

/-- The receive counter of a port. -/
def rxCounter : Port → Ctr
  | .p => .pRx | .w => .wRx | .s => .sRx

/-- The transmit counter of a port. -/
def txCounter : Port → Ctr
  | .p => .pTx | .w => .wTx | .s => .sTx

/-- The frame's length on the wire passes (R1). -/
def lengthGood (f : RxFrame) : Bool :=
  decide (Config.leastFrame ≤ f.bytes.length) && decide (f.bytes.length ≤ Config.greatestFrame)

/-- The frame without its FCS. -/
def RxFrame.body (f : RxFrame) : Frame := f.bytes.take (f.bytes.length - 4)

/-- A frame arrives: the FCS is checked first, then the length; a frame that passes is counted and goes on (R1). An S-port
FCS discard is also reported to the mirror transmitter. -/
def receive (port : Port) (f : RxFrame) (go : Frame → State → State) (s : State) : State :=
  if ¬ f.fcsGood then
    let s1 := bump (fcsCounter port) s
    if port = .s then countFcs s1 else s1
  else if ¬ lengthGood f then bump (lengthCounter port) s
  else go (RxFrame.body f) (bump (rxCounter port) s)

/-! ## The gate (1.4) -/

/-- The gate is open in the active roles (1.4). It is not applied in DETACHED. -/
def gateOpen (s : State) : Bool := s.pai.role.isActive

/-- A processor frame claims a virtual address: by its source MAC, or as an ARP frame by its sender address (R12). -/
def claimsVirtual (s : State) (f : Frame) : Bool :=
  isVirtualMac s.zones (headerOf s f).src ||
    (match arpSender (headerOf s f) f with | some a => isVirtualIp s.zones a | none => false)

/-- A PROCESSOR_OUT frame: to the W-port unchanged, or discarded by the closed gate (R6, R8, R12). -/
def processorOut (f : Frame) (s : State) : State :=
  if s.pai.role = .detached ∨ gateOpen s ∨ ¬ claimsVirtual s f then handToPort .w f s
  else bump .gateDrop s

/-- A MANAGEMENT frame joins the request queue, or is discarded when eight wait (R163). -/
def enqueueRequest (f : Frame) (s : State) : State :=
  if s.mgtQueue.length < Config.requestRoom then { s with mgtQueue := s.mgtQueue ++ [f] }
  else report .mgt2 ErrInfo.none (bump .mgtQdrop s)

/-- A P-port frame by its class (R6). -/
def classP (f : Frame) (s : State) : State :=
  if (headerOf s f).etype = s.cfg.mgmtEthertype then enqueueRequest f s else processorOut f s

/-! ## Exception tags (R16) -/

/-- The counter of a reason (R16). -/
def reasonCounter : Reason → Ctr
  | .unzoned => .excUnzoned | .nonIpv4 => .excNonIpv4 | .ipOptions => .excIpOptions | .fragment => .excFragment
  | .badIpChecksum => .excBadIpChecksum | .ttlExpired => .excTtlExpired | .icmpError => .excIcmpError | .miss => .excMiss
  | .outOfWindow => .excOutOfWindow | .reopen => .reopen

/-- The frame with its VLAN tag removed and the exception tag inserted after the source MAC (R16, R187). An untagged frame of
1,519 to 1,522 bytes, which R1 lets in, comes out longer than R16's 1,530 bytes and is sent as it stands (log entry 48). -/
def exceptionFrame (mgmt : Word16) (h : Header) (reason : Reason) (zone : Option Nat) (handle : Option Nat) (f : Frame) : Frame :=
  bytes48 h.dst ++ bytes48 h.src ++ bytes16 mgmt ++ [3#8, nat8 reason.code, nat8 (zone.getD 0xFF), 0#8] ++
    nat16 (handle.getD 0xFFFF) ++ nat16 h.tagVlan ++ zeros 2 ++ bytes16 h.etype ++ f.drop h.off

/-- A frame with a reason goes to the P-port with its tag, and the reason's counter rises (R16). -/
def sendException (reason : Reason) (zone : Option Nat) (handle : Option Nat) (f : Frame) (s : State) : State :=
  bump (reasonCounter reason)
    (handToPort .p (exceptionFrame s.cfg.mgmtEthertype (headerOf s f) reason zone handle f) s)

/-- A REOPEN answer counts once under both of its names: EXC_REOPEN and REM_REOPEN are one counter, which the removal has
raised (R62, R181). -/
def sendReopen (zone : Nat) (handle : Nat) (f : Frame) (s : State) : State :=
  handToPort .p (exceptionFrame s.cfg.mgmtEthertype (headerOf s f) .reopen (some zone) (some handle) f) s

/-! ## The fast path (R15, R23, R57, R68, R78) -/

/-- The tolerance the tracker reads (R69). -/
def tolerance (s : State) : Nat := if s.pai.role = .takeover then s.tko.tolerance else 0

/-- A refused frame: tagged OUT_OF_WINDOW under EXCEPTION, discarded under DROP (R68). -/
def refuseFrame (ctr : Ctr) (zone handle : Nat) (f : Frame) (s : State) : State :=
  let s1 := bump ctr s
  match s1.cfg.oowPolicy with
  | .exception => sendException .outOfWindow (some zone) (some handle) f s1
  | .drop => bump .trkDrop s1

/-- A handle has an entry in the hold queue. -/
def isHeld (s : State) (h : Nat) : Bool := s.hold.any fun e => e.handle == h

/-- A hit frame goes to the tracker with its handle and direction, and by the tracker's answer to the rewrite unit and the
W-port, to the out-of-window policy, or to the processor as REOPEN (R15, R49). -/
def trackHit (zone h : Nat) (d : Dir) (f : Frame) (s : State) : State :=
  let b := (recordOf s h).body
  match judge b d f (headerOf s f).off (tolerance s) s.tim.seconds with
  | .accept b' notes =>
    let out := rewriteFrame s.cfg s.zones b d f
    bump .hitFwd (handToPort .w out (writeBack h b b' notes s))
  | .refuse c => refuseFrame c zone h f s
  | .reopen => sendReopen zone h f (removeSession h .reopen false s)

/-- A VIRTUAL frame that the gate admits: parser, lookup, hold queue, tracker (R13 to R15). -/
def fastPath (f : Frame) (s : State) : State :=
  match parseFrame s.zones (headerOf s f) f with
  | .refused r z => sendException r z none f s
  | .keyed z k =>
    match lookup k s with
    | (s1, none) => sendException .miss (some z) none f s1
    | (s1, some (h, d)) =>
      if isHeld s1 h then bump .holdDropSecond s1 else trackHit z h d f s1

/-! ## W-port classes (R7) -/

/-- The classes of a W-port frame (R7). -/
inductive WClass where
  | tunnelMirror | virtual | arpVirtual | other
  deriving DecidableEq, Repr

/-- The first class of R7's list whose condition the frame meets. -/
def classW (s : State) (f : Frame) : WClass :=
  let h := headerOf s f
  if s.cfg.tunnelEnable ∧ h.vlan = s.cfg.syncVlan ∧ h.etype = s.cfg.mirrorEthertype ∧
      (h.dst = s.cfg.stationMac ∨ h.dst = broadcastMac) then .tunnelMirror
  else if isVirtualMac s.zones h.dst then .virtual
  else if (match arpTarget h f with | some a => isVirtualIp s.zones a | none => false) then .arpVirtual
  else .other

end Sys2Proof.Machine
end

