-- ==== Sys2Proof/Machine/Session.lean ====
section
/-! DEFINITION. The session commands (2.5 to 2.7, 3.4, 4.2, R173): INSTALL, FIND, REMOVE. -/

namespace Sys2Proof.Machine

/-! ## Responses (R173, R187) -/

/-- Handle, epoch, direction (0 for none). The reserved bytes are zero (log entry 55, DESIGN CHOICE). -/
def sessionPayload (h : Nat) (epoch : Word16) (d : Option Dir) : List Byte :=
  nat16 h ++ bytes16 epoch ++ [nat8 (match d with | none => 0 | some d => d.code)] ++ zeros 3

/-- The payload of a STALE response. -/
def stalePayload (h : Nat) (epoch : Word16) (st : Byte) : List Byte := nat16 h ++ bytes16 epoch ++ [st]

/-! ## The install record (R33, R173, R187) -/

/-- An install record; the enclosed frame is absent at length 0. -/
structure Install where
  origKey      : Key
  replyKey     : Key
  nextHopOrig  : Mac
  nextHopReply : Mac
  flowClass    : Nat
  hold         : Bool
  frame        : Option Frame
  deriving DecidableEq, Repr

/-- The stated length of the enclosed frame. -/
def enclosedLength (p : List Byte) : Nat := (word16At p 46).toNat

/-- The length rule of an INSTALL (R173). -/
def installLengthGood (r : Request) : Bool :=
  decide (48 ≤ r.length) && r.length == 48 + enclosedLength r.payload &&
    (enclosedLength r.payload == 0 || (decide (14 ≤ enclosedLength r.payload) && decide (enclosedLength r.payload ≤ 1440)))

/-- The install record of a payload. Bits 1 to 7 of the flag byte are ignored (log entry 51). -/
def readInstall (p : List Byte) : Install :=
  { origKey := readKey p 0, replyKey := readKey p 16, nextHopOrig := macAt p 32, nextHopReply := macAt p 38,
    flowClass := (byteAt p 44).toNat, hold := (byteAt p 45).getLsbD 0,
    frame := if enclosedLength p = 0 then none else some (p.drop 48) }

/-- The ports of a key fit its protocol (R33). -/
def portsFit (k : Key) : Bool :=
  if k.proto = 1#8 then k.srcPort == k.dstPort
  else k.proto == 6#8 || k.proto == 17#8 || (k.srcPort == 0#16 && k.dstPort == 0#16)

/-- A next hop is unicast and not zero (R33). -/
def hopGood (m : Mac) : Bool := isUnicast m && m != 0#48

/-- The record is well formed (R33, check 2). -/
def installGood (zs : Vector Zone 8) (i : Install) : Bool :=
  zoneEnabled zs i.origKey.zone && zoneEnabled zs i.replyKey.zone && i.origKey.proto == i.replyKey.proto &&
    i.origKey != i.replyKey && portsFit i.origKey && portsFit i.replyKey && hopGood i.nextHopOrig && hopGood i.nextHopReply &&
    (i.origKey.proto == 6#8 || i.flowClass == 0 || (decide (4 ≤ i.flowClass) && decide (i.flowClass ≤ 7)))

/-- The enclosed frame, if any, forms orig_key as a W-port frame would (R33, check 3). -/
def enclosedGood (s : State) (i : Install) : Bool :=
  match i.frame with
  | none => true
  | some f => match parseFrame s.zones (headerOf s f) f with
    | .keyed _ k => k == i.origKey
    | .refused _ _ => false

/-! ## The body of an install (R35, R55) -/

/-- The segment of a frame that parses as a W-port frame. -/
def segmentOf (s : State) (f : Frame) : Segment := readSegment f (headerOf s f).off

/-- The frame that makes a TCP install NEW: an enclosed pure SYN (R55). -/
def synFrame (s : State) (i : Install) : Option Frame :=
  if i.origKey.proto = 6#8 then i.frame.filter fun f => (segmentOf s f).pureSyn else none

/-- The flow_class of an install (R35). -/
def installClass (i : Install) : Option Nat :=
  if i.origKey.proto = 6#8 then none
  else if i.flowClass ≠ 0 then some i.flowClass
  else if i.origKey.proto = 17#8 then some 4
  else if i.origKey.proto = 1#8 then some 5
  else some 6

/-- The fields of the body that do not depend on an enclosed frame (R35). -/
def installBody (s : State) (i : Install) (st : SessionState) : Body :=
  { Body.cleared with
    state := st, origKey := i.origKey, replyKey := i.replyKey, nextHopOrig := i.nextHopOrig,
    nextHopReply := i.nextHopReply, flowClass := installClass i, lastSeen := s.tim.seconds, gen := s.pai.pairGen }

/-- The body of an install, with the errors that the options of an enclosed SYN log. The NEW install counts as the
acceptance of its frame (R55). -/
def newBody (s : State) (i : Install) : Body × List ErrCode :=
  match synFrame s i with
  | some f =>
    let p := seedNew (segmentOf s f)
    (account { (installBody s i .new) with dirOrig := p.1 } .orig (ipTotal f (headerOf s f).off) s.tim.seconds, p.2)
  | none => (installBody s i (if i.origKey.proto = 6#8 then .opened else .flow), [])

/-! ## The enclosed frame (R56, R74) -/

/-- A frame that is not held goes to the W-port and is counted (R23, R74). -/
def sendAtOnce (f : Frame) (s : State) : State := bump .hitFwd (handToPort .w f s)

/-- The rewritten frame is held, or sent at once (R74). -/
def offerHold (hold : Bool) (h : Nat) (f : Frame) (s : State) : State :=
  if ¬ hold ∨ (recordOf s h).pending ≠ .create then sendAtOnce f s
  else if Config.holdRoom ≤ s.hold.length then sendAtOnce f (report .hld2 (ErrInfo.ofHandle h) (bump .holdFull s))
  else
    bump .holdEnter { s with hold := s.hold ++
      [{ handle := h, epoch := (recordOf s h).epoch, frame := f, timer := .running s.cfg.holdTimeout, releaseSeq := none }] }

/-- The enclosed frame goes to the tracker as a frame of direction ORIG: a NEW install has accepted it (R55); another is
judged in the state the install gives (R56). When a TBL3 of the install's own check 4 has made the part FAULTED, the frame is
tracked and sent all the same, though R49 names the four active roles alone (log entry 16, DEDUCED). -/
def passEnclosed (i : Install) (h : Nat) (f : Frame) (s : State) : State :=
  let b := (recordOf s h).body
  let out := rewriteFrame s.cfg s.zones b .orig f
  if (synFrame s i).isSome then offerHold i.hold h out s
  else match judge b .orig f (headerOf s f).off (tolerance s) s.tim.seconds with
    | .accept b' notes => offerHold i.hold h out (writeBack h b b' notes s)
    | .refuse c => refuseFrame c i.origKey.zone.toNat h f s
    | .reopen => s

/-! ## INSTALL (R33 to R35) -/

/-- A refused install (R33). -/
def refuseInstall (st : Status) (payload : List Byte) (s : State) : State × Answer :=
  (bump .installRefused s, { status := st, payload := payload })

/-- The payload of a refusal that names no session (R173). -/
def noSession : List Byte := sessionPayload 0xFFFF 0#16 none

/-- The record that an install writes (R26, R35). -/
def installRecord (s : State) (i : Install) (h p q : Nat) : Record :=
  { handleState := .live, epoch := (recordOf s h).epoch + 1#16, pending := .none, removalReason := none, slotOrig := p,
    slotReply := q, anchorGood := true, body := (newBody s i).1, bodyGood := true }

/-- The install takes effect as one table operation, and marks CREATE when the stream is open (R35). `t` is the table with
the keys of the session placed at p and q. -/
def makeSession (i : Install) (h : Nat) (t : Tbl) (p q : Nat) (s : State) : State :=
  let r := installRecord s i h p q
  let t1 := ({ (t.setRecord h r) with free := freePop t.free }).digestAdd h r.epoch
  let s1 := bump .installOk (bumpBy .stashInsert (stashCount p q) { s with tbl := t1 })
  markDirty .create h ((newBody s i).2.foldl (fun s c => report c (ErrInfo.ofHandle h) s) s1)

/-- Checks 5 and 6, and the effect when they pass (R33 to R35). -/
def installFree (i : Install) (s : State) : State × Answer :=
  match freeHead s.tbl.free with
  | none => refuseInstall .tableFull noSession s
  | some h =>
    match s.tbl.insertKeys s.cfg.hashSeed i.origKey i.replyKey h with
    | none => refuseInstall .bucketFull noSession s
    | some (t, p, q) =>
      let s1 := makeSession i h t p q s
      let s2 := match i.frame with
        | none => s1
        | some f => passEnclosed i h f s1
      (s2, { status := .ok, payload := sessionPayload h ((recordOf s h).epoch + 1#16) none })

/-- Check 4 for one key: a session that holds it answers DUPLICATE (R34). A parity failure that the lookup meets has its
effect, and a key so lost is missed: the checks that follow are made on the table as it then is, and check 1 is not made again
(R33, R36). -/
def installUnlessFound (k : Key) (go : State → State × Answer) (s : State) : State × Answer :=
  let found := lookup k s
  match found.2 with
  | some (h, d) => refuseInstall .duplicate (sessionPayload h (recordOf found.1 h).epoch (some d)) found.1
  | none => go found.1

/-- An INSTALL whose length fits (R33). -/
def install (i : Install) (s : State) : State × Answer :=
  if ¬ s.pai.role.isActive then refuseInstall .notActive noSession s
  else if ¬ (installGood s.zones i && enclosedGood s i) then refuseInstall .badRecord noSession s
  else installUnlessFound i.origKey (installUnlessFound i.replyKey (installFree i)) s

/-- An INSTALL request (R173). -/
def answerInstall : Handler := fun r s =>
  if installLengthGood r then install (readInstall r.payload) s else (s, Answer.only .badLength)

/-! ## FIND (R41) -/

/-- The payload of a FIND hit (R187). Its reserved byte is zero (log entry 55, DESIGN CHOICE). -/
def findPayload (h : Nat) (d : Dir) (r : Record) : List Byte :=
  nat16 h ++ [nat8 d.code, 0#8] ++ sessionEntry r ++ bytes32 r.body.packetsOrig ++ bytes32 r.body.packetsReply ++
    bytes48 r.body.bytesOrig ++ bytes48 r.body.bytesReply

/-- The payload of a FIND miss (R187). Its reserved byte is zero (log entry 55, DESIGN CHOICE). -/
def findMiss : List Byte := nat16 0xFFFF ++ [0#8, 0#8]

/-- A FIND request (R41, R173). -/
def answerFind : Handler := fun r s =>
  if r.length ≠ 16 then (s, Answer.only .badLength)
  else
    let found := lookup (readKey r.payload 0) s
    (found.1, { status := .ok, payload := match found.2 with
      | none => findMiss
      | some (h, d) => findPayload h d (recordOf found.1 h) })

/-! ## REMOVE (R40) -/

/-- The handle form (R40). -/
def removeByHandle (p : List Byte) (s : State) : State × Answer :=
  let h := (word16At p 2).toNat
  if Config.handles ≤ h then (s, Answer.only .badIndex)
  else if liveAs s h (word16At p 4) then
    (removeSession h .management false s, { status := .ok, payload := sessionPayload h (word16At p 4) none })
  else (s, { status := .stale, payload := stalePayload h (recordOf s h).epoch (nat8 (recordOf s h).handleState.code) })

/-- The key form (R40). The epoch and state that STALE carries for a key that missed are free values. -/
def removeByKey (p : List Byte) (s : State) : State × Answer :=
  let found := lookup (readKey p 4) s
  match found.2 with
  | none => (found.1, { status := .stale, payload := stalePayload 0xFFFF Config.staleMissEpoch Config.staleMissState })
  | some (h, d) =>
    (removeSession h .management false found.1,
     { status := .ok, payload := sessionPayload h (recordOf found.1 h).epoch (some d) })

/-- A REMOVE request (R40, R173). -/
def answerRemove : Handler := fun r s =>
  if r.length ≠ 20 then (s, Answer.only .badLength)
  else if ¬ s.pai.role.isActive then (s, Answer.only .notActive)
  else if byteAt r.payload 0 = 1#8 then removeByHandle r.payload s
  else if byteAt r.payload 0 = 2#8 then removeByKey r.payload s
  else (s, Answer.only .badRecord)

/-! ## The rows -/

/-- INSTALL (R33 to R35). -/
def execInstall (s : State) : Host.Outcome State Fault Refusal := .next (takeRequest .install answerInstall s)

/-- FIND (R41). -/
def execFind (s : State) : Host.Outcome State Fault Refusal := .next (takeRequest .find answerFind s)

/-- REMOVE (R40). -/
def execRemove (s : State) : Host.Outcome State Fault Refusal := .next (takeRequest .remove answerRemove s)

end Sys2Proof.Machine
end

