-- ==== Sys2Proof/Machine/Ports.lean ====
section
/-! DEFINITION. The ports' commands (chapter 1): a frame received on each port, and the end of a frame's transmission. -/

namespace Sys2Proof.Machine

/-- A VIRTUAL or ARP_VIRTUAL frame passes the open gate and is discarded by the closed one (R11). -/
def throughGate (go : State → State) (s : State) : State := if gateOpen s then go s else bump .gateDrop s

/-- The bytes of a frame behind its header. -/
def afterHeader (s : State) (f : Frame) : List Byte := f.drop (headerOf s f).off

/-- A W-port frame by its class (R7). -/
def classedW (f : Frame) (s : State) : State :=
  match classW s f with
  | .tunnelMirror => mirrorDispatch .secondary (afterHeader s f) s
  | .virtual => throughGate (fastPath f) s
  | .arpVirtual => throughGate (handToPort .p f) s
  | .other => handToPort .p f s

/-- A W-port frame that passed R1: unchanged to the P-port in DETACHED, classed in every other role (R7, R8). -/
def takeW (f : Frame) (s : State) : State := if s.pai.role = .detached then handToPort .p f s else classedW f s

/-- An S-port frame is a mirror frame of the primary path: untagged, with mirror_ethertype (R9). -/
def isMirrorS (s : State) (f : Frame) : Bool := word16At f 12 != 0x8100#16 && word16At f 12 == s.cfg.mirrorEthertype

/-- An S-port frame that passed R1 (R8, R9). -/
def takeS (f : Frame) (s : State) : State :=
  if s.pai.role = .detached then bump .sDiscard s
  else if isMirrorS s f then mirrorDispatch .primary (f.drop 14) s
  else report .prt2 (ErrInfo.ofPlace (portPlace .s)) (bump .sDiscard s)

/-- What a port's transmitter last put on the wire. -/
def Prt.setSent (p : Prt) (port : Port) (f : SentFrame) : Prt :=
  match port with
  | .p => { p with pSent := some f }
  | .w => { p with wSent := some f }
  | .s => { p with sSent := some f }

/-- A transmission completes: the head frame, padded to 60 bytes, has left with a good FCS; it leaves the queue and the
transmit counter rises (R2). An empty queue has no transmission. -/
def transmitted (port : Port) (s : State) : State :=
  match s.prt.queue port with
  | [] => s
  | f :: rest =>
    bump (txCounter port)
      { s with prt := (s.prt.setQueue port rest).setSent port { bytes := padTo 60 f, fcsGood := true } }

/-! ## The rows -/

/-- P_PORT_FRAME_RECEIVE (R6). -/
def execPPortFrameReceive (f : RxFrame) (s : State) : Host.Outcome State Fault Refusal :=
  .next (event (receive .p f classP) s)

/-- W_PORT_FRAME_RECEIVE (R7). -/
def execWPortFrameReceive (f : RxFrame) (s : State) : Host.Outcome State Fault Refusal :=
  .next (event (receive .w f takeW) s)

/-- S_PORT_FRAME_RECEIVE (R9). -/
def execSPortFrameReceive (f : RxFrame) (s : State) : Host.Outcome State Fault Refusal :=
  .next (event (receive .s f takeS) s)

/-- FRAME_TRANSMIT_COMPLETE of a port (R2). -/
def execFrameTransmitComplete (port : Port) (s : State) : Host.Outcome State Fault Refusal := .next (transmitted port s)

end Sys2Proof.Machine
end

