-- ==== Sys2Proof/Machine/Control.lean ====
section
/-! DEFINITION. KEEPALIVE and the CONTROL actions (10.5) but for SOFT_RESET (Resets.lean) and the row of CLOCK_HALT (Timers.lean). -/

namespace Sys2Proof.Machine

/-- A CONTROL action whose payload is its 8 bytes (R187). -/
def control (act : Handler) : Handler := fun r s => if r.length = 8 then act r s else (s, Answer.only .badLength)

/-- A refusal that changes nothing. -/
def refuse (st : Status) (s : State) : State × Answer := (s, Answer.only st)

/-- An effect answered OK. -/
def done (s : State) : State × Answer := (s, Answer.only .ok)

/-- The keepalive timer starts, but for a window of 0 (R175, R179). -/
def startKeepalive (s : State) : State :=
  if s.cfg.keepaliveWindow = 0 then s else { s with flt := { s.flt with keepalive := .running s.cfg.keepaliveWindow } }

/-- A KEEPALIVE request (R175). -/
def answerKeepalive : Handler := fun _ s =>
  if s.pai.role.keepaliveRuns then done (startKeepalive s) else refuse .badState s

/-! ## Roles (R130, R131, R134, R136, R138) -/

/-- No list entry stands twice. -/
def distinct : List Nat → Bool
  | [] => true
  | a :: as => !as.contains a && distinct as

/-- The checks of START (R130). -/
def startGood (s : State) : Bool :=
  let vlans := (enabledZones s.zones).map fun p => p.2.vlan
  s.cfg.stationId != 0 && isUnicast s.cfg.stationMac && s.cfg.stationMac != 0#48 && !vlans.isEmpty &&
    distinct (s.cfg.syncVlan :: vlans)

/-- A path at START: DOWN with judgment NONE (R130). -/
def PathState.started (p : PathState) : PathState := { p with up := false, deadTimer := .stopped, judgment := .none }

/-- What START clears before the role changes; a judgment that changes raises PEER (R125, R130). Mirror frames go to the
broadcast address until the next COMPATIBLE hello (R10). -/
def clearPairing (s : State) : State :=
  let s1 := { s with
    pai := { s.pai with primary := s.pai.primary.started, secondary := s.pai.secondary.started, peer := none,
                        peerActiveSeen := false }
    prt := { s.prt with peerMac := none } }
  if s.pai.primary.judgment = .none ∧ s.pai.secondary.judgment = .none then s1 else raise .peer s1

/-- START (R130). -/
def answerStart : Handler := fun _ s =>
  if s.pai.role ≠ .detached then refuse .badState s
  else if ¬ startGood s then refuse .badConfig s
  else done (changeRole .listen .start (startKeepalive (clearPairing s)))

/-- STOP (R131). -/
def answerStop : Handler := fun _ s =>
  if s.pai.role = .detached then done s else done (clearTable (changeRole .detached .stop s))

/-- TAKE (R136). -/
def answerTake : Handler := fun _ s =>
  if s.pai.role = .standbyReady then done (changeRole .takeover .take s) else refuse .badState s

/-- YIELD may be taken: ACTIVE with a usable peer in STANDBY_READY (R134). -/
def mayYield (s : State) : Bool := s.pai.role == .active && peerUsable s && peerRole s == some .standbyReady

/-- YIELD (R134). -/
def answerYield : Handler := fun _ s =>
  if mayYield s then done (changeRole .yielding .yield s) else refuse .badState s

/-- RESUME (R138). -/
def answerResume : Handler := fun _ s =>
  if s.pai.role = .faulted then done (changeRole .listen .resume (startKeepalive (clearTable s))) else refuse .badState s

/-- MIR4 for each suspension in force (R100). -/
def reportEnds (s : State) : State :=
  let s1 := if s.mir.suspendedPrimary then report .mir4 (ErrInfo.ofPlace (pathPlace .primary)) s else s
  if s.mir.suspendedSecondary then report .mir4 (ErrInfo.ofPlace (pathPlace .secondary)) s1 else s1

/-- RESUME_PATH (R100). -/
def answerResumePath : Handler := fun _ s =>
  if s.pai.role = .detached then refuse .badState s else done (rechoose (endSuspensions (reportEnds s)))

/-- FORCE_FAULT (R138, R178). -/
def answerForceFault : Handler := fun _ s =>
  if s.pai.role = .detached then refuse .badState s else done (raiseFault .flt2 ErrInfo.none s)

/-! ## Errors and latches (R174, R177) -/

/-- CLEAR_ERRORS (R177). -/
def answerClearErrors : Handler := fun r s =>
  match ErrClass.ofCode r.argument.toNat with
  | none => refuse .badIndex s
  | some c => done { s with flt := s.flt.setRecord c ErrRecord.empty }

/-- The paths that a CLEAR_STATUS argument names: the primary, the secondary (R189). -/
def latchesOf : Nat → Option (Bool × Bool)
  | 1 => some (true, false) | 2 => some (false, true) | 3 => some (true, true) | _ => none

/-- A peer-seen latch cleared when it is named. -/
def PathState.forget (p : PathState) (named : Bool) : PathState := if named then { p with seen := false } else p

/-- CLEAR_STATUS (R174). -/
def answerClearStatus : Handler := fun r s =>
  match latchesOf r.argument.toNat with
  | none => refuse .badIndex s
  | some (a, b) =>
    done { s with pai := { s.pai with primary := s.pai.primary.forget a, secondary := s.pai.secondary.forget b } }

/-! ## The clock (R156, R157) -/

/-- CLOCK_RUN (R156). -/
def answerClockRun : Handler := fun _ s => done { s with tim := { s.tim with running := true } }

/-- CLOCK_HALT's effect; its row is in Timers.lean (R156). -/
def answerClockHalt : Handler := fun _ s => done { s with tim := { s.tim with running := false } }

/-- CLOCK_SET (R157). It zeroes the FCS count (R154). -/
def answerClockSet : Handler := fun r s =>
  if s.tim.running then refuse .badState s
  else done { s with tim := { s.tim with seconds := r.argument, ms := 0, acc := 0#32 }, mir := { s.mir with fcsCount := 0 } }

/-! ## The rows -/

/-- KEEPALIVE (R175). -/
def execKeepalive (s : State) : Host.Outcome State Fault Refusal := .next (takeRequest .keepalive answerKeepalive s)

/-- START (R130). -/
def execStart (s : State) : Host.Outcome State Fault Refusal := .next (takeRequest .start (control answerStart) s)

/-- STOP (R131). -/
def execStop (s : State) : Host.Outcome State Fault Refusal := .next (takeRequest .stop (control answerStop) s)

/-- TAKE (R136). -/
def execTake (s : State) : Host.Outcome State Fault Refusal := .next (takeRequest .take (control answerTake) s)

/-- YIELD (R134). -/
def execYield (s : State) : Host.Outcome State Fault Refusal := .next (takeRequest .yield (control answerYield) s)

/-- RESUME (R138). -/
def execResume (s : State) : Host.Outcome State Fault Refusal := .next (takeRequest .resume (control answerResume) s)

/-- RESUME_PATH (R100). -/
def execResumePath (s : State) : Host.Outcome State Fault Refusal :=
  .next (takeRequest .resumePath (control answerResumePath) s)

/-- FORCE_FAULT (R138). -/
def execForceFault (s : State) : Host.Outcome State Fault Refusal :=
  .next (takeRequest .forceFault (control answerForceFault) s)

/-- CLEAR_ERRORS (R177). -/
def execClearErrors (s : State) : Host.Outcome State Fault Refusal :=
  .next (takeRequest .clearErrors (control answerClearErrors) s)

/-- CLEAR_STATUS (R174). -/
def execClearStatus (s : State) : Host.Outcome State Fault Refusal :=
  .next (takeRequest .clearStatus (control answerClearStatus) s)

/-- CLOCK_RUN (R156). -/
def execClockRun (s : State) : Host.Outcome State Fault Refusal := .next (takeRequest .clockRun (control answerClockRun) s)

/-- CLOCK_SET (R157). -/
def execClockSet (s : State) : Host.Outcome State Fault Refusal := .next (takeRequest .clockSet (control answerClockSet) s)

end Sys2Proof.Machine
end

