-- ==== Sys2Proof/Machine/Timers.lean ====
section
/-! DEFINITION. The time base (9.1, 9.2), the expiry of each timer, the patrol (9.5), and the mirror transmitter's own work:
a delta built, a drain reached. -/

namespace Sys2Proof.Machine

/-! ## The clock (R153, R154, R155) -/

/-- The ms and seconds counters at a tick (R154). -/
def Tim.advance (t : Tim) : Tim :=
  if 1000 ≤ t.ms + 1 then { t with ms := 0, seconds := t.seconds + 1#32 } else { t with ms := t.ms + 1 }

/-- The revert timer runs while the primary is suspended and UP and revert_period is not 0 (R100). -/
def revertRuns (s : State) : Bool := s.mir.suspendedPrimary && s.pai.primary.up && s.cfg.revertPeriod != 0

/-- The mirror transmitter's timers at a tick, and its FCS count at a change of the second (R99, R154). The revert timer of a
suspended primary keeps its count while it does not run, the primary being DOWN or revert_period 0 (log entry 60, DESIGN
CHOICE). -/
def Mir.tick (m : Mir) (reverting newSecond : Bool) : Mir :=
  { m with
    openFrame := m.openFrame.map fun fr => { fr with timer := fr.timer.tick }
    replayTimer := m.replayTimer.tick
    revertElapsed := if reverting then m.revertElapsed + 1 else m.revertElapsed
    fcsCount := if newSecond then 0 else m.fcsCount }

/-- A path's dead timer at a tick. -/
def PathState.tick (p : PathState) : PathState := { p with deadTimer := p.deadTimer.tick }

/-- The pairing controller's timers at a tick. -/
def Pai.tick (p : Pai) : Pai :=
  { p with primary := p.primary.tick, secondary := p.secondary.tick, listenTimer := p.listenTimer.tick,
           drainTimer := p.drainTimer.tick, helloTimer := p.helloTimer.tick }

/-- The burst's spacing timer at a tick. -/
def Burst.tick : Burst → Burst
  | .idle => .idle
  | .running n t => .running n t.tick

/-- One clock tick: the counters advance, every running timer counts it, and in the active roles a patrol step is due
(R154, R155, R160). -/
def tick (s : State) : State :=
  { s with
    tim := { s.tim.advance with patrolDue := s.pai.role.isActive }
    mir := s.mir.tick (revertRuns s) (decide (1000 ≤ s.tim.ms + 1))
    hold := s.hold.map fun e => { e with timer := e.timer.tick }
    shd := { s.shd with ackTimer := s.shd.ackTimer.tick }
    pai := s.pai.tick
    tko := { s.tko with grace := s.tko.grace.tick, burst := s.tko.burst.tick }
    flt := { s.flt with keepalive := s.flt.keepalive.tick, holdoff := s.flt.holdoff.tick } }

/-! ## The patrol (R160, R161) -/

/-- The timeout class of a session (R55, R159). -/
def timeoutClass (b : Body) : Nat :=
  match b.state with
  | .none | .new | .halfOpen => 0
  | .opened => 1
  | .drainOne | .drainBoth => 2
  | .linger => 3
  | .flow => b.flowClass.getD 4

/-- A record's age has reached its class's timeout (R161, step 5). -/
def expired (s : State) (b : Body) : Bool := decide (timeoutAt s (timeoutClass b) ≤ (s.tim.seconds - b.lastSeen).toNat)

/-- Step 5 of a visit to a LIVE handle (R161). -/
def visitExpiry (h : Nat) (s : State) : State :=
  if expired s (recordOf s h).body then removeSession h .expired false s else s

/-- Step 4 of a visit: one slot that the record names is checked, and the visit goes on when it is good (R161). -/
def visitSlot (pos : Nat) (go : State → State) (s : State) : State :=
  match checkSlot pos s with
  | (s1, .good) => go s1
  | (s1, _) => s1

/-- A visit of the patrol to a handle (R161). Of the two slots of step 4 slot_orig is checked first, and a failure there ends
the visit before slot_reply (log entry 50). -/
def visitHandle (s : State) (h : Nat) : State :=
  match checkRecord h s with
  | (s1, .good) =>
    let r := recordOf s1 h
    if r.handleState = .live then visitSlot r.slotOrig (visitSlot r.slotReply (visitExpiry h)) s1 else s1
  | (s1, _) => s1

/-- The handles of one patrol step (R160). -/
def patrolHandles (cursor rate : Nat) : List Nat := (List.range rate).map fun i => (cursor + i) % Config.handles

/-- A patrol step is to be made: this tick's has not been made, and the role is an active one (R160). -/
def patrolWaits (s : State) : Bool := s.tim.patrolDue && s.pai.role.isActive

/-- One patrol step: its visits, the cursor behind them, and the sweep counted when it wraps (R160). A TBL3 met at a visit makes
the part FAULTED, where no step is made; the visits that remain of the step are made nevertheless, on the cleared table, the
cursor moves by the whole patrol_rate, and the sweep is counted when it wraps (log entry 61, DESIGN CHOICE). -/
def patrolStep (s : State) : State :=
  let s1 := (patrolHandles s.tim.cursor s.cfg.patrolRate).foldl visitHandle s
  let next := s.tim.cursor + s.cfg.patrolRate
  let s2 := { s1 with tim := { s1.tim with cursor := next % Config.handles, patrolDue := false } }
  if Config.handles ≤ next then bump .patrolSweep s2 else s2

/-! ## Expiries -/

/-- An event acts when it is due, or changes nothing. -/
def whenDue (due : Bool) (f : State → State) (s : State) : State := if due then f s else s

/-- What a tick has made due is taken as one event; while the clock is HALTED nothing is (R155, R160). -/
def atTick (due : State → Bool) (f : State → State) (s : State) : State := event (whenDue (s.tim.running && due s) f) s

/-- The first entry of a hold queue whose timer has expired, and the queue without it. -/
def firstDue : List HoldEntry → Option (HoldEntry × List HoldEntry)
  | [] => none
  | e :: es => if e.timer.due then some (e, es) else (firstDue es).map fun p => (p.1, e :: p.2)

/-- An entry of the hold queue has expired. -/
def holdDue (s : State) : Bool := (firstDue s.hold).isSome

/-- The oldest expired entry is released unprotected with HLD1 (R77). -/
def holdExpired (s : State) : State :=
  match firstDue s.hold with
  | none => s
  | some (e, es) =>
    report .hld1 { ErrInfo.ofHandle e.handle with seq := e.releaseSeq.map BitVec.toNat }
      (releaseHeld .holdRelTimeout { s with hold := es } e)

/-- The coalesce timer of the open frame has expired. -/
def coalesceDue (s : State) : Bool := s.mir.openFrame.any fun fr => fr.timer.due

/-- The replay timer has expired with frames outstanding (R97). -/
def replayDue (s : State) : Bool := s.mir.replayTimer.due && !s.mir.replay.isEmpty

/-- The revert timer has run revert_period seconds (R100). -/
def revertDue (s : State) : Bool := revertRuns s && decide (s.cfg.revertPeriod * 1000 ≤ s.mir.revertElapsed)

/-- The revert timer's expiry: the primary's suspension ends with MIR4, and the secondary's with it (R100). -/
def revertExpired (s : State) : State :=
  rechoose (endSuspensions (report .mir4 (ErrInfo.ofPlace (pathPlace .primary)) s))

/-- The YIELD flag becomes set: the drain timer stops and a hello is sent at once (R122, R134). -/
def setYieldFlag (s : State) : State :=
  sendHello { s with pai := { s.pai with yieldFlag := true, drainTimer := .stopped } }

/-- The drain timer's expiry (R134). It acts though the transmitter may be drained, when no DRAINED has come (log entry 58,
DESIGN CHOICE). -/
def drainExpired (s : State) : State := setYieldFlag (report .pai5 (ErrInfo.ofSeq s.mir.dirty.length) s)

/-- The grace timer's expiry (R137, R147). -/
def graceExpired (s : State) : State := changeRole (if peerUsable s then .active else .solo) .graceEnd s

/-- The spacing timer of a burst has expired. -/
def spacingDue (s : State) : Bool :=
  match s.tko.burst with
  | .idle => false
  | .running _ t => t.due

/-- The next round of a burst (R150). -/
def nextRound (s : State) : State :=
  let s1 := sendRound s
  { s1 with tko := { s1.tko with burst := burstAfter (s.tko.burst.rounds - 1) s.cfg.announceSpacing } }

/-- The keepalive timer's expiry (R179). -/
def keepaliveExpired (s : State) : State := raiseFault .flt1 ErrInfo.none { s with flt := { s.flt with keepalive := .stopped } }

/-- The notice holdoff's expiry (R184). -/
def holdoffExpired (s : State) : State :=
  if s.flt.noticeMark then sendNotice { s with flt := { s.flt with noticeMark := false } }
  else { s with flt := { s.flt with holdoff := .stopped } }

/-! ## What each tick makes due -/

/-- The tick's patrol step (R160, R161). -/
def patrolEvent (s : State) : State := atTick patrolWaits patrolStep s

/-- The oldest expired entry of the hold queue leaves it (R77). -/
def holdEvent (s : State) : State := atTick holdDue holdExpired s

/-- The coalesce timer's expiry (R92). -/
def coalesceEvent (s : State) : State := atTick coalesceDue closeFrame s

/-- The replay timer's expiry (R97). -/
def replayEvent (s : State) : State := atTick replayDue replayExpired s

/-- The revert timer's expiry (R100). -/
def revertEvent (s : State) : State := atTick revertDue revertExpired s

/-- The ack timer's expiry (R108). -/
def ackEvent (s : State) : State := atTick (fun s => s.shd.ackTimer.due) (fun s => sendAck s.shd.ackPath false s) s

/-- The hello timer's expiry (R122). -/
def helloEvent (s : State) : State := atTick (fun s => s.pai.helloTimer.due) sendHello s

/-- The expiry of a path's dead timer (R126). -/
def deadEvent (path : PathId) (s : State) : State := atTick (fun s => (s.pai.path path).deadTimer.due) (pathDown path) s

/-- The listen timer's expiry (R132). -/
def listenEvent (s : State) : State := atTick (fun s => s.pai.listenTimer.due) (changeRole .solo .listenTimeout) s

/-- The drain timer's expiry (R134). -/
def drainEvent (s : State) : State := atTick (fun s => s.pai.drainTimer.due) drainExpired s

/-- The grace timer's expiry (R147). -/
def graceEvent (s : State) : State := atTick (fun s => s.tko.grace.due) graceExpired s

/-- The expiry of a burst's spacing timer (R150). -/
def spacingEvent (s : State) : State := atTick spacingDue nextRound s

/-- The keepalive timer's expiry (R179). -/
def keepaliveEvent (s : State) : State := atTick (fun s => s.flt.keepalive.due) keepaliveExpired s

/-- The notice holdoff's expiry (R184). -/
def holdoffEvent (s : State) : State := atTick (fun s => s.flt.holdoff.due) holdoffExpired s

/-- Each expired entry of the hold queue leaves it, the oldest first, each by an event of its own. -/
def holdEvents (s : State) : State := s.hold.foldl (fun t _ => holdEvent t) s

/-- The events that a tick can make due, in the order in which the model takes those that no command has taken (R155 lets
their owners act in either order; log entry 47). -/
def tickEvents : List (State → State) :=
  [patrolEvent, holdEvents, coalesceEvent, replayEvent, revertEvent, ackEvent, helloEvent, deadEvent .primary,
   deadEvent .secondary, listenEvent, drainEvent, graceEvent, spacingEvent, keepaliveEvent, holdoffEvent]

/-- What the last tick made due and no command has taken is taken, so that nothing expires later than its tick or while the
clock is HALTED (R155, R160). -/
def endTick (s : State) : State := tickEvents.foldl (fun t e => e t) s

/-! ## The clock's rows and its cycle (R153, R156) -/

/-- The accumulator written. -/
def setAcc (n : Nat) (s : State) : State := { s with tim := { s.tim with acc := BitVec.ofNat 32 n } }

/-- The increment added once: a carry out of the 32 bits is a tick (R153). -/
def addIncrement (s : State) : State :=
  let n := s.tim.acc.toNat + s.tim.increment
  if n < 2 ^ 32 then setAcc n s else tick (setAcc n s)

/-- One cycle of the 25 MHz reference: what the last tick made due is taken, and the increment is added while the clock is
RUNNING (R153). -/
def referenceCycle (s : State) : State := if s.tim.running then addIncrement (endTick s) else s

/-- The reference cycles up to and with the next carry (R153). -/
def cyclesToTick (t : Tim) : Nat := (2 ^ 32 - t.acc.toNat + t.increment - 1) / t.increment

/-- The reference cycles up to the next tick pass, and the tick comes (R153, R154). -/
def nextTick (s : State) : State := tick (setAcc (s.tim.acc.toNat + cyclesToTick s.tim * s.tim.increment) s)

/-- CLOCK_TICK: what the last tick made due is taken, and the next tick comes. A HALTED clock has none (R153, R155). -/
def clockTick (s : State) : State := if s.tim.running then nextTick (endTick s) else s

/-- The request at the head of the agent's queue is a CLOCK_HALT. -/
def haltWaits (s : State) : Bool :=
  s.mgtQueue.head?.any fun f => (readRequest f).row == .clockHalt && (readRequest f).length == 8

/-- CLOCK_HALT: what the last tick made due is taken before the clock stops (R155, R156). -/
def clockHalt (s : State) : State :=
  takeRequest .clockHalt (control answerClockHalt) (if haltWaits s then endTick s else s)

/-! ## The rows -/

/-- CLOCK_TICK (R154). -/
def execClockTick (s : State) : Host.Outcome State Fault Refusal := .next (clockTick s)

/-- CLOCK_HALT (R155, R156). -/
def execClockHalt (s : State) : Host.Outcome State Fault Refusal := .next (clockHalt s)

/-- PATROL_STEP (R160, R161). -/
def execPatrolStep (s : State) : Host.Outcome State Fault Refusal := .next (patrolEvent s)

/-- HOLD_TIMEOUT (R77). -/
def execHoldTimeout (s : State) : Host.Outcome State Fault Refusal := .next (holdEvent s)

/-- COALESCE_TIMER_EXPIRY (R92). -/
def execCoalesceTimerExpiry (s : State) : Host.Outcome State Fault Refusal := .next (coalesceEvent s)

/-- REPLAY_TIMER_EXPIRY (R97). -/
def execReplayTimerExpiry (s : State) : Host.Outcome State Fault Refusal := .next (replayEvent s)

/-- REVERT_TIMER_EXPIRY (R100). -/
def execRevertTimerExpiry (s : State) : Host.Outcome State Fault Refusal := .next (revertEvent s)

/-- ACK_TIMER_EXPIRY (R108). -/
def execAckTimerExpiry (s : State) : Host.Outcome State Fault Refusal := .next (ackEvent s)

/-- HELLO_TIMER_EXPIRY (R122). -/
def execHelloTimerExpiry (s : State) : Host.Outcome State Fault Refusal := .next (helloEvent s)

/-- DEAD_TIMER_EXPIRY of a path (R126). -/
def execDeadTimerExpiry (path : PathId) (s : State) : Host.Outcome State Fault Refusal := .next (deadEvent path s)

/-- LISTEN_TIMER_EXPIRY (R132). -/
def execListenTimerExpiry (s : State) : Host.Outcome State Fault Refusal := .next (listenEvent s)

/-- DRAIN_TIMER_EXPIRY (R134). -/
def execDrainTimerExpiry (s : State) : Host.Outcome State Fault Refusal := .next (drainEvent s)

/-- GRACE_TIMER_EXPIRY (R147). -/
def execGraceTimerExpiry (s : State) : Host.Outcome State Fault Refusal := .next (graceEvent s)

/-- ANNOUNCE_SPACING_EXPIRY (R150). -/
def execAnnounceSpacingExpiry (s : State) : Host.Outcome State Fault Refusal := .next (spacingEvent s)

/-- KEEPALIVE_TIMER_EXPIRY (R179). -/
def execKeepaliveTimerExpiry (s : State) : Host.Outcome State Fault Refusal := .next (keepaliveEvent s)

/-- NOTICE_HOLDOFF_EXPIRY (R184). -/
def execNoticeHoldoffExpiry (s : State) : Host.Outcome State Fault Refusal := .next (holdoffEvent s)

/-- DRAINED: the mirror transmitter is drained while the part is YIELDING (R101, R134). Nothing but this command sets the flag
at a drain, however long the transmitter has been drained (log entry 58, DESIGN CHOICE). -/
def execDrained (s : State) : Host.Outcome State Fault Refusal :=
  .next (event (whenDue (s.pai.role == .yielding && !s.pai.yieldFlag && isDrained s) setYieldFlag) s)

/-- DELTA_BUILD (R89 to R92). -/
def execDeltaBuild (s : State) : Host.Outcome State Fault Refusal := .next (event buildDelta s)

end Sys2Proof.Machine
end

