-- ==== Sys2Proof/Machine/Resets.lean ====
section
/-! DEFINITION. The three resets (R3, R27, R73, R82, R103, R120, R141, R152, R160, R163, R177, R182 to R185). -/

namespace Sys2Proof.Machine

/-! ## The ports at a reset (R3) -/

/-- The number of a port among the free values. -/
def portNumber : Port → Nat
  | .p => 0 | .w => 1 | .s => 2

/-- What a transmitter last put on the wire. -/
def Prt.sent (p : Prt) : Port → Option SentFrame
  | .p => p.pSent | .w => p.wSent | .s => p.sSent

/-- A head frame whose transmission had begun is cut short with an invalid FCS; whether it had begun, and how far it had
got, are free values (R3). -/
def cutSent (s : State) (port : Port) : Option SentFrame :=
  match s.prt.queue port with
  | [] => s.prt.sent port
  | f :: _ =>
    if Config.transmissionBegun s.freeCount (portNumber port) then
      some { bytes := (padTo 60 f).take (Config.cutLength s.freeCount (portNumber port)), fcsGood := false }
    else s.prt.sent port

/-- The path after a reset: empty queues, no peer MAC (R3, R10). -/
def resetPrt (s : State) : Prt :=
  { pQueue := [], wQueue := [], sQueue := [], pSent := cutSent s .p, wSent := cutSent s .w, sSent := cutSent s .s,
    peerMac := none }

/-! ## The fault and report unit at a reset (R177, R182 to R185) -/

/-- The ERR_ flag of a class whose record is not empty. -/
def keptFlag (c : ErrClass) (r : ErrRecord) : BitVec 9 := if r.first.isSome then c.flag.bitmap else 0#9

/-- The flags after a reset: READY, and the ERR_ flag of each record that is not empty (R182). -/
def resetFlags (f : Flt) : BitVec 9 :=
  Flag.ready.bitmap ||| keptFlag .note f.logNote ||| keptFlag .degraded f.logDegraded ||| keptFlag .loss f.logLoss |||
    keptFlag .fault f.logFault

/-- The unit after a reset that has dealt with its records: counters 0, mask READY, timers stopped, the reset cause
(R179, R181, R183 to R185). -/
def Flt.afterReset (f : Flt) (cause : ResetCause) (role : Role) (count : Nat) : Flt :=
  { f with counters := Vector.replicate 64 0#32, flags := resetFlags f, mask := Flag.ready.bitmap, keepalive := .stopped,
           holdoff := .stopped, noticeMark := false, resetRecord := { cause := cause, role := role, count := count } }

/-- The reset count after one more reset (R185). -/
def nextCount (s : State) : Nat := min (s.flt.resetRecord.count + 1) 65535

/-! ## Power-on and pin reset -/

/-- POWER_ON: the state after power-on (R185). The command queue and the free-value counter are this model's own; what the
ports last sent is kept with any frame cut short. -/
def powerOn (s : State) : State :=
  { State.reset with
    prt := { State.reset.prt with pSent := cutSent s .p, wSent := cutSent s .w, sSent := cutSent s .s }
    pending := s.pending
    freeCount := s.freeCount + 1 }

/-- PIN_RESET: power-on values but for the FAULT record and the reset count; READY rises and its notice is sent at once
(R177, R182, R184, R185). -/
def pinReset (s : State) : State :=
  sendNotice
    { State.reset with
      prt := resetPrt s
      flt := ({ State.reset.flt with logFault := s.flt.logFault }).afterReset .pin s.pai.role (nextCount s)
      pending := s.pending
      freeCount := s.freeCount + 1 }

/-! ## SOFT_RESET -/

/-- The pairing controller after a SOFT_RESET whose history record has been added: the history and both generations stay
(R120). -/
def Pai.softReset (p : Pai) : Pai :=
  { Pai.reset with history := p.history, pairGen := p.pairGen, peerGenSeen := p.peerGenSeen }

/-- The time base after a SOFT_RESET: the clock goes on, the patrol's cursor is 0 (R152, R160). -/
def Tim.softReset (t : Tim) : Tim := { t with cursor := 0, patrolDue := false }

/-- What a SOFT_RESET writes into the logs it keeps: the role history's record outside DETACHED (R120), and TKO2 for a
burst it ends (R150). -/
def logSoftReset (s : State) : State :=
  if s.pai.role = .detached then s else addHistory s.pai.role .detached .softReset (endBurst s)

/-- SOFT_RESET's effect on the part (R174); READY rises and its notice is sent at once. -/
def softReset (s : State) : State :=
  let s1 := logSoftReset s
  sendNotice
    { State.reset with
      cfg := s.cfg
      zones := s.zones
      timeouts := s.timeouts
      prt := resetPrt s
      shd := { Shd.reset with adoptedGen := s.shd.adoptedGen }
      pai := s1.pai.softReset
      tim := s.tim.softReset
      flt := s1.flt.afterReset .soft s.pai.role (nextCount s)
      pending := s.pending
      freeCount := s.freeCount + 1 }

/-- The SOFT_RESET action: it takes effect before its response, which is handed to the emptied queue; neither is counted
(R174). -/
def takeSoftReset (s : State) : State :=
  match s.mgtQueue with
  | [] => s
  | f :: rest =>
    let r := readRequest f
    if r.row = .softReset then
      if r.length = 8 then respond r (Answer.only .ok) (softReset s)
      else serve (fun _ s => refuse .badLength s) r rest s
    else s

/-! ## The rows -/

/-- POWER_ON (R185). -/
def execPowerOn (s : State) : Host.Outcome State Fault Refusal := .next (powerOn s)

/-- PIN_RESET (R185). -/
def execPinReset (s : State) : Host.Outcome State Fault Refusal := .next (pinReset s)

/-- SOFT_RESET (R174). -/
def execSoftReset (s : State) : Host.Outcome State Fault Refusal := .next (takeSoftReset s)

end Sys2Proof.Machine
end

