-- ==== Sys2Proof/Machine/Dispatch.lean ====
section
/-! DEFINITION. One arm per command: the meaning of each row of spec/opcode_table.json. -/

namespace Sys2Proof.Machine

/-- The effect of a command on everything but the queue of commands. -/
def exec (i : Instr) (s : State) : Host.Outcome State Fault Refusal :=
  match i with
  | .powerOn => Sys2Proof.Machine.execPowerOn s
  | .pinReset => Sys2Proof.Machine.execPinReset s
  | .softReset => Sys2Proof.Machine.execSoftReset s
  | .pPortFrameReceive f => Sys2Proof.Machine.execPPortFrameReceive f s
  | .wPortFrameReceive f => Sys2Proof.Machine.execWPortFrameReceive f s
  | .sPortFrameReceive f => Sys2Proof.Machine.execSPortFrameReceive f s
  | .frameTransmitComplete port => Sys2Proof.Machine.execFrameTransmitComplete port s
  | .clockTick => Sys2Proof.Machine.execClockTick s
  | .patrolStep => Sys2Proof.Machine.execPatrolStep s
  | .holdTimeout => Sys2Proof.Machine.execHoldTimeout s
  | .coalesceTimerExpiry => Sys2Proof.Machine.execCoalesceTimerExpiry s
  | .replayTimerExpiry => Sys2Proof.Machine.execReplayTimerExpiry s
  | .revertTimerExpiry => Sys2Proof.Machine.execRevertTimerExpiry s
  | .ackTimerExpiry => Sys2Proof.Machine.execAckTimerExpiry s
  | .helloTimerExpiry => Sys2Proof.Machine.execHelloTimerExpiry s
  | .deadTimerExpiry path => Sys2Proof.Machine.execDeadTimerExpiry path s
  | .listenTimerExpiry => Sys2Proof.Machine.execListenTimerExpiry s
  | .drainTimerExpiry => Sys2Proof.Machine.execDrainTimerExpiry s
  | .graceTimerExpiry => Sys2Proof.Machine.execGraceTimerExpiry s
  | .announceSpacingExpiry => Sys2Proof.Machine.execAnnounceSpacingExpiry s
  | .keepaliveTimerExpiry => Sys2Proof.Machine.execKeepaliveTimerExpiry s
  | .noticeHoldoffExpiry => Sys2Proof.Machine.execNoticeHoldoffExpiry s
  | .drained => Sys2Proof.Machine.execDrained s
  | .deltaBuild => Sys2Proof.Machine.execDeltaBuild s
  | .read => Sys2Proof.Machine.execRead s
  | .readCountersClear => Sys2Proof.Machine.execReadCountersClear s
  | .write => Sys2Proof.Machine.execWrite s
  | .writeConfig => Sys2Proof.Machine.execWriteConfig s
  | .writeZones => Sys2Proof.Machine.execWriteZones s
  | .writeTimeouts => Sys2Proof.Machine.execWriteTimeouts s
  | .writeStatus => Sys2Proof.Machine.execWriteStatus s
  | .writeClock => Sys2Proof.Machine.execWriteClock s
  | .install => Sys2Proof.Machine.execInstall s
  | .find => Sys2Proof.Machine.execFind s
  | .remove => Sys2Proof.Machine.execRemove s
  | .keepalive => Sys2Proof.Machine.execKeepalive s
  | .start => Sys2Proof.Machine.execStart s
  | .stop => Sys2Proof.Machine.execStop s
  | .take => Sys2Proof.Machine.execTake s
  | .yield => Sys2Proof.Machine.execYield s
  | .resume => Sys2Proof.Machine.execResume s
  | .resumePath => Sys2Proof.Machine.execResumePath s
  | .forceFault => Sys2Proof.Machine.execForceFault s
  | .clearErrors => Sys2Proof.Machine.execClearErrors s
  | .clearStatus => Sys2Proof.Machine.execClearStatus s
  | .clockRun => Sys2Proof.Machine.execClockRun s
  | .clockHalt => Sys2Proof.Machine.execClockHalt s
  | .clockSet => Sys2Proof.Machine.execClockSet s
  | .runtRequest => Sys2Proof.Machine.execRuntRequest s
  | .undefinedCommand => Sys2Proof.Machine.execUndefinedCommand s

end Sys2Proof.Machine
end

