-- ==== Sys2Proof/Safety.lean ====
section
/-! DEFINITION. The terms of the claims: the blocks of the state and which of them each command can touch, the laws of the
session table, and the bounds and exclusions that the spec states. -/

namespace Sys2Proof.Safety

open Sys2Proof.Machine

/-! ## Frames by block -/

/-- The blocks of the state: one for each field of `State`, and besides them `clock` for the clock's items among those of
`tim`, `notice` for the holdoff and its mark among those of `flt`, and `pFrames` for the frames that wait at the P-port. -/
inductive Block where
  | cfg | zones | timeouts | prt | pFrames | tbl | hold | mir | shd | pai | tko | tim | clock | mgtQueue | flt | notice | pending
  | freeCount
  deriving DecidableEq, Repr

/-- The clock's items: run state, accumulator, increment, ms and seconds (R152). -/
def clockOf (t : Tim) : Bool × Word32 × Nat × Nat × Word32 := (t.running, t.acc, t.increment, t.ms, t.seconds)

/-- The notice's items: the holdoff and the pending mark (R184). -/
def noticeItems (f : Flt) : Timer × Bool := (f.holdoff, f.noticeMark)

/-- Two states agree in a block: it is the same, and of `pFrames`, no frame that waits at the P-port is lost or moved. -/
def agrees (b : Block) (s t : State) : Prop :=
  match b with
  | .cfg => t.cfg = s.cfg
  | .zones => t.zones = s.zones
  | .timeouts => t.timeouts = s.timeouts
  | .prt => t.prt = s.prt
  | .pFrames => s.prt.pQueue <+: t.prt.pQueue
  | .tbl => t.tbl = s.tbl
  | .hold => t.hold = s.hold
  | .mir => t.mir = s.mir
  | .shd => t.shd = s.shd
  | .pai => t.pai = s.pai
  | .tko => t.tko = s.tko
  | .tim => t.tim = s.tim
  | .clock => clockOf t.tim = clockOf s.tim
  | .mgtQueue => t.mgtQueue = s.mgtQueue
  | .flt => t.flt = s.flt
  | .notice => noticeItems t.flt = noticeItems s.flt
  | .pending => t.pending = s.pending
  | .freeCount => t.freeCount = s.freeCount

/-- The step from s to t leaves every block but those listed as it was. -/
def Touches (bs : List Block) (s t : State) : Prop := ∀ b, b ∉ bs → agrees b s t

/-- The blocks that a report, a counter and a frame handed over touch. -/
def reports : List Block := [.prt, .flt]

/-- The blocks that the end of an event touches: those of a report, and the notice's items (R184). -/
def noticeBlocks : List Block := .notice :: reports

/-- The blocks that a role change can touch (R139): all but the configuration, the clock (R152), the queues and the free
values. -/
def roleBlocks : List Block := [.prt, .flt, .tbl, .hold, .mir, .shd, .pai, .tko, .tim]

/-- The blocks that an event can touch whose effect is a role change or less. -/
def eventBlocks : List Block := .notice :: roleBlocks

/-- The blocks that the mirror transmitter's own work can touch: the stream with the table and the held frames (chapter 5). -/
def streamBlocks : List Block := [.prt, .flt, .tbl, .hold, .mir]

/-- The blocks that a management row touches beside those of its effect: the request leaves, the response joins (R164). -/
def requestBlocks : List Block := .mgtQueue :: noticeBlocks

/-- The blocks that each command can touch. -/
def blocksOf : Instr → List Block
  | .powerOn | .pinReset | .softReset =>
    [.cfg, .zones, .timeouts, .prt, .pFrames, .tbl, .hold, .mir, .shd, .pai, .tko, .tim, .clock, .mgtQueue, .flt, .notice,
     .freeCount]
  | .pPortFrameReceive _ => requestBlocks
  | .wPortFrameReceive _ | .sPortFrameReceive _ => eventBlocks
  | .frameTransmitComplete _ => .pFrames :: reports
  | .clockTick => .clock :: eventBlocks
  | .patrolStep => eventBlocks
  | .holdTimeout => .hold :: .tbl :: noticeBlocks
  | .coalesceTimerExpiry | .deltaBuild => .notice :: streamBlocks
  | .replayTimerExpiry => .pai :: .notice :: streamBlocks
  | .revertTimerExpiry => .mir :: noticeBlocks
  | .ackTimerExpiry => .shd :: noticeBlocks
  | .helloTimerExpiry | .drainTimerExpiry | .drained => .pai :: noticeBlocks
  | .deadTimerExpiry _ | .listenTimerExpiry | .graceTimerExpiry | .keepaliveTimerExpiry => eventBlocks
  | .announceSpacingExpiry => .tko :: noticeBlocks
  | .noticeHoldoffExpiry => noticeBlocks
  | .read | .install | .find | .remove => .mgtQueue :: eventBlocks
  | .readCountersClear | .write | .writeStatus | .keepalive | .clearErrors | .undefinedCommand | .runtRequest => requestBlocks
  | .writeConfig => .cfg :: requestBlocks
  | .writeZones => .zones :: requestBlocks
  | .writeTimeouts => .timeouts :: requestBlocks
  | .writeClock | .clockRun => .tim :: .clock :: requestBlocks
  | .clockHalt => .clock :: .mgtQueue :: eventBlocks
  | .clockSet => .tim :: .clock :: .mir :: requestBlocks
  | .start | .stop | .take | .yield | .resume | .forceFault => .mgtQueue :: eventBlocks
  | .resumePath => .mir :: requestBlocks
  | .clearStatus => .pai :: requestBlocks

/-! ## Commands in a row, and the end of a tick -/

/-- The commands of a list, run one after another, lead from s to t. -/
def Runs : List Instr → State → State → Prop
  | [], s, t => t = s
  | c :: cs, s, t => ∃ u, exec c s = .next u ∧ Runs cs u t

/-- The commands of the timers' expiries but for the hold queue's, in the order in which the model takes them at the end of a
tick (log entry 47). -/
def expiryCommands : List Instr :=
  [.coalesceTimerExpiry, .replayTimerExpiry, .revertTimerExpiry, .ackTimerExpiry, .helloTimerExpiry, .deadTimerExpiry .primary,
   .deadTimerExpiry .secondary, .listenTimerExpiry, .drainTimerExpiry, .graceTimerExpiry, .announceSpacingExpiry,
   .keepaliveTimerExpiry, .noticeHoldoffExpiry]

/-- What the last tick made due is taken (R155, R160): the patrol step, an expiry for each held frame, then every other
timer's. A command whose event is not due changes nothing. -/
def TickEnds (s t : State) : Prop :=
  ∃ u v, exec .patrolStep s = .next u ∧ Runs (u.hold.map fun _ => .holdTimeout) u v ∧ Runs expiryCommands v t

/-! ## The laws of the session table (R24, R28, R43) -/

/-- Every run of the free list holds a handle, and no handle of it is above 32,767. -/
def runsGood (f : List Run) : Prop := ∀ r ∈ f, 0 < r.count ∧ r.first + r.count ≤ Config.handles

/-- The digest sum over the LIVE handles (R43). -/
def digestOf (t : Tbl) : Word32 := (t.liveHandles.map fun h => digestTerm h (t.record h).epoch).sum

/-- The law of the handles and the digest: the record store is in canonical order; a handle is on the free list exactly when
it is FREE, no number above 32,767 is anything but FREE, and no handle is on the list twice (R24, R28); the live count and
the digest sum are those of the LIVE handles (R43). -/
structure TableLaw (t : Tbl) : Prop where
  sorted   : sparseSorted t.records = true
  runs     : runsGood t.free
  free_iff : ∀ h, h < Config.handles → (h ∈ freeHandles t.free ↔ (t.record h).handleState = .free)
  used     : ∀ h, Config.handles ≤ h → (t.record h).handleState = .free
  nodup    : (freeHandles t.free).Nodup
  count    : t.liveCount = t.liveHandles.length
  digest   : t.digestSum = digestOf t

/-- The law of the key slots (R25, R29, R37): the slots are in canonical order and in range; an occupied slot names a LIVE
handle whose record names that position for the slot's direction; and the two positions of a LIVE record hold its two keys. -/
structure SlotLaw (t : Tbl) : Prop where
  sorted : sparseSorted t.slots = true
  range  : ∀ pos sl, t.slot pos = some sl → pos < Config.keySlots
  names  : ∀ pos sl, t.slot pos = some sl → (t.record sl.handle).handleState = .live ∧
    pos = (match sl.dir with | .orig => (t.record sl.handle).slotOrig | .reply => (t.record sl.handle).slotReply)
  orig   : ∀ h, (t.record h).handleState = .live → ∃ sl, t.slot (t.record h).slotOrig = some sl ∧ sl.handle = h ∧
    sl.dir = .orig ∧ sl.key = (t.record h).body.origKey
  reply  : ∀ h, (t.record h).handleState = .live → ∃ sl, t.slot (t.record h).slotReply = some sl ∧ sl.handle = h ∧
    sl.dir = .reply ∧ sl.key = (t.record h).body.replyKey

/-- The law of the keys (R29, R30, R31): a key stands only where its lookup reads, no key stands in two slots, and in
DETACHED the key table is empty. -/
structure KeyLaw (s : State) : Prop where
  placed   : ∀ pos sl, s.tbl.slot pos = some sl → pos ∈ keyPositions s.cfg.hashSeed sl.key
  once     : ∀ p q a b, s.tbl.slot p = some a → s.tbl.slot q = some b → a.key = b.key → p = q
  detached : s.pai.role = .detached → ∀ pos, s.tbl.slot pos = none

/-- The handles whose REMOVE has been built and not yet acknowledged: those of the replay queue, then those of the open frame
(R93, R39). -/
def removesInFlight (s : State) : List Nat :=
  s.mir.replay.flatMap DataFrame.removes ++ (match s.mir.openFrame with | none => [] | some fr => fr.removes)

/-- The law of what waits for the peer: the dirty list holds exactly the handles that are pending, each once (R87); a LIVE
handle is pending CREATE or UPDATE and a RETIRED one REMOVE (R38); a handle is RETIRED with nothing pending exactly while its
REMOVE is in flight, and none is RETIRED while the stream is CLOSED (R39); the hold entries are those of distinct LIVE
sessions (R73). -/
structure QueueLaw (s : State) : Prop where
  dirty   : s.mir.dirty.Nodup ∧ ∀ h, h ∈ s.mir.dirty ↔ (recordOf s h).pending ≠ .none
  kinds   : ∀ h, (recordOf s h).pending ≠ .none →
    ((recordOf s h).handleState = .live ∧ (recordOf s h).pending ≠ .remove) ∨
      ((recordOf s h).handleState = .retired ∧ (recordOf s h).pending = .remove)
  flight  : (removesInFlight s).Nodup ∧ ∀ h, h ∈ removesInFlight s ↔
    (recordOf s h).handleState = .retired ∧ (recordOf s h).pending = .none
  closed  : s.mir.stream = .closed → ∀ h, (recordOf s h).handleState ≠ .retired
  hold    : (s.hold.map HoldEntry.handle).Nodup ∧
    ∀ e ∈ s.hold, (recordOf s e.handle).handleState = .live ∧ (recordOf s e.handle).epoch = e.epoch

/-! ## Bounds and exclusions -/

/-- The transmit queues hold at most their frames (R2), and the request queue at most 8 (R163). -/
def queuesBounded (s : State) : Prop :=
  s.prt.pQueue.length ≤ 64 ∧ s.prt.wQueue.length ≤ 128 ∧ s.prt.sQueue.length ≤ 80 ∧ s.mgtQueue.length ≤ 8

/-- The tolerance in effect is zero and the grace timer is stopped outside TAKEOVER (R146, R147). -/
def toleranceConfined (s : State) : Prop := s.pai.role ≠ .takeover → s.tko.tolerance = 0 ∧ s.tko.grace = .stopped

/-- While the stream is CLOSED nothing waits to be sent, no frame is held and there is no data path (R73, R86, R87, R98). -/
def closedIsQuiet (s : State) : Prop :=
  s.mir.stream = .closed →
    s.mir.replay = [] ∧ s.mir.openFrame = none ∧ s.mir.dirty = [] ∧ s.hold = [] ∧ s.mir.dataPath = none

/-- The stream is OPEN only in ACTIVE, TAKEOVER and YIELDING (R84, R86). -/
def streamConfined (s : State) : Prop := s.mir.stream = .opened → s.pai.role.mayStream = true

/-- The replay queue holds at most 64 frames, and has room for a frame that is open (R92, R93). -/
def replayBounded (s : State) : Prop :=
  s.mir.replay.length ≤ Config.replayRoom ∧ (s.mir.openFrame ≠ none → s.mir.replay.length < Config.replayRoom)

/-- The hold queue holds at most 48 entries (R73). -/
def holdBounded (s : State) : Prop := s.hold.length ≤ Config.holdRoom

/-- The refresh list holds at most 16 handles, none twice; outside the standby roles it is empty and BULK_WANTED is clear
(R117, R118). -/
def refreshConfined (s : State) : Prop :=
  s.shd.refresh.length ≤ Config.refreshRoom ∧ s.shd.refresh.Nodup ∧
    (s.pai.role.isStandby = false → s.shd.refresh = [] ∧ s.shd.bulkWanted = false)

/-- Outside YIELDING the YIELD flag is clear and the drain timer stopped (R134). -/
def yieldConfined (s : State) : Prop := s.pai.role ≠ .yielding → s.pai.yieldFlag = false ∧ s.pai.drainTimer = .stopped

/-- Outside the active roles no burst runs (R150). -/
def burstConfined (s : State) : Prop := s.pai.role.isActive = false → s.tko.burst = .idle

/-- In FAULTED and DETACHED the keepalive timer is stopped (R179). -/
def keepaliveConfined (s : State) : Prop := s.pai.role.keepaliveRuns = false → s.flt.keepalive = .stopped

/-- The role history holds at most 8 records (R120). -/
def historyBounded (s : State) : Prop := s.pai.history.length ≤ Config.historyRoom

/-- A state that a run may pass through. -/
structure Safe (s : State) : Prop where
  queues    : queuesBounded s
  tolerance : toleranceConfined s
  quiet     : closedIsQuiet s
  stream    : streamConfined s
  replay    : replayBounded s
  hold      : holdBounded s
  refresh   : refreshConfined s
  yielding  : yieldConfined s
  burst     : burstConfined s
  keepalive : keepaliveConfined s
  history   : historyBounded s

/-! ## A notice, and a response

The last two things that an event can bring about: the notice its rises cause (R184), and for a request the response (R164).
Each is a frame handed to the P-port, which a full queue drops and reports (R2). -/

/-- Two states agree in all that a frame handed to the P-port leaves alone; the counters listed may differ. -/
structure PortKept (cs : List Ctr) (s t : State) : Prop where
  blocks : Touches noticeBlocks s t
  wQueue : t.prt.wQueue = s.prt.wQueue
  sQueue : t.prt.sQueue = s.prt.sQueue
  sent   : t.prt.pSent = s.prt.pSent ∧ t.prt.wSent = s.prt.wSent ∧ t.prt.sSent = s.prt.sSent
  peer   : t.prt.peerMac = s.prt.peerMac
  queue  : s.prt.pQueue <+: t.prt.pQueue
  counts : ∀ c, (∀ d ∈ cs, c.pos ≠ d.pos) → counter t c = counter s c
  logs   : t.flt.logDegraded = s.flt.logDegraded ∧ t.flt.logLoss = s.flt.logLoss ∧ t.flt.logFault = s.flt.logFault
  kept   : t.flt.mask = s.flt.mask ∧ t.flt.keepalive = s.flt.keepalive ∧ t.flt.resetRecord = s.flt.resetRecord
  flags  : t.flt.flags ||| Flag.errNote.bitmap = s.flt.flags ||| Flag.errNote.bitmap

/-- t is s after at most one notice (R184). With room for it nothing is dropped, so no counter, flag or record moves. -/
structure Noticed (s t : State) : Prop where
  kept : PortKept [.pTxDrop] s t
  most : t.prt.pQueue.length ≤ s.prt.pQueue.length + 1
  room : s.prt.pQueue.length < Config.pQueueRoom →
    t.flt.counters = s.flt.counters ∧ t.flt.flags = s.flt.flags ∧ t.flt.logNote = s.flt.logNote

/-- t is s after at most one notice and the response to a request (R164). With room for both, the response is the last
frame handed over, and no flag or record moves. -/
structure Replied (r : Request) (a : Answer) (s t : State) : Prop where
  kept    : PortKept [.pTxDrop, .mgtRefused] s t
  refused : counter t .mgtRefused = (if a.status.refuses then satAdd32 (counter s .mgtRefused) 1 else counter s .mgtRefused)
  room    : s.prt.pQueue.length + 2 ≤ Config.pQueueRoom →
    t.prt.pQueue.getLast? = some (responseFrame r a s) ∧ t.flt.flags = s.flt.flags ∧ t.flt.logNote = s.flt.logNote

/-- An unmasked flag rises from s to t (R183, R184). -/
def Rises (s t : State) : Prop :=
  ∃ g : Flag, t.flt.flags.getLsbD g.bit = true ∧ s.flt.flags.getLsbD g.bit = false ∧ t.flt.mask.getLsbD g.bit = true

/-- The bytes of a notice with the flags, the role and the reset record of s (R184, R187). -/
def noticeBytes (s : State) : Frame :=
  bytes48 s.cfg.noticeMac ++ bytes48 s.cfg.stationMac ++ bytes16 s.cfg.mgmtEthertype ++
    [2#8, BitVec.ofNat 8 s.pai.role.code] ++ bytes16 (s.flt.flags.setWidth 16) ++
    [BitVec.ofNat 8 s.flt.resetRecord.cause.code, BitVec.ofNat 8 s.flt.resetRecord.role.code] ++
    nat16 s.flt.resetRecord.count ++ zeros 4

/-- What the rises of a command that leads from s to t bring about (R183, R184). While the holdoff runs it goes on, and a rise
sets the mark. With the holdoff stopped, and no frame lost at the P-port, a rise sends one notice, behind which at most `behind`
frames stand, and starts the holdoff; without a rise the holdoff and the mark stand. -/
structure RisesTaken (behind : Nat) (s t : State) : Prop where
  marked : ∀ n, s.flt.holdoff = .running n → t.flt.holdoff = .running n ∧ (Rises s t → t.flt.noticeMark = true)
  quiet  : t.prt.pQueue.length < 64 → ¬ Rises s t → noticeItems t.flt = noticeItems s.flt
  sent   : t.prt.pQueue.length < 64 → Rises s t → s.flt.holdoff = .stopped →
    noticeItems t.flt = (.running t.cfg.noticeHoldoff, s.flt.noticeMark) ∧
    ∃ pre post, t.prt.pQueue = pre ++ noticeBytes t :: post ∧ s.prt.pQueue <+: pre ∧ post.length ≤ behind

/-- A request waits at the head of the agent's queue, with the others behind it (R163, R187). -/
def Waiting (s : State) (r : Request) (rest : List Frame) : Prop :=
  ∃ f, s.mgtQueue = f :: rest ∧ readRequest f = r ∧ r.length ≤ r.rest

/-- A CONTROL request of 8 bytes with an action code waits (R174, R187). -/
def Commanded (action : Byte) (s : State) (r : Request) (rest : List Frame) : Prop :=
  Waiting s r rest ∧ r.command = 6 ∧ r.length = 8 ∧ r.payload.head? = some action

/-! ## Requests that name entries (R165, R166) -/

/-- The fields of a READ or WRITE are those that check 3 allows, but for the clear flag. -/
def fieldsAllowed (r : Request) : Prop := 1 ≤ r.count ∧ r.stepMode < 4 ∧ (r.stepMode = 3 → 1 ≤ r.span ∧ r.span ≤ 4)

/-- The index that entry k of a READ or WRITE visits, in the order of its step mode. -/
def entryPlace (r : Request) (k : Nat) : Nat :=
  match r.stepMode with
  | 0 => r.index + k
  | 1 => r.index - k
  | 2 => r.index
  | _ => r.index + k % r.span

/-- Every index that a READ or WRITE visits is one of n (check 4). -/
def placesWithin (r : Request) (n : Nat) : Prop :=
  (r.stepMode = 1 → r.count ≤ r.index + 1) ∧ ∀ k < r.count, entryPlace r k < n

/-- The last entry that visits an index: of a WRITE, the one that stands. -/
def lastFor (r : Request) (i : Nat) : Option Nat := (List.range r.count).reverse.find? fun k => entryPlace r k == i

/-- The command of a WRITE of an object. -/
def writeCommand : Object → Instr
  | .config => .writeConfig | .zones => .writeZones | .timeouts => .writeTimeouts | .status => .writeStatus
  | .clock => .writeClock
  | .session | .counters | .errlog | .pairing => .write

/-- The command of a CONTROL request: that of its action (R174, R189), and UNDEFINED_COMMAND without a defined one. -/
def controlCommand (r : Request) : Instr :=
  match r.payload.head?.map BitVec.toNat with
  | some 1 => .start | some 2 => .stop | some 3 => .take | some 4 => .yield | some 5 => .resume | some 6 => .resumePath
  | some 7 => .forceFault | some 8 => .softReset | some 9 => .clearErrors | some 10 => .clearStatus
  | some 11 => .clockRun | some 12 => .clockHalt | some 13 => .clockSet
  | _ => .undefinedCommand

/-! ## A role change

What a role change does, block by block, as R139 orders it: the rules of each block for its new role. -/

/-- The pairing controller after a role change (R120, R122, R126, R131, R132, R134, R135, R144). -/
def paiAfter (from_ to_ : Role) (cause : Cause) (s : State) : Pai :=
  { role := to_
    history := (s.pai.history ++ [(RoleRecord.mk from_ to_ cause s.tim.seconds s.tim.ms)]).drop
      (s.pai.history.length + 1 - 8)
    primary := if to_ = .detached then { s.pai.primary with up := false, deadTimer := .stopped } else s.pai.primary
    secondary := if to_ = .detached then { s.pai.secondary with up := false, deadTimer := .stopped } else s.pai.secondary
    peer := s.pai.peer
    peerActiveSeen :=
      if to_ = .detached then false
      else if from_.isStandby = false ∧ to_.isStandby = true then
        decide (cause ∈ [.peerActive, .peerTakeover, .dualActive, .dualTakeover])
      else s.pai.peerActiveSeen
    listenTimer := if to_ = .listen then .running (s.cfg.helloInterval * s.cfg.deadMultiplier) else .stopped
    drainTimer := if to_ = .yielding then .running s.cfg.yieldDrainLimit else .stopped
    yieldFlag := false
    helloTimer := if to_ = .detached then .stopped else .running s.cfg.helloInterval
    pairGen := if to_ = .takeover then laterGen s.pai.pairGen s.pai.peerGenSeen + 1#32 else s.pai.pairGen
    peerGenSeen := s.pai.peerGenSeen }

/-- The shadow receiver after a role change: dropped on leaving the standby roles, unbound on entering them, with
BULK_WANTED set on an entry to STANDBY_SYNC from LISTEN or an active role (R105, R116, R118). -/
def shdAfter (from_ to_ : Role) (s : State) : Shd :=
  if from_.isStandby = true ∧ to_.isStandby = false then
    { s.shd with bound := false, unacked := 0, ackTimer := .stopped, bulkWanted := false, refresh := [] }
  else if from_.isStandby = false ∧ to_.isStandby = true then
    { s.shd with
      bound := false, expectedSeq := 0#16, unacked := 0, ackTimer := .stopped
      bulkWanted := s.shd.bulkWanted || decide (to_ = .standbySync ∧ (from_ = .listen ∨ from_.isActive = true)) }
  else s.shd

/-- A role change leaves the stream as it is: it was CLOSED, or the new role may have it open (R86). -/
abbrev streamStays (to_ : Role) (s : State) : Prop := s.mir.stream = .closed ∨ to_ = .active ∨ to_ = .takeover ∨ to_ = .yielding

/-- The mirror transmitter after the close that a role change makes (R86). -/
def mirClosed (m : Mir) : Mir :=
  { m with stream := .closed, dirty := [], walk := .idle, cursor := 0, turn := .liveFirst, openFrame := none,
           sinceCheckpoint := 0, replay := [], replayCount := 0, replayTimer := .stopped, gapLatch := none, dataPath := none }

/-- A burst starts at this role change (R148). -/
abbrev burstStarts (from_ to_ : Role) : Prop := to_ = .takeover ∨ (from_ = .listen ∧ (to_ = .active ∨ to_ = .solo))

/-- The takeover unit after a role change (R145 to R148, R150). -/
structure TkoChanged (from_ to_ : Role) (s t : State) : Prop where
  grace : t.tko.grace = if to_ = .takeover then .running (s.cfg.gracePeriod * 1000) else .stopped
  tolerance : t.tko.tolerance = if to_ = .takeover then max s.cfg.graceTolerance s.cfg.syncStride else 0
  started : burstStarts from_ to_ →
    t.tko.burst = if announcingZones s.zones = [] ∨ s.cfg.announceCount ≤ 1 then .idle
      else .running (s.cfg.announceCount - 1) (.running s.cfg.announceSpacing)
  goesOn : ¬ burstStarts from_ to_ → to_.isActive = true → t.tko.burst = s.tko.burst
  ended : to_.isActive = false → t.tko.burst = .idle

/-- The part enters the standby roles from outside them (R48, R105). -/
abbrev entersStandby (from_ to_ : Role) : Prop := from_.isStandby = false ∧ to_.isStandby = true

/-- The table after a role change, when its stores are in canonical order: the sessions stand with their keys, their trackers
and their slots. An entry to the standby roles takes each LIVE session's mirrored group and release_seq (R48); a close of the
stream leaves nothing pending, takes the release_seq of each session whose frame was held, and frees what was RETIRED, in
ascending order (R39, R76, R81, R86). -/
structure TblChanged (from_ to_ : Role) (s t : State) : Prop where
  slots : t.tbl.slots = s.tbl.slots
  digest : t.tbl.liveCount = s.tbl.liveCount ∧ t.tbl.digestSum = s.tbl.digestSum
  free : freeHandles t.tbl.free = freeHandles s.tbl.free ++ (if streamStays to_ s then [] else s.tbl.retiredHandles)
  record : ∀ h, recordOf t h =
    let r := recordOf s h
    let live := r.handleState = .live
    let held := ∃ e ∈ s.hold, e.handle = h ∧ e.epoch = r.epoch
    if ¬ streamStays to_ s ∧ r.handleState = .retired then { Record.fresh with epoch := r.epoch }
    else { r with
      pending := if streamStays to_ s then r.pending else .none
      body := { r.body with
        mirrored := if live ∧ entersStandby from_ to_ then none else r.body.mirrored
        releaseSeq := if live ∧ (entersStandby from_ to_ ∨ (¬ streamStays to_ s ∧ held)) then none else r.body.releaseSeq } }

/-! What a role change hands over and reports. -/

/-- An error record after errors that were filed in it one after another at the clock of s (R176). -/
def loggedAfter (s : State) (r : ErrRecord) (es : List (ErrCode × ErrInfo)) : ErrRecord :=
  es.foldl (fun r e => r.report e.1 e.2 s.tim.seconds s.tim.ms) r

/-- The held frames that the close of a role change releases: the new role is an active one (R81). -/
def heldReleased (to_ : Role) (s : State) : List HoldEntry :=
  if streamStays to_ s ∨ to_.isActive = false then [] else s.hold

/-- The held frames that the close of a role change discards: the new role is not an active one (R81). -/
def heldDropped (to_ : Role) (s : State) : List HoldEntry :=
  if streamStays to_ s ∨ to_.isActive = true then [] else s.hold

/-- The first round of the burst that a role change starts: an announcement of each announcing zone, ascending (R148, R150). -/
def firstRound (from_ to_ : Role) (s : State) : List Frame :=
  if burstStarts from_ to_ then (announcingZones s.zones).map (announcement s.cfg) else []

/-- The frames that a role change hands to the W-port before its hello, in this order (R139; log entry 5). -/
def toWPort (from_ to_ : Role) (s : State) : List Frame := (heldReleased to_ s).map HoldEntry.frame ++ firstRound from_ to_ s

/-- The hello that a role change hands to a path: none in DETACHED, and none to the tunnel while tunnel_enable is off (R10,
R122). Its content is that of the state t which the change leads to. -/
def helloOn (path : PathId) (to_ : Role) (t : State) : List Frame :=
  if to_ = .detached ∨ (path = .secondary ∧ t.cfg.tunnelEnable = false) then []
  else [mirrorFrame path (helloBytes (buildHello t)) t]

/-- The LOSS errors that a role change files: HLD3 with the handle of the first frame discarded, but for DETACHED (R81), and
TKO1 at an entry to TAKEOVER from STANDBY_SYNC, with the governing path, if one is UP, and expected_seq (R145). -/
def lossErrors (from_ to_ : Role) (s : State) : List (ErrCode × ErrInfo) :=
  (match heldDropped to_ s with
    | [] => []
    | e :: _ => if to_ = .detached then [] else [(.hld3, ErrInfo.ofHandle e.handle)]) ++
  (if to_ = .takeover ∧ from_ = .standbySync then
    [(.tko1, { handle := none, place := if s.pai.primary.up then some 3 else if s.pai.secondary.up then some 4 else none,
               seq := some s.shd.expectedSeq.toNat, gen := none })]
   else [])

/-- The frames of a role change that find no room: those for the W-port before its hello, and its hello on each path (R2). -/
def wPortDrops (from_ to_ : Role) (s : State) : List Frame := (toWPort from_ to_ s).drop (128 - s.prt.wQueue.length)

/-- The hello for the S-port that finds no room. -/
def sPortDrops (to_ : Role) (s t : State) : List Frame := (helloOn .primary to_ t).drop (80 - s.prt.sQueue.length)

/-- The hello for the tunnel that finds no room behind the other frames for the W-port. -/
def tunnelDrops (from_ to_ : Role) (s t : State) : List Frame :=
  (helloOn .secondary to_ t).drop (128 - s.prt.wQueue.length - (toWPort from_ to_ s).length)

/-- The NOTE errors that a role change files: TKO2 with the rounds left of a burst that it ends (R150), and PRT1 with the port
for each frame that a full queue drops (R2); their order is log entry 5's. -/
def noteErrors (from_ to_ : Role) (s t : State) : List (ErrCode × ErrInfo) :=
  (match s.tko.burst with
    | .idle => []
    | .running n _ => if to_.isActive = true ∨ n = 0 then [] else [(.tko2, ErrInfo.ofSeq n)]) ++
  (wPortDrops from_ to_ s).map (fun _ => (.prt1, ErrInfo.ofPlace 2)) ++
  (sPortDrops to_ s t).map (fun _ => (.prt1, ErrInfo.ofPlace 3)) ++
  (tunnelDrops from_ to_ s t).map (fun _ => (.prt1, ErrInfo.ofPlace 2))

/-- How much a role change adds to each counter (R2, R10, R23, R81, R143, R145, R149). -/
def roleCounts (from_ to_ : Role) (s t : State) (c : Ctr) : Nat :=
  match c with
  | .wTxDrop => (wPortDrops from_ to_ s).length + (tunnelDrops from_ to_ s t).length
  | .sTxDrop => (sPortDrops to_ s t).length
  | .hitFwd | .holdRelFlush => (heldReleased to_ s).length
  | .holdDropRole => (heldDropped to_ s).length
  | .tkoEnter => if to_ = .takeover then 1 else 0
  | .tkoPartial => if to_ = .takeover ∧ from_ = .standbySync then 1 else 0
  | .announceSent => (firstRound from_ to_ s).length
  | _ => 0

/-- What a role change does to the whole part (R139): the order in which its errors are filed and its frames handed over is
the model's choice where the rules leave it open (log entry 5). -/
structure RoleChanged (from_ to_ : Role) (cause : Cause) (s t : State) : Prop where
  blocks : Touches roleBlocks s t
  pai    : t.pai = paiAfter from_ to_ cause s
  shd    : t.shd = shdAfter from_ to_ s
  tim    : t.tim = { s.tim with patrolDue := s.tim.patrolDue && to_.isActive }
  stays  : streamStays to_ s → t.mir = s.mir ∧ t.hold = s.hold
  closes : ¬ streamStays to_ s → t.mir = mirClosed s.mir ∧ t.hold = []
  tko    : TkoChanged from_ to_ s t
  tbl    : sparseSorted s.tbl.records = true → TblChanged from_ to_ s t
  prt    : t.prt = { s.prt with
    wQueue := s.prt.wQueue ++ (toWPort from_ to_ s ++ helloOn .secondary to_ t).take (128 - s.prt.wQueue.length)
    sQueue := s.prt.sQueue ++ (helloOn .primary to_ t).take (80 - s.prt.sQueue.length) }
  flags  : t.flt.flags = s.flt.flags ||| Flag.role.bitmap |||
    (if to_ = .detached ∧ (s.pai.primary.up = true ∨ s.pai.secondary.up = true) then Flag.path.bitmap ||| Flag.peer.bitmap
      else 0#9) |||
    (if noteErrors from_ to_ s t = [] then 0#9 else Flag.errNote.bitmap) |||
    (if lossErrors from_ to_ s = [] then 0#9 else Flag.errLoss.bitmap)
  note   : t.flt.logNote = loggedAfter s s.flt.logNote (noteErrors from_ to_ s t)
  loss   : t.flt.logLoss = loggedAfter s s.flt.logLoss (lossErrors from_ to_ s)
  rest   : t.flt = { s.flt with
    logNote := t.flt.logNote, logLoss := t.flt.logLoss, flags := t.flt.flags, counters := t.flt.counters
    keepalive := if to_ = .detached ∨ to_ = .faulted then .stopped else s.flt.keepalive }
  counts : ∀ c, counter t c = satAdd32 (counter s c) (roleCounts from_ to_ s t c)

/-! ## Lookups that meet no parity failure (R31, R44, R45) -/

/-- Every occupied slot that a lookup of a key reads has both its parities good. -/
def slotsIntact (s : State) (k : Key) : Prop :=
  ∀ pos ∈ keyPositions s.cfg.hashSeed k, ∀ sl, s.tbl.slot pos = some sl → sl.keyGood = true ∧ sl.refGood = true

/-- A record has both its parities good. -/
def recordIntact (s : State) (h : Nat) : Prop := (recordOf s h).anchorGood = true ∧ (recordOf s h).bodyGood = true

/-- A lookup of a key reads nothing damaged and finds a session: its handle and direction (R31). -/
def Finds (s : State) (k : Key) (h : Nat) (d : Dir) : Prop :=
  slotsIntact s k ∧ recordIntact s h ∧ ∃ sl, s.tbl.findKey s.cfg.hashSeed k = some sl ∧ sl.handle = h ∧ sl.dir = d

/-- A lookup of a key reads nothing damaged and finds no session (R31). -/
def Misses (s : State) (k : Key) : Prop := slotsIntact s k ∧ s.tbl.findKey s.cfg.hashSeed k = none

/-! ## Frames that arrive -/

/-- A frame passes the receive check and is g without its FCS (R1). -/
def Passes (f : RxFrame) (g : Frame) : Prop :=
  f.fcsGood = true ∧ 64 ≤ f.bytes.length ∧ f.bytes.length ≤ 1522 ∧ g = f.bytes.take (f.bytes.length - 4)

/-- An S-port frame that passes is a mirror frame with the message p behind its EtherType (R9). -/
def BringsMirror (s : State) (f : RxFrame) (p : List Byte) : Prop :=
  ∃ g, Passes f g ∧ word16At g 12 ≠ 0x8100#16 ∧ word16At g 12 = s.cfg.mirrorEthertype ∧ p = g.drop 14

/-- A W-port frame passes and is VIRTUAL, and the gate is open (R7, R11). -/
def Enters (s : State) (f : RxFrame) (g : Frame) : Prop :=
  Passes f g ∧ s.pai.role.isActive = true ∧ classW s g = .virtual

/-- A VIRTUAL frame that the gate admits finds a session by its key: its zone, the session's handle and the direction (R15). -/
def Reaches (s : State) (f : RxFrame) (g : Frame) (z h : Nat) (d : Dir) : Prop :=
  Enters s f g ∧ ∃ k, parseFrame s.zones (headerOf s g) g = .keyed z k ∧ Finds s k h d

/-- It is a hit that goes to the tracker: no frame of the session is held (R78). -/
def Hits (s : State) (f : RxFrame) (g : Frame) (z h : Nat) (d : Dir) : Prop :=
  Reaches s f g z h d ∧ ∀ e ∈ s.hold, e.handle ≠ h

/-- A mirror frame with the message p arrives by a command on a path: on the S-port, or tunnelled on the W-port (R7, R9). -/
def Arrives (path : PathId) (s : State) (c : Instr) (p : List Byte) : Prop :=
  match path with
  | .primary => ∃ f, c = .sPortFrameReceive f ∧ BringsMirror s f p
  | .secondary => ∃ f g, c = .wPortFrameReceive f ∧ Passes f g ∧ classW s g = .tunnelMirror ∧ p = g.drop (headerOf s g).off

/-- The state in which a mirror frame that came by a path reaches its consumer: its port has counted it (R1, R9). -/
def arrived (path : PathId) (s : State) : State := bump (match path with | .primary => .sRx | .secondary => .wRx) s

/-! ## Marks (R71, R87) -/

/-- An accepted frame that changes a record's body from b to b' meets a criterion of R71 against the mirrored group m: a touch
interval has passed, or, for TCP, the state, a direction's seeding, edge or scale has changed, or an edge has moved by more
than the stride. -/
def updateMeets (s : State) (m : Mirrored) (b b' : Body) : Prop :=
  s.cfg.touchInterval ≤ (b'.lastSeen - m.seen).toNat ∨
  (b'.state ≠ .flow ∧
    (b.state ≠ b'.state ∨
     (∃ d : Dir, (b.dir d).seeded ≠ (b'.dir d).seeded ∨ (b.dir d).edgeValid ≠ (b'.dir d).edgeValid ∨
       (b.dir d).scaleOffered ≠ (b'.dir d).scaleOffered ∨ (b.dir d).wscale ≠ (b'.dir d).wscale) ∨
     s.cfg.syncStride < (b'.dirOrig.hiSeq - m.hiSeqOrig).toNat ∨ s.cfg.syncStride < (b'.dirOrig.rightEdge - m.rightOrig).toNat ∨
     s.cfg.syncStride < (b'.dirReply.hiSeq - m.hiSeqReply).toNat ∨
     s.cfg.syncStride < (b'.dirReply.rightEdge - m.rightReply).toNat))

/-- A handle marked UPDATE: one with nothing pending joins the tail of the dirty list, any other is left (R87). -/
def markedUpdate (h : Nat) (s : State) : State :=
  if (recordOf s h).pending = .none then
    setRecord h { recordOf s h with pending := .update } { s with mir := { s.mir with dirty := s.mir.dirty ++ [h] } }
  else s

/-! ## A removal (R37, R38) -/

/-- A removed handle becomes FREE: no stream is open, or its CREATE is still pending with no group present (R38). -/
abbrev fateFree (s : State) (h : Nat) (group : Bool) : Prop :=
  s.mir.stream = .closed ∨ ((recordOf s h).pending = .create ∧ group = false)

/-- What the removal of a LIVE handle does; `group` says whether its mirrored group counts as present. -/
structure Removed (h : Nat) (reason : RemovalReason) (group : Bool) (s t : State) : Prop where
  blocks : Touches [.tbl, .hold, .mir, .flt] s t
  slots  : ∀ q, t.tbl.slot q =
    if q = (recordOf s h).slotOrig ∨ q = (recordOf s h).slotReply then none else s.tbl.slot q
  record : recordOf t h =
    if fateFree s h group then { Record.fresh with epoch := (recordOf s h).epoch }
    else { Record.fresh with
      handleState := .retired, epoch := (recordOf s h).epoch, pending := .remove, removalReason := some reason }
  others : ∀ k, k ≠ h → recordOf t k = recordOf s k
  free   : freeHandles t.tbl.free = if fateFree s h group then freeHandles s.tbl.free ++ [h] else freeHandles s.tbl.free
  digest : t.tbl.liveCount = s.tbl.liveCount - 1 ∧
    t.tbl.digestSum = s.tbl.digestSum - BitVec.ofNat 32 (h * 65536 + (recordOf s h).epoch.toNat)
  hold   : t.hold = s.hold.filter fun e => e.handle != h
  dirty  : t.mir.dirty =
    if fateFree s h group then s.mir.dirty.filter (fun k => k != h)
    else if (recordOf s h).pending = .none then s.mir.dirty ++ [h]
    else s.mir.dirty
  mir    : t.mir = { s.mir with dirty := t.mir.dirty }
  count  : counter t (removalCounter reason) = satAdd32 (counter s (removalCounter reason)) 1
  held   : counter t .holdDropRemoved =
    if s.hold.any (fun e => e.handle == h) then satAdd32 (counter s .holdDropRemoved) 1 else counter s .holdDropRemoved
  flt    : t.flt = { s.flt with counters := t.flt.counters }
  counts : ∀ c, c.pos ≠ (removalCounter reason).pos → c.pos ≠ Ctr.holdDropRemoved.pos → counter t c = counter s c

/-! ## A patrol step (R160, R161) -/

/-- The handles that the next patrol step visits, in order. -/
def patrolled (s : State) : List Nat := (List.range s.cfg.patrolRate).map fun i => (s.tim.cursor + i) % 32768

/-- The state u that the visits of a patrol step of s led to, behind the step: the cursor is past the handles visited, and a
sweep is counted when it passes 32,767. -/
def patrolBehind (s u : State) : State :=
  let v := { u with tim := { u.tim with cursor := (s.tim.cursor + s.cfg.patrolRate) % 32768, patrolDue := false } }
  if 32768 ≤ s.tim.cursor + s.cfg.patrolRate then bump .patrolSweep v else v

/-- A session's age has reached the timeout of its class; a FLOW session without one is of class 4 (log entry 41). -/
def isOld (s : State) (h : Nat) : Prop :=
  let b := (recordOf s h).body
  timeoutAt s (match b.state with
    | .none | .new | .halfOpen => 0
    | .opened => 1
    | .drainOne | .drainBoth => 2
    | .linger => 3
    | .flow => b.flowClass.getD 4) ≤ (s.tim.seconds - b.lastSeen).toNat

/-- A visit to a handle finds nothing damaged: neither the record, nor for a LIVE one the two slots that it names. -/
def visitIntact (s : State) (h : Nat) : Prop :=
  recordIntact s h ∧ ((recordOf s h).handleState = .live → ∀ sl,
    s.tbl.slot (recordOf s h).slotOrig = some sl ∨ s.tbl.slot (recordOf s h).slotReply = some sl →
      sl.keyGood = true ∧ sl.refGood = true)

/-- The visits to some handles, of which none finds anything damaged, lead from s to t: each LIVE record that is old at its
visit is removed with reason EXPIRED, and nothing else changes. -/
def Ages : List Nat → State → State → Prop
  | [], s, t => t = s
  | h :: hs, s, t => ∃ u,
    ((recordOf s h).handleState = .live ∧ isOld s h → Removed h .expired (recordOf s h).body.mirrored.isSome s u) ∧
    (¬ ((recordOf s h).handleState = .live ∧ isOld s h) → u = s) ∧ Ages hs u t

/-! ## An install (R35, R55) -/

/-- The body of a session made by an INSTALL that encloses no frame: OPEN for TCP, FLOW for every other protocol, the class as
given or by the protocol (R35, R55). -/
def installedBody (i : Install) (s : State) : Body :=
  { Body.cleared with
    state := if i.origKey.proto = 6#8 then .opened else .flow
    origKey := i.origKey, replyKey := i.replyKey, nextHopOrig := i.nextHopOrig, nextHopReply := i.nextHopReply
    flowClass := if i.origKey.proto = 6#8 then none
      else if i.flowClass ≠ 0 then some i.flowClass
      else if i.origKey.proto = 17#8 then some 4 else if i.origKey.proto = 1#8 then some 5 else some 6
    lastSeen := s.tim.seconds, gen := s.pai.pairGen }

/-- The session of handle h made with the body b, its keys placed at p and q in the table t': the handle is LIVE with the next
epoch, the digest has its term, INSTALL_OK and STASH_INSERT have risen, and with the stream OPEN it is marked CREATE (R35). -/
def sessionMade (h p q : Nat) (t' : Tbl) (b : Body) (s : State) : State :=
  let epoch := (recordOf s h).epoch + 1#16
  bump .installOk (bumpBy .stashInsert ((if 65536 ≤ p then 1 else 0) + (if 65536 ≤ q then 1 else 0))
    { s with
      tbl := { t' with
        records := putRecord s.tbl.records h
          { handleState := .live, epoch := epoch, pending := if s.mir.stream = .closed then .none else .create
            removalReason := none, slotOrig := p, slotReply := q, anchorGood := true, bodyGood := true, body := b }
        free := freePop s.tbl.free, liveCount := s.tbl.liveCount + 1
        digestSum := s.tbl.digestSum + BitVec.ofNat 32 (h * 65536 + epoch.toNat) }
      mir := { s.mir with dirty := if s.mir.stream = .closed then s.mir.dirty else s.mir.dirty ++ [h] } })

/-- The scale that the options of a SYN offer a direction, and the errors their reading files (R53, R54). -/
def scaleOffer (g : Segment) : (Bool × BitVec 4) × List ErrCode :=
  match readOptions g with
  | .malformed => ((false, 0#4), [.trk1])
  | .scale none => ((false, 0#4), [])
  | .scale (some v) => if 14 < v.toNat then ((true, 14#4), [.trk2]) else ((true, v.setWidth 4), [])

/-! ## Deltas placed, and a frame closed (R70, R89 to R93) -/

/-- The mirrored group that a delta built from a body leaves (R70). -/
def groupOf (b : Body) : Mirrored :=
  { hiSeqOrig := b.dirOrig.hiSeq, rightOrig := b.dirOrig.rightEdge, hiSeqReply := b.dirReply.hiSeq,
    rightReply := b.dirReply.rightEdge, seen := b.lastSeen }

/-- A frame begun with nothing in it (R92). -/
def emptyFrame (s : State) : OpenFrame :=
  { deltas := [], removes := [], creates := []
    timer := if s.cfg.coalesceTime = 0 then .stopped else .running s.cfg.coalesceTime }

/-- The size of the live delta of a pending kind (5.4). -/
def liveSize : Pending → Nat
  | .create => 96 | .update => 48 | .remove => 8 | .none => 0

/-- The live delta of a pending handle placed in a frame: the handle leaves the dirty list with nothing pending, a CREATE or
UPDATE leaves its mirrored group, and a BULK_RECORD is next (R70, R89, R90). -/
def placedLive (h : Nat) (fr : OpenFrame) (s : State) : State :=
  let r := recordOf s h
  let built := fun (r' : Record) (fr' : OpenFrame) => setRecord h r' { s with mir := { s.mir with
    dirty := s.mir.dirty.filter fun k => k != h
    turn := .bulkNext
    openFrame := some fr' } }
  match r.pending with
  | .create => built { r with pending := .none, body := { r.body with mirrored := some (groupOf r.body) } }
      { fr with deltas := fr.deltas ++ createBytes 1#8 h r, creates := fr.creates ++ [(h, r.epoch)] }
  | .update => built { r with pending := .none, body := { r.body with mirrored := some (groupOf r.body) } }
      { fr with deltas := fr.deltas ++ updateBytes 2#8 h r }
  | .remove => built { r with pending := .none } { fr with deltas := fr.deltas ++ removeBytes h r, removes := fr.removes ++ [h] }
  | .none => s

/-- The BULK_RECORD of a LIVE handle placed in a frame: the cursor passes it, and a live delta is next (R70, R90). -/
def placedBulk (h : Nat) (fr : OpenFrame) (s : State) : State :=
  let r := recordOf s h
  setRecord h { r with body := { r.body with mirrored := some (groupOf r.body) } } { s with mir := { s.mir with
    cursor := h + 1
    turn := .liveFirst
    walk := if h + 1 < 32768 then s.mir.walk else .ending
    openFrame := some { fr with deltas := fr.deltas ++ createBytes 5#8 h r } } }

/-- The frame fr, open in s, closes (R75, R92, R96): it takes the next sequence and the pair generation, joins the replay
queue, gives the sequence to each hold entry that awaits one of its CREATEs and has none yet, and to that entry's session, and
goes out on the data path when there is one. -/
def Closes (fr : OpenFrame) (s t : State) : Prop :=
  let seq := s.mir.nextSeq
  let d : DataFrame := { gen := s.pai.pairGen, seq := seq, deltas := fr.deltas, removes := fr.removes, creates := fr.creates }
  let bytes := [2#8, 0#8] ++ nat16 fr.deltas.length ++ bytes32 s.pai.pairGen ++ bytes16 seq ++ zeros 2 ++ fr.deltas
  let takes := fun (e : HoldEntry) => (e.handle, e.epoch) ∈ fr.creates ∧ e.releaseSeq = none
  ∃ u, u = { s with
      mir := { s.mir with
        openFrame := none
        nextSeq := seq + 1#16
        sinceCheckpoint := min (s.mir.sinceCheckpoint + 1) 4096
        replay := s.mir.replay ++ [d]
        replayTimer := if s.mir.replay = [] then .running s.cfg.replayTimeout else s.mir.replayTimer }
      hold := s.hold.map fun e => if takes e then { e with releaseSeq := some seq } else e
      tbl := { s.tbl with records := u.tbl.records } } ∧
    (∀ h, recordOf u h =
      if (recordOf s h).handleState = .live ∧ ∃ e ∈ s.hold, e.handle = h ∧ e.epoch = (recordOf s h).epoch ∧ takes e
      then { recordOf s h with body := { (recordOf s h).body with releaseSeq := some seq } } else recordOf s h) ∧
    (s.mir.dataPath = none → t = u) ∧
    (s.mir.dataPath = some .primary → t = bump .dataSent (handToPort .s (mirrorFrame .primary bytes s) u)) ∧
    (s.mir.dataPath = some .secondary → s.cfg.tunnelEnable = true →
      t = bump .dataSent (handToPort .w (mirrorFrame .secondary bytes s) u))

/-! ## Frames sent again (R95, R97, R98) -/

/-- A path has room for every outstanding frame. -/
def roomAgain (path : Option PathId) (s : State) : Prop :=
  match path with
  | none => True
  | some .primary => s.prt.sQueue.length + s.mir.replay.length ≤ 80
  | some .secondary => s.cfg.tunnelEnable = true ∧ s.prt.wQueue.length + s.mir.replay.length ≤ 128

/-- Every outstanding frame is handed again, in order, to a path that has room for them, and counted; with no path nothing is
sent. -/
def handedAgain (path : Option PathId) (s : State) : State :=
  let again := fun (p : PathId) => s.mir.replay.map fun d =>
    mirrorFrame p ([2#8, 0#8] ++ nat16 d.deltas.length ++ bytes32 d.gen ++ bytes16 d.seq ++ zeros 2 ++ d.deltas) s
  match path with
  | none => s
  | some .primary => bumpBy .dataResent s.mir.replay.length
      { s with prt := { s.prt with sQueue := s.prt.sQueue ++ again .primary } }
  | some .secondary => bumpBy .dataResent s.mir.replay.length
      { s with prt := { s.prt with wQueue := s.prt.wQueue ++ again .secondary } }

/-- A whole-queue retransmission on the data path: the replay count rises, the gap latch takes a value, and the replay timer
restarts (R95, R97). -/
def resent (latch : Option Word16) (s : State) : State :=
  { handedAgain s.mir.dataPath s with mir := { s.mir with
      replayCount := s.mir.replayCount + 1, gapLatch := latch, replayTimer := .running s.cfg.replayTimeout } }

/-- The path that R98's rule chooses for the OPEN stream under the suspensions of a transmitter. -/
def pathChosen (s : State) (m : Mir) : Option PathId :=
  if s.pai.primary.up = true ∧ m.suspendedPrimary = false then some .primary
  else if s.cfg.tunnelEnable = true ∧ s.pai.secondary.up = true ∧ m.suspendedSecondary = false then some .secondary
  else none

/-! ## A stream begun (R80, R85) -/

/-- The path of a stream that begins: both suspensions have ended (R85, R98). -/
def pathBegun (s : State) : Option PathId :=
  pathChosen s { s.mir with suspendedPrimary := false, suspendedSecondary := false }

/-- An opening, or a restart of an OPEN stream, with the generation gen. -/
structure StreamBegun (gen : Word32) (s t : State) : Prop where
  blocks : Touches [.prt, .tbl, .hold, .mir, .pai, .flt] s t
  mir    : t.mir =
    { stream := .opened, nextSeq := 0#16, dirty := [], walk := .walking, cursor := 0, turn := .liveFirst
      openFrame := some
        { deltas := [4#8, 0#8, 0#8, 0#8] ++ nat32 s.tbl.liveCount ++ zeros 4, removes := [], creates := []
          timer := if s.cfg.coalesceTime = 0 then .stopped else .running s.cfg.coalesceTime }
      sinceCheckpoint := 0, replay := [], replayCount := 0, replayTimer := .stopped, gapLatch := none
      dataPath := pathBegun s, suspendedPrimary := false, suspendedSecondary := false, revertElapsed := 0
      fcsCount := s.mir.fcsCount }
  pai    : t.pai = { s.pai with pairGen := gen }
  hold   : t.hold = []
  slots  : t.tbl.slots = s.tbl.slots ∧ t.tbl.liveCount = s.tbl.liveCount ∧ t.tbl.digestSum = s.tbl.digestSum
  free   : sparseSorted s.tbl.records = true → freeHandles t.tbl.free = freeHandles s.tbl.free ++ s.tbl.retiredHandles
  live   : sparseSorted s.tbl.records = true → ∀ h, (recordOf s h).handleState = .live →
    recordOf t h = { recordOf s h with
      pending := .none
      body := { (recordOf s h).body with
        mirrored := none
        releaseSeq := if ∃ e ∈ s.hold, e.handle = h ∧ e.epoch = (recordOf s h).epoch then none
          else (recordOf s h).body.releaseSeq } }
  retired : sparseSorted s.tbl.records = true → ∀ h, (recordOf s h).handleState = .retired →
    recordOf t h = { Record.fresh with epoch := (recordOf s h).epoch }
  queues : t.prt = { s.prt with wQueue := t.prt.wQueue }
  count  : counter t .streamStart = satAdd32 (counter s .streamStart) 1
  counts : ∀ c, (∀ d ∈ [Ctr.wTxDrop, .hitFwd, .holdRelFlush, .streamStart], c.pos ≠ d.pos) → counter t c = counter s c
  bulk   : t.flt.flags.getLsbD Flag.bulk.bit = true
  path   : t.flt.flags.getLsbD Flag.path.bit =
    (s.flt.flags.getLsbD Flag.path.bit || decide (s.mir.stream = .opened ∧ s.mir.dataPath ≠ pathBegun s))
  logs   : t.flt.logDegraded = s.flt.logDegraded ∧ t.flt.logLoss = s.flt.logLoss ∧ t.flt.logFault = s.flt.logFault
  released : s.prt.wQueue.length + s.hold.length ≤ 128 →
    t.prt.wQueue = s.prt.wQueue ++ s.hold.map HoldEntry.frame ∧
    counter t .holdRelFlush = satAdd32 (counter s .holdRelFlush) s.hold.length ∧
    counter t .hitFwd = satAdd32 (counter s .hitFwd) s.hold.length ∧
    t.flt.logNote = match s.hold with
      | [] => s.flt.logNote
      | e :: _ => s.flt.logNote.report .hld4 (ErrInfo.ofHandle e.handle) s.tim.seconds s.tim.ms

/-- The replay limit is reached in s (R97, steps 3 and 4): MIR2 with the data path, which becomes suspended, and the replay
count is 0 again. A path chosen anew takes the outstanding frames; without one MIR3 is logged with the path of the restart, and
the stream restarts with the next generation. -/
def LimitReached (s t : State) : Prop :=
  let named := fun (path : Option PathId) =>
    ({ handle := none, place := path.map fun p => match p with | .primary => 3 | .secondary => 4, seq := none, gen := none }
      : ErrInfo)
  let m := match s.mir.dataPath with
    | none => s.mir
    | some .primary => { s.mir with suspendedPrimary := true, revertElapsed := 0 }
    | some .secondary => { s.mir with suspendedSecondary := true }
  let next := pathChosen s m
  let filed := report .mir2 (named s.mir.dataPath) s
  (next ≠ none → roomAgain next s → t = raise .path { handedAgain next filed with mir := { m with
    dataPath := next, replayCount := 0, gapLatch := none, replayTimer := .running s.cfg.replayTimeout } }) ∧
  (next = none → StreamBegun (s.pai.pairGen + 1#32) (report .mir3 (named (pathBegun s))
    { (if s.mir.dataPath = none then filed else raise .path filed) with mir := { s.mir with dataPath := none } }) t)

/-! ## A stream closed (R39, R81, R86) -/

/-- What a close of the OPEN stream does when the part has the role `role` at the close: nothing waits for the peer any more,
every RETIRED handle becomes FREE in ascending order, and the held frames are released to the W-port in an active role and
discarded in another, with HLD3 but for DETACHED. -/
structure StreamClosed (role : Role) (s t : State) : Prop where
  blocks   : Touches streamBlocks s t
  mir      : t.mir = mirClosed s.mir
  hold     : t.hold = []
  slots    : t.tbl.slots = s.tbl.slots ∧ t.tbl.liveCount = s.tbl.liveCount ∧ t.tbl.digestSum = s.tbl.digestSum
  free     : sparseSorted s.tbl.records = true → freeHandles t.tbl.free = freeHandles s.tbl.free ++ s.tbl.retiredHandles
  records  : sparseSorted s.tbl.records = true → ∀ h, recordOf t h =
    if (recordOf s h).handleState = .retired then { Record.fresh with epoch := (recordOf s h).epoch }
    else { recordOf s h with pending := .none, body := { (recordOf s h).body with
      releaseSeq := if (recordOf s h).handleState = .live ∧
          (∃ e ∈ s.hold, e.handle = h ∧ e.epoch = (recordOf s h).epoch)
        then none else (recordOf s h).body.releaseSeq } }
  released : role.isActive = true → s.prt.wQueue.length + s.hold.length ≤ 128 →
    t.prt = { s.prt with wQueue := s.prt.wQueue ++ s.hold.map HoldEntry.frame } ∧
    t.flt = { s.flt with counters := t.flt.counters } ∧
    counter t .holdRelFlush = satAdd32 (counter s .holdRelFlush) s.hold.length ∧
    counter t .hitFwd = satAdd32 (counter s .hitFwd) s.hold.length
  dropped  : role.isActive = false → t.prt = s.prt ∧
    counter t .holdDropRole = satAdd32 (counter s .holdDropRole) s.hold.length ∧
    (s.hold = [] ∨ role = .detached → t.flt = { s.flt with counters := t.flt.counters }) ∧
    (∀ e es, s.hold = e :: es → role ≠ .detached →
      t.flt.logLoss = s.flt.logLoss.report .hld3 (ErrInfo.ofHandle e.handle) s.tim.seconds s.tim.ms ∧
      t.flt.flags = s.flt.flags ||| Flag.errLoss.bitmap)
  counts   : ∀ c, (∀ d ∈ [Ctr.wTxDrop, .hitFwd, .holdRelFlush, .holdDropRole], c.pos ≠ d.pos) → counter t c = counter s c

/-! ## A COMPATIBLE hello (R10, R100, R126, R127) -/

/-- What a COMPATIBLE hello on a path does before the stream and the role act on it: the path comes UP with its dead timer
restarted, its judgment and its latch set; the generations it shows and its station MAC are noted; `peer` is the peer record
it leaves. A path that was DOWN has the data path chosen anew, and the revert timer of a suspended primary starts again. -/
def helloNoted (path : PathId) (h : Hello) (peer : Option PeerRecord) (s : State) : State :=
  let up := { s with
    prt := { s.prt with peerMac := some h.stationMac }
    pai := ({ s.pai with peerGenSeen := laterGen (laterGen s.pai.peerGenSeen h.pairGen) h.adoptedGen }).setPath path
      { up := true, deadTimer := .running (s.cfg.helloInterval * s.cfg.deadMultiplier), judgment := .compatible, seen := true } }
  let u :=
    if (s.pai.path path).up = true then up
    else rechoose (raise .path { up with mir := { up.mir with
      revertElapsed := if path = .primary ∧ s.mir.suspendedPrimary = true then 0 else s.mir.revertElapsed } })
  { u with pai := { u.pai with peer := peer } }

/-- A COMPATIBLE hello taken: on the governing path, the primary while it is UP and else the secondary, it becomes the peer
record; PEER rises when the path's judgment, the peer's presence or its usability changes (R125, R127, R128). -/
def helloTaken (path : PathId) (h : Hello) (s : State) : State :=
  let noted := helloNoted path h
    (if path = .primary ∨ s.pai.primary.up = false then some { hello := h, path := path } else s.pai.peer) (arrived path s)
  { noted with flt := { noted.flt with flags :=
      if (s.pai.path path).judgment = .compatible ∧ peerPresent s = peerPresent noted ∧ peerUsable s = peerUsable noted
      then noted.flt.flags else noted.flt.flags ||| Flag.peer.bitmap } }

/-! ## Deltas applied in order (R109) -/

/-- A malformed delta: SHD4 with the generation and the sequence of the frame, and BULK_WANTED becomes set (R109, R116). -/
def malformedLeaves (id : FrameId) (s : State) : State :=
  setBulkWanted (report .shd4 { handle := none, place := none, seq := some id.seq.toNat, gen := some id.gen } s)

/-- The deltas of a frame, applied one after another from s to t: `first` says that the next one is the frame's first. The
rest of a frame is not applied after a malformed delta, or when a delta took the part out of the standby roles. -/
inductive Applied (id : FrameId) : Bool → List Byte → State → State → Prop
  | done {first : Bool} {s : State} : Applied id first [] s s
  | next {first : Bool} {bs rest : List Byte} {d : Delta} {s u t : State} : readDelta bs = some (d, rest) →
      applyDelta id first d s = some u → u.pai.role.isStandby = true → Applied id false rest u t → Applied id first bs s t
  | left {first : Bool} {bs rest : List Byte} {d : Delta} {s u : State} : readDelta bs = some (d, rest) →
      applyDelta id first d s = some u → u.pai.role.isStandby = false → Applied id first bs s u
  | unread {first : Bool} {bs : List Byte} {s : State} : bs ≠ [] → readDelta bs = none →
      Applied id first bs s (malformedLeaves id s)
  | unfit {first : Bool} {bs rest : List Byte} {d : Delta} {s : State} : readDelta bs = some (d, rest) →
      applyDelta id first d s = none → Applied id first bs s (malformedLeaves id s)

/-! ## Resets -/

/-- A reset's effect on the wire (R3): what each port last sent stands, or is its head frame cut short with an invalid FCS. -/
def CutShort (s t : State) : Prop :=
  ∀ port : Port, t.prt.sent port = s.prt.sent port ∨
    ∃ f rest n, s.prt.queue port = f :: rest ∧
      t.prt.sent port = some { bytes := (f ++ zeros (60 - f.length)).take n, fcsGood := false }

end Sys2Proof.Safety
end

