-- ==== Sys2Proof/Certificates/Slice0/Obligations.lean ====
section
/-! DEFINITION. The statements about the part, each with the rule or the section of spec/ that it rests on. -/

open Sys2Proof Sys2Proof.Machine Sys2Proof.Safety

/-! ## The whole machine -/

/-- The step takes the command at the front of the queue and runs it with the queue's rest. -/
def Obligations.StepTakesFrontCommand : Prop :=
  ∀ (c : Instr) (rest : List Instr) (s : State), s.pending = c :: rest → step s = exec c { s with pending := rest }

/-- R153 to R155, R160. While the clock is HALTED no cycle counts, no tick comes and no expiry or patrol step is taken. While it
is RUNNING what the last tick made due is taken first, in an order that is the model's choice (log entry 47), and the clock
stands as it did. Then one idle cycle (log entry 3) adds the increment, and a carry out of 32 bits is a tick; CLOCK_TICK passes
the k cycles up to the next carry, the first after which the sum reaches 2^32. A tick advances the clock, reaches every running
timer, and in the active roles makes a patrol step due. That the revert timer keeps its count while it does not run is its
choice too (log entry 60). -/
def Obligations.TickAdvancesClockAndTimers : Prop :=
  ∀ s : State,
    let ticked := fun (u : State) (acc : Nat) => { u with
      tim := { u.tim with
        acc := BitVec.ofNat 32 acc
        ms := if 999 ≤ u.tim.ms then 0 else u.tim.ms + 1
        seconds := if 999 ≤ u.tim.ms then u.tim.seconds + 1#32 else u.tim.seconds
        patrolDue := decide (u.pai.role ∈ [.solo, .active, .takeover, .yielding]) }
      mir := { u.mir with
        openFrame := u.mir.openFrame.map fun fr => { fr with timer := fr.timer.tick }
        replayTimer := u.mir.replayTimer.tick
        revertElapsed :=
          if u.mir.suspendedPrimary = true ∧ u.pai.primary.up = true ∧ u.cfg.revertPeriod ≠ 0 then u.mir.revertElapsed + 1
          else u.mir.revertElapsed
        fcsCount := if 999 ≤ u.tim.ms then 0 else u.mir.fcsCount }
      hold := u.hold.map fun e => { e with timer := e.timer.tick }
      shd := { u.shd with ackTimer := u.shd.ackTimer.tick }
      pai := { u.pai with
        primary := { u.pai.primary with deadTimer := u.pai.primary.deadTimer.tick }
        secondary := { u.pai.secondary with deadTimer := u.pai.secondary.deadTimer.tick }
        listenTimer := u.pai.listenTimer.tick, drainTimer := u.pai.drainTimer.tick, helloTimer := u.pai.helloTimer.tick }
      tko := { u.tko with
        grace := u.tko.grace.tick
        burst := match u.tko.burst with
          | .idle => .idle
          | .running n w => .running n w.tick }
      flt := { u.flt with keepalive := u.flt.keepalive.tick, holdoff := u.flt.holdoff.tick } }
    (s.tim.running = false →
      (s.pending = [] → step s = .next s) ∧
      ∀ c ∈ [Instr.clockTick, .patrolStep, .holdTimeout] ++ expiryCommands, exec c s = .next s) ∧
    (s.tim.running = true → ∃ u, TickEnds s u ∧ Touches eventBlocks s u ∧
      ((∀ c ∈ [Instr.patrolStep, .holdTimeout] ++ expiryCommands, exec c s = .next s) → u = s) ∧
      (s.pending = [] →
        (s.tim.acc.toNat + s.tim.increment < 2 ^ 32 →
          step s = .next { u with tim := { u.tim with acc := s.tim.acc + BitVec.ofNat 32 s.tim.increment } }) ∧
        (2 ^ 32 ≤ s.tim.acc.toNat + s.tim.increment → step s = .next (ticked u (s.tim.acc.toNat + s.tim.increment)))) ∧
      (0 < s.tim.increment → ∃ k, 1 ≤ k ∧ s.tim.acc.toNat + (k - 1) * s.tim.increment < 2 ^ 32 ∧
        2 ^ 32 ≤ s.tim.acc.toNat + k * s.tim.increment ∧
        exec .clockTick s = .next (ticked u (s.tim.acc.toNat + k * s.tim.increment))))

/-- Every command leaves every block of the state but those that its rules name as it was. -/
def Obligations.CommandsTouchOnlyTheirBlocks : Prop :=
  ∀ (c : Instr) (s t : State), exec c s = .next t → Touches (blocksOf c) s t

/-- The state after power-on meets the laws of the table, of the keys and of what waits for the peer, and every bound and
exclusion. -/
def Obligations.ResetMeetsEveryLaw : Prop :=
  TableLaw State.reset.tbl ∧ SlotLaw State.reset.tbl ∧ KeyLaw State.reset ∧ QueueLaw State.reset ∧ Safe State.reset

/-- R24, R28, R43. Every step keeps the law of the handles and the digest: a handle is on the free list exactly when it is
FREE, none is there twice, and the live count and the digest sum are those of the LIVE handles. -/
def Obligations.StepKeepsTableLaw : Prop :=
  ∀ s t : State, TableLaw s.tbl → step s = .next t → TableLaw t.tbl

/-- R25, R29, R31, R37. Every step keeps the law of the key slots: an occupied slot names a LIVE handle whose record names that
slot, and the two slots of a LIVE record hold its two keys. With it every step keeps the law of the keys: a key stands only
where its lookup reads, no key stands in two slots, and in DETACHED there is none. -/
def Obligations.StepKeepsSlotLaw : Prop :=
  ∀ s t : State, TableLaw s.tbl → SlotLaw s.tbl → step s = .next t → SlotLaw t.tbl ∧ (KeyLaw s → KeyLaw t)

/-- R2, R38, R39, R73, R84, R86, R87, R93, R117, R118, R120, R134, R146, R150, R163, R179. Every step keeps every bound of the
queues and every exclusion between the role and what runs in it. With the table's laws it keeps the law of what waits for the
peer: the dirty list holds exactly the pending handles, a handle is RETIRED only while the stream is OPEN and its REMOVE waits
or is in flight, and the hold entries are those of distinct LIVE sessions. -/
def Obligations.StepKeepsSafe : Prop :=
  ∀ s t : State, Safe s → step s = .next t →
    Safe t ∧ (TableLaw s.tbl → SlotLaw s.tbl → QueueLaw s → QueueLaw t)

/-! ## Resets -/

/-- The values that the spec gives for power-on (R3, R4, R27, R30, R51, R73, R82, R83, R103, R104, R120, R121, R141, R142,
R152, R153, R159, R160, R177, R179, R181 to R185). The READY notice of power-on waits on the P-port and its holdoff runs.
That State.reset holds the READY notice, the running holdoff and no peer address is the model's reading (log entry 37). -/
def Obligations.ResetHoldsTheStatedValues : Prop :=
  State.reset.cfg =
    { mgmtEthertype := 0x88B5#16, mirrorEthertype := 0x88B6#16, defaultVlan := 1, syncVlan := 4094, stationMac := 0#48,
      stationId := 0, tunnelEnable := false, oowPolicy := .exception, hashSeed := 0#16, syncStride := 65536,
      touchInterval := 60, revertPeriod := 10, checkpointInterval := 256, helloInterval := 100, yieldDrainLimit := 500,
      announceSpacing := 100, graceTolerance := 262144, keepaliveWindow := 0, noticeHoldoff := 10,
      noticeMac := 0xFFFFFFFFFFFF#48, priority := 128, holdTimeout := 20, coalesceTime := 1, replayTimeout := 10,
      replayLimit := 4, fcsThreshold := 16, ackDelay := 1, deadMultiplier := 4, gracePeriod := 5, announceCount := 3,
      patrolRate := 8 } ∧
  (∀ i : Fin 8, State.reset.zones[i] = { enabled := false, announce := false, vlan := 1, mac := 0#48, ip := 0#32 }) ∧
  State.reset.timeouts = #v[30, 3600, 120, 10, 60, 30, 60, 300] ∧
  (State.reset.prt.pQueue = [noticeFrame State.reset] ∧ State.reset.prt.wQueue = [] ∧ State.reset.prt.sQueue = [] ∧
    State.reset.prt.peerMac = none) ∧
  ((∀ h, recordOf State.reset h = Record.fresh) ∧ (∀ p, State.reset.tbl.slot p = none) ∧
    freeHandles State.reset.tbl.free = List.range 32768 ∧ State.reset.tbl.liveCount = 0 ∧ State.reset.tbl.digestSum = 0#32) ∧
  State.reset.hold = [] ∧
  (State.reset.mir.stream = .closed ∧ State.reset.mir.dirty = [] ∧ State.reset.mir.walk = .idle ∧
    State.reset.mir.openFrame = none ∧ State.reset.mir.replay = [] ∧ State.reset.mir.dataPath = none ∧
    State.reset.mir.nextSeq = 0#16 ∧ State.reset.mir.cursor = 0 ∧ State.reset.mir.sinceCheckpoint = 0 ∧
    State.reset.mir.replayCount = 0 ∧ State.reset.mir.replayTimer = .stopped ∧ State.reset.mir.gapLatch = none ∧
    State.reset.mir.revertElapsed = 0 ∧
    State.reset.mir.suspendedPrimary = false ∧ State.reset.mir.suspendedSecondary = false ∧ State.reset.mir.fcsCount = 0) ∧
  (State.reset.shd.bound = false ∧ State.reset.shd.adoptedGen = 0#32 ∧ State.reset.shd.bulkWanted = false ∧
    State.reset.shd.expectedSeq = 0#16 ∧ State.reset.shd.unacked = 0 ∧ State.reset.shd.ackTimer = .stopped ∧
    State.reset.shd.ackPath = .primary ∧ State.reset.shd.bulkStart = 0 ∧
    State.reset.shd.refresh = [] ∧ State.reset.shd.lastCompare = none) ∧
  (State.reset.pai.role = .detached ∧ State.reset.pai.history = [] ∧ State.reset.pai.peer = none ∧
    State.reset.pai.primary = { up := false, deadTimer := .stopped, judgment := .none, seen := false } ∧
    State.reset.pai.secondary = { up := false, deadTimer := .stopped, judgment := .none, seen := false } ∧
    State.reset.pai.peerActiveSeen = false ∧ State.reset.pai.yieldFlag = false ∧ State.reset.pai.listenTimer = .stopped ∧
    State.reset.pai.drainTimer = .stopped ∧ State.reset.pai.helloTimer = .stopped ∧
    State.reset.pai.pairGen = 0#32 ∧ State.reset.pai.peerGenSeen = 0#32) ∧
  State.reset.tko = { grace := .stopped, tolerance := 0, burst := .idle } ∧
  (State.reset.tim.running = false ∧ State.reset.tim.acc = 0#32 ∧ State.reset.tim.ms = 0 ∧ State.reset.tim.seconds = 0#32 ∧
    State.reset.tim.increment = 171799 ∧ State.reset.tim.cursor = 0) ∧
  State.reset.mgtQueue = [] ∧
  ((∀ c : ErrClass, (State.reset.flt.record c).first = none) ∧ (∀ c : Ctr, counter State.reset c = 0#32) ∧
    State.reset.flt.flags = Flag.ready.bitmap ∧ State.reset.flt.mask = Flag.ready.bitmap ∧
    State.reset.flt.keepalive = .stopped ∧ State.reset.flt.holdoff = .running 10 ∧ State.reset.flt.noticeMark = false ∧
    State.reset.flt.resetRecord = { cause := .power, role := .detached, count := 0 })

/-- R3, R177, R182 to R185. POWER_ON gives the state after power-on; PIN_RESET gives the same but for the FAULT record, its
flag, the reset cause record and the notice these make. A head frame in transmission may be cut short. Whether and where the
head frame is cut is a free value (log entry 7). -/
def Obligations.PowerOnAndPinReset : Prop :=
  ∀ s : State,
    (∃ t, exec .powerOn s = .next t ∧ CutShort s t ∧
      t = { State.reset with
        prt := { State.reset.prt with pSent := t.prt.pSent, wSent := t.prt.wSent, sSent := t.prt.sSent }
        pending := s.pending, freeCount := s.freeCount + 1 }) ∧
    (∃ t, exec .pinReset s = .next t ∧ CutShort s t ∧
      t = { State.reset with
        prt := { State.reset.prt with
          pQueue := [noticeFrame t], pSent := t.prt.pSent, wSent := t.prt.wSent, sSent := t.prt.sSent }
        flt := { State.reset.flt with
          logFault := s.flt.logFault
          flags := if s.flt.logFault.first.isSome then 0x101#9 else 0x001#9
          resetRecord := { cause := .pin, role := s.pai.role, count := min (s.flt.resetRecord.count + 1) 65535 } }
        pending := s.pending, freeCount := s.freeCount + 1 })

/-- R3, R82, R103, R120, R141, R152, R160, R163, R174, R177, R179, R181 to R185. A SOFT_RESET request keeps the configuration,
the clock, the logs, the role history and the generations, brings all else to its reset value, sends the READY notice and then
its own response; neither the request nor the response is counted. Outside DETACHED a running burst with rounds left files TKO2
with their number in the NOTE record. That it does, and that ROLE, PEER and PATH stand clear afterwards, are the model's
readings (log entries 31 and 43); the cut is a free value (log entry 7). That the notice stands before the response is its
choice (log entry 5). -/
def Obligations.SoftResetKeepsConfigurationAndLogs : Prop :=
  ∀ (s : State) (r : Request) (rest : List Frame), Commanded 8#8 s r rest → ∃ t, exec .softReset s = .next t ∧ CutShort s t ∧
    t = { State.reset with
      cfg := s.cfg, zones := s.zones, timeouts := s.timeouts
      prt := { pQueue := [noticeFrame t, responseFrame r (Answer.only .ok) t], wQueue := [], sQueue := [],
               pSent := t.prt.pSent, wSent := t.prt.wSent, sSent := t.prt.sSent, peerMac := none }
      shd := { Shd.reset with adoptedGen := s.shd.adoptedGen }
      pai := { Pai.reset with
        history := if s.pai.role = .detached then s.pai.history
          else (s.pai.history ++ [RoleRecord.mk s.pai.role .detached .softReset s.tim.seconds s.tim.ms]).drop
            (s.pai.history.length + 1 - 8)
        pairGen := s.pai.pairGen, peerGenSeen := s.pai.peerGenSeen }
      tim := { s.tim with cursor := 0, patrolDue := false }
      flt := { logNote := t.flt.logNote, logDegraded := s.flt.logDegraded, logLoss := s.flt.logLoss,
               logFault := s.flt.logFault, counters := Vector.replicate 64 0#32, flags := t.flt.flags,
               mask := Flag.ready.bitmap, keepalive := .stopped, holdoff := .running s.cfg.noticeHoldoff,
               noticeMark := false,
               resetRecord := { cause := .soft, role := s.pai.role, count := min (s.flt.resetRecord.count + 1) 65535 } }
      pending := s.pending, freeCount := s.freeCount + 1 } ∧
    t.flt.logNote = (match s.tko.burst with
      | .idle => s.flt.logNote
      | .running n _ => if s.pai.role = .detached ∨ n = 0 then s.flt.logNote
        else s.flt.logNote.report .tko2 (ErrInfo.ofSeq n) s.tim.seconds s.tim.ms) ∧
    t.flt.flags = Flag.ready.bitmap ||| (if t.flt.logNote.first.isSome then Flag.errNote.bitmap else 0#9) |||
      (if s.flt.logDegraded.first.isSome then Flag.errDegraded.bitmap else 0#9) |||
      (if s.flt.logLoss.first.isSome then Flag.errLoss.bitmap else 0#9) |||
      (if s.flt.logFault.first.isSome then Flag.errFault.bitmap else 0#9)

/-! ## The ports (chapter 1) -/

/-- R1. A frame with a bad FCS is counted as that alone, whatever its length, and changes nothing else but, on the S-port,
the mirror transmitter's count; a frame with a good FCS and a wrong length is counted by its length. -/
def Obligations.BadFramesAreOnlyCounted : Prop :=
  ∀ (f : RxFrame) (s : State),
    (f.fcsGood = false →
      exec (.pPortFrameReceive f) s = .next (bump .pFcs s) ∧ exec (.wPortFrameReceive f) s = .next (bump .wFcs s) ∧
      (s.mir.stream = .closed ∨ min (s.mir.fcsCount + 1) 65535 ≠ s.cfg.fcsThreshold → exec (.sPortFrameReceive f) s =
        .next (bump .sFcs { s with mir := { s.mir with fcsCount := min (s.mir.fcsCount + 1) 65535 } }))) ∧
    (f.fcsGood = true → f.bytes.length < 64 ∨ 1522 < f.bytes.length →
      exec (.pPortFrameReceive f) s = .next (bump .pLen s) ∧ exec (.wPortFrameReceive f) s = .next (bump .wLen s) ∧
      exec (.sPortFrameReceive f) s = .next (bump .sLen s))

/-- R6, R163. A frame with the management EtherType joins the request queue in every role; when eight wait it is dropped,
counted and logged as MGT2. -/
def Obligations.ManagementFrameWaitsForTheAgent : Prop :=
  ∀ (f : RxFrame) (g : Frame) (s : State), Passes f g → (headerOf s g).etype = s.cfg.mgmtEthertype →
    (s.mgtQueue.length < 8 → exec (.pPortFrameReceive f) s = .next { bump .pRx s with mgtQueue := s.mgtQueue ++ [g] }) ∧
    (8 ≤ s.mgtQueue.length → ∃ t, exec (.pPortFrameReceive f) s = .next t ∧
      Noticed (report .mgt2 ErrInfo.none (bump .mgtQdrop (bump .pRx s))) t)

/-- R6, R8, R12. A processor's frame passes to the W-port, but a closed gate discards one whose source MAC is an enabled zone's
virtual MAC, or that is ARP with an enabled zone's non-zero virtual IPv4 as its sender. That it passes in DETACHED is R6's and
R8's; that an ARP frame's sender address stands 14 bytes behind the header is the model's layout (log entry 10). -/
def Obligations.ProcessorFrameMeetsTheGate : Prop :=
  ∀ (f : RxFrame) (g : Frame) (s : State), Passes f g → (headerOf s g).etype ≠ s.cfg.mgmtEthertype →
    let claims := (∃ p ∈ enabledZones s.zones, p.2.mac = (headerOf s g).src) ∨
      ((headerOf s g).etype = 0x0806#16 ∧ ∃ p ∈ enabledZones s.zones, p.2.ip ≠ 0#32 ∧
        p.2.ip = word32At g ((headerOf s g).off + 14))
    let closed := s.pai.role ∈ [Role.listen, .standbySync, .standbyReady, .faulted]
    (closed ∧ claims → exec (.pPortFrameReceive f) s = .next (bump .gateDrop (bump .pRx s))) ∧
    (¬ (closed ∧ claims) → ∃ t, exec (.pPortFrameReceive f) s = .next t ∧ Noticed (handToPort .w g (bump .pRx s)) t)

/-- R11. Outside DETACHED a W-port frame meets the gate by its class: VIRTUAL and ARP_VIRTUAL frames are discarded by the
closed gate; through the open one a VIRTUAL frame enters the fast path and an ARP_VIRTUAL frame goes to the P-port
unchanged. TUNNEL_MIRROR and OTHER frames are not gated. -/
def Obligations.WPortFrameMeetsTheGate : Prop :=
  ∀ (f : RxFrame) (g : Frame) (s : State), Passes f g → s.pai.role ≠ .detached →
    (s.pai.role.isActive = false → classW s g = .virtual ∨ classW s g = .arpVirtual →
      exec (.wPortFrameReceive f) s = .next (bump .gateDrop (bump .wRx s))) ∧
    (s.pai.role.isActive = true → classW s g = .virtual → ∃ t, exec (.wPortFrameReceive f) s = .next t ∧
      Noticed (fastPath g (bump .wRx s)) t) ∧
    (s.pai.role.isActive = true → classW s g = .arpVirtual → ∃ t, exec (.wPortFrameReceive f) s = .next t ∧
      Noticed (handToPort .p g (bump .wRx s)) t) ∧
    (classW s g = .tunnelMirror → ∃ t, exec (.wPortFrameReceive f) s = .next t ∧
      Noticed (mirrorDispatch .secondary (g.drop (headerOf s g).off) (bump .wRx s)) t) ∧
    (classW s g = .other → ∃ t, exec (.wPortFrameReceive f) s = .next t ∧ Noticed (handToPort .p g (bump .wRx s)) t)

/-- R8, R9. In DETACHED a W-port frame goes to the P-port unchanged and an S-port frame is discarded and counted. In every other
role an S-port frame that is no mirror frame is discarded, counted and logged as PRT2 with the S-port; a mirror frame of either
path whose message type is none of the three is discarded, counted in MIRROR_BAD and logged as PRT2 with the path. -/
def Obligations.DetachedIsAWire : Prop :=
  (∀ (f : RxFrame) (g : Frame) (s : State), Passes f g →
    (s.pai.role = .detached →
      (∃ t, exec (.wPortFrameReceive f) s = .next t ∧ Noticed (handToPort .p g (bump .wRx s)) t) ∧
      exec (.sPortFrameReceive f) s = .next (bump .sDiscard (bump .sRx s))) ∧
    (s.pai.role ≠ .detached → word16At g 12 = 0x8100#16 ∨ word16At g 12 ≠ s.cfg.mirrorEthertype →
      ∃ t, exec (.sPortFrameReceive f) s = .next t ∧
        Noticed (report .prt2 (ErrInfo.ofPlace 3) (bump .sDiscard (bump .sRx s))) t)) ∧
  (∀ (path : PathId) (s : State) (c : Instr) (p : List Byte), Arrives path s c p → s.pai.role ≠ .detached →
    byteAt p 0 ≠ 1#8 → byteAt p 0 ≠ 2#8 → byteAt p 0 ≠ 3#8 →
    ∃ t, exec c s = .next t ∧
      Noticed (report .prt2 (ErrInfo.ofPlace (match path with | .primary => 3 | .secondary => 4))
        (bump .mirrorBad (arrived path s))) t)

/-- R2. At the end of a transmission the head frame, padded with zero bytes to 60, has left its port with a good FCS: it
leaves the queue, the port's transmit counter rises, and the other ports stand as they were. -/
def Obligations.TransmissionCompletes : Prop :=
  ∀ (port : Port) (f : Frame) (rest : List Frame) (s : State), s.prt.queue port = f :: rest →
    ∃ t, exec (.frameTransmitComplete port) s = .next t ∧
      t = bump (match port with | .p => .pTx | .w => .wTx | .s => .sTx) { s with prt := t.prt } ∧
      t.prt.queue port = rest ∧ t.prt.sent port = some { bytes := f ++ zeros (60 - f.length), fcsGood := true } ∧
      t.prt.peerMac = s.prt.peerMac ∧
      ∀ q : Port, q ≠ port → t.prt.queue q = s.prt.queue q ∧ t.prt.sent q = s.prt.sent q

/-! ## The fast path and the tracker (chapters 1 and 3) -/

/-- R15, R16. A frame that the parser refuses, and a frame whose key is not in the table, go to the P-port with their VLAN tag
removed and the exception tag behind their source MAC, and the reason's counter rises. That an output of 1,531 to 1,534 bytes,
of an untagged frame longer than 1,518, is sent as it stands is the model's choice (log entry 48). -/
def Obligations.UnmatchedFrameIsTagged : Prop :=
  ∀ (f : RxFrame) (g : Frame) (s : State) (reason : Reason) (zone : Option Nat), Enters s f g →
    (parseFrame s.zones (headerOf s g) g = .refused reason zone ∨
      (reason = .miss ∧ ∃ z k, zone = some z ∧ parseFrame s.zones (headerOf s g) g = .keyed z k ∧ Misses s k)) →
    ∃ t, exec (.wPortFrameReceive f) s = .next t ∧
      Noticed (bump (reasonCounter reason) (handToPort .p
        (bytes48 (headerOf s g).dst ++ bytes48 (headerOf s g).src ++ bytes16 s.cfg.mgmtEthertype ++
          [3#8, nat8 reason.code, nat8 (zone.getD 0xFF), 0#8] ++ [0xFF#8, 0xFF#8] ++ nat16 (headerOf s g).tagVlan ++
          [0#8, 0#8] ++ bytes16 (headerOf s g).etype ++ g.drop (headerOf s g).off) (bump .wRx s))) t

/-- R15, R23, R64, R71, R78, R87. A hit whose session has a held frame is dropped and counted. Another hit of a FLOW session is
rewritten and leaves by the W-port, HIT_FWD rises, last_seen becomes the clock second and the direction's packets and bytes
rise; the trackers and all else of the record stand. While the stream is OPEN and the session's mirrored group is present, a hit
after the touch interval marks UPDATE and raises TRK_MARK. That the touch interval counts while the clock is HALTED too, and
that an output of 1,523 to 1,526 bytes is sent as it stands, are the model's choices (log entries 56 and 49). That the packet's
total length stands at its bytes 2 and 3 is the protocol's layout (log entry 10). -/
def Obligations.FlowHitIsForwarded : Prop :=
  ∀ (f : RxFrame) (g : Frame) (s : State) (z h : Nat) (d : Dir), Reaches s f g z h d →
    let r := recordOf s h
    let b := r.body
    let total := (word16At g ((headerOf s g).off + 2)).toNat
    let written := setRecord h { r with body := match d with
      | .orig => { b with lastSeen := s.tim.seconds, packetsOrig := satAdd32 b.packetsOrig 1,
                          bytesOrig := satAdd48 b.bytesOrig total }
      | .reply => { b with lastSeen := s.tim.seconds, packetsReply := satAdd32 b.packetsReply 1,
                           bytesReply := satAdd48 b.bytesReply total } } (bump .wRx s)
    let leaves := fun (u : State) => ∃ t, exec (.wPortFrameReceive f) s = .next t ∧
      Noticed (bump .hitFwd (handToPort .w (rewriteFrame s.cfg s.zones b d g) u)) t
    ((∃ e ∈ s.hold, e.handle = h) → exec (.wPortFrameReceive f) s = .next (bump .holdDropSecond (bump .wRx s))) ∧
    ((∀ e ∈ s.hold, e.handle ≠ h) → b.state = .flow →
      (s.mir.stream = .closed ∨ b.mirrored = none → leaves written) ∧
      (∀ m, s.mir.stream = .opened → b.mirrored = some m →
        ((s.tim.seconds - m.seen).toNat < s.cfg.touchInterval → leaves written) ∧
        (s.cfg.touchInterval ≤ (s.tim.seconds - m.seen).toNat → leaves (bump .trkMark (markedUpdate h written)))))

/-- R23, R49, R57, R60, R65, R66, R67, R71, R25. A segment without SYN and RST in a seeded direction of an OPEN session meets
C1, C2 and C3 in this order; the first that fails names the refusal. One that passes teaches its direction's tracker and leaves
the other's; a FIN makes the session DRAIN_ONE; last_seen and the direction's counters rise. A fitting segment of an unseeded
direction seeds it unchecked. The frame of an accepted segment of a TCP session, in whatever state, has its record written back
and leaves rewritten by the W-port; it marks UPDATE with TRK_MARK when a criterion of R71 is met. That the touch interval counts
while the clock is HALTED too, and that an output of 1,523 to 1,526 bytes is sent as it stands, are the model's choices (log
entries 56 and 49). That the errors of a segment are filed before the PRT1 of its frame at a full W-port is its choice too (log
entry 5); that the packet's total length stands at its bytes 2 and 3 is the protocol's layout (log entry 10). -/
def Obligations.OpenSegmentIsCheckedThenLearned : Prop :=
  (∀ (b : Body) (d : Dir) (g : Segment) (tol total : Nat) (now : Word32), b.state = .opened → g.hasRst = false →
    let o := b.dir d.other
    let t := b.dir d
    let w := if b.dirOrig.scaleOffered = true ∧ b.dirReply.scaleOffered = true ∧ g.hasSyn = false
      then g.window.setWidth 32 <<< t.wscale.toNat else g.window.setWidth 32
    let c1 := o.edgeValid = true → seqNotAfter g.finish (o.rightEdge + BitVec.ofNat 32 tol) = true
    let c2 := o.seeded = true → seqNotBefore g.seq (t.hiSeq - o.maxWin - BitVec.ofNat 32 tol) = true
    let c3 := g.hasAck = true → o.seeded = true → seqNotAfter g.ack (o.hiSeq + BitVec.ofNat 32 tol) = true
    let accounted := fun (b' : Body) => b' = { b with
      state := if g.hasFin = true then .drainOne else .opened
      finOrder := if g.hasFin = true then some d else b.finOrder
      dirOrig := b'.dirOrig, dirReply := b'.dirReply, lastSeen := now
      packetsOrig := if d = .orig then satAdd32 b.packetsOrig 1 else b.packetsOrig
      packetsReply := if d = .reply then satAdd32 b.packetsReply 1 else b.packetsReply
      bytesOrig := if d = .orig then satAdd48 b.bytesOrig total else b.bytesOrig
      bytesReply := if d = .reply then satAdd48 b.bytesReply total else b.bytesReply }
    (t.seeded = true → g.hasSyn = false →
      (¬ c1 → judgeTcp b d g tol total now = .refuse .trkRefRight) ∧
      (c1 → ¬ c2 → judgeTcp b d g tol total now = .refuse .trkRefLeft) ∧
      (c1 → c2 → ¬ c3 → judgeTcp b d g tol total now = .refuse .trkRefAck) ∧
      (c1 → c2 → c3 → ∃ b', judgeTcp b d g tol total now = .accept b' [] ∧ b'.dir d.other = o ∧
        b'.dir d = { t with
          hiSeq := if seqAfter g.finish t.hiSeq = true then g.finish else t.hiSeq
          maxWin := if t.maxWin.toNat < w.toNat then w else t.maxWin
          hiAck := if g.hasAck = true ∧ (seqAfter g.ack t.hiAck = true ∨ t.edgeValid = false) then g.ack else t.hiAck
          rightEdge := if g.hasAck = true ∧ (seqAfter (g.ack + w) t.rightEdge = true ∨ t.edgeValid = false) then g.ack + w
            else t.rightEdge
          edgeValid := t.edgeValid || g.hasAck
          finEnd := if g.hasFin = true then some g.finish else t.finEnd } ∧ accounted b')) ∧
    -- the first segment of a direction
    (t.seeded = false → ¬ (g.hasSyn = true ∧ g.hasFin = true) →
      ∃ b', judgeTcp b d g tol total now = .accept b' [] ∧ b'.dir d.other = o ∧
        b'.dir d = { t with
          seeded := true
          hiSeq := g.finish
          maxWin := if w = 0#32 then 1#32 else w
          hiAck := if g.hasAck = true then g.ack else t.hiAck
          rightEdge := if g.hasAck = true then g.ack + w else t.rightEdge
          edgeValid := t.edgeValid || g.hasAck
          finEnd := if g.hasFin = true then some g.finish else t.finEnd } ∧ accounted b')) ∧
  -- the frame of an accepted segment
  (∀ (f : RxFrame) (g : Frame) (s : State) (z h : Nat) (d : Dir) (b' : Body) (ns : List ErrCode), Hits s f g z h d →
    let r := recordOf s h
    let b := r.body
    b.state ≠ .flow →
    judgeTcp b d (readSegment g (headerOf s g).off) (if s.pai.role = .takeover then s.tko.tolerance else 0)
      (word16At g ((headerOf s g).off + 2)).toNat s.tim.seconds = .accept b' ns →
    let written := ns.foldl (fun u c => report c (ErrInfo.ofHandle h) u) (setRecord h { r with body := b' } (bump .wRx s))
    let leaves := fun (u : State) => ∃ t, exec (.wPortFrameReceive f) s = .next t ∧
      Noticed (bump .hitFwd (handToPort .w (rewriteFrame s.cfg s.zones b d g) u)) t
    (s.mir.stream = .closed ∨ b.mirrored = none → leaves written) ∧
    (∀ m, s.mir.stream = .opened → b.mirrored = some m →
      (¬ updateMeets s m b b' → leaves written) ∧
      (updateMeets s m b b' → leaves (bump .trkMark (markedUpdate h written)))))

/-- R57 to R63. The moves of a TCP session's state by an accepted segment: the handshake, the two FINs, the last ACK, an RST,
and the SYN that reopens a lingering session; and the segments that fit no state, which are refused as TRK_REF_STATE. At the
W-port the SYN that reopens removes the session with reason REOPEN, and goes to the P-port with its tag. That no ACK ends the
drain of a DRAIN_BOTH record without a fin_order is the model's choice (log entry 53). That a tagged output of 1,531 to 1,534
bytes is sent as it stands is its choice too (log entry 48). -/
def Obligations.SessionStateMoves : Prop :=
  (∀ (b : Body) (d : Dir) (g : Segment) (tol total : Nat) (now : Word32),
    let refused := judgeTcp b d g tol total now = .refuse .trkRefState
    -- the REPLY SYN+ACK of a NEW session
    (b.state = .new → d = .reply → b.dirReply.seeded = false → g.hasSyn = true → g.hasAck = true → g.hasFin = false →
      g.hasRst = false → ∃ b' ns, judgeTcp b d g tol total now = .accept b' ns ∧ b'.state = .halfOpen ∧
        b'.dirReply.seeded = true ∧ b'.dirReply.hiSeq = g.finish ∧ b'.dirReply.hiAck = g.ack ∧
        b'.dirReply.rightEdge = g.ack + g.window.setWidth 32 ∧ b'.dirReply.edgeValid = true) ∧
    -- the ORIG ACK of a HALF_OPEN session
    (b.state = .halfOpen → d = .orig → b.dirOrig.seeded = true → g.hasSyn = false → g.hasAck = true → g.hasRst = false →
      failedCheck b d g tol = none → ∃ b', judgeTcp b d g tol total now = .accept b' [] ∧
        b'.state = (if g.hasFin = true then .drainOne else .opened)) ∧
    -- the second FIN, and the last ACK of the drain
    (b.state = .drainOne → b.finOrder = some d.other → (b.dir d).seeded = true → g.hasSyn = false → g.hasRst = false →
      failedCheck b d g tol = none → ∃ b', judgeTcp b d g tol total now = .accept b' [] ∧
        b'.state = (if g.hasFin = true then .drainBoth else .drainOne) ∧
        (b'.dir d).finEnd = (if g.hasFin = true then some g.finish else (b.dir d).finEnd)) ∧
    (∀ e, b.state = .drainBoth → (b.dir d).seeded = true → (b.dir d.other).finEnd = some e → g.hasSyn = false →
      g.hasRst = false → failedCheck b d g tol = none → ∃ b', judgeTcp b d g tol total now = .accept b' [] ∧
        b'.state = (if b.finOrder = some d ∧ g.hasAck = true ∧ seqNotBefore g.ack e = true then .linger else .drainBoth)) ∧
    -- an RST in any state
    (g.hasRst = true → failedCheckRst b d g tol = none → ∃ b', judgeTcp b d g tol total now = .accept b' [] ∧
      b'.state = .linger ∧ b'.dirOrig = b.dirOrig ∧ b'.dirReply = b.dirReply ∧ b'.lastSeen = now) ∧
    -- a new SYN from ORIG in LINGER
    (b.state = .linger → d = .orig → g.hasSyn = true → g.hasAck = false → g.hasFin = false → g.hasRst = false →
      judgeTcp b d g tol total now = .reopen) ∧
    -- the segments that fit no state, or not this one
    (g.hasRst = false →
      (g.hasSyn = true → g.hasFin = true → refused) ∧
      (b.state = .new → d = .orig → g.hasSyn = false ∨ g.hasAck = true → refused) ∧
      (b.state = .new ∨ b.state = .halfOpen → d = .reply → g.hasSyn = false ∨ g.hasAck = false → refused) ∧
      (b.state = .halfOpen → d = .orig → g.hasSyn = g.hasAck → refused) ∧
      (b.state = .opened → g.hasSyn = true → (b.dir d).seeded = true → refused) ∧
      (b.state = .drainOne ∨ b.state = .drainBoth → g.hasSyn = true → refused) ∧
      (b.state = .linger → g.hasSyn = true → d = .reply ∨ g.hasAck = true → refused))) ∧
  -- the frame that reopens
  (∀ (f : RxFrame) (g : Frame) (s : State) (z h : Nat), Hits s f g z h .orig →
    let sg := readSegment g (headerOf s g).off
    (recordOf s h).handleState = .live → (recordOf s h).body.state = .linger → sg.hasSyn = true → sg.hasAck = false →
    sg.hasFin = false → sg.hasRst = false → sparseSorted s.tbl.records = true → sparseSorted s.tbl.slots = true →
    ∃ u t, exec (.wPortFrameReceive f) s = .next t ∧
      Removed h .reopen (recordOf s h).body.mirrored.isSome (bump .wRx s) u ∧
      Noticed (handToPort .p
        (exceptionFrame s.cfg.mgmtEthertype (headerOf s g) .reopen (some z) (some h) g) u) t)

/-- R68. A refused segment's counter rises; under EXCEPTION the frame goes to the P-port tagged OUT_OF_WINDOW with the session's
handle, under DROP it is discarded and counted in TRK_DROP; the record is unchanged. That a tagged output of 1,531 to 1,534
bytes is sent as it stands is the model's choice (log entry 48). -/
def Obligations.RefusedSegmentMeetsThePolicy : Prop :=
  ∀ (f : RxFrame) (g : Frame) (s : State) (z h : Nat) (d : Dir) (c : Ctr), Hits s f g z h d →
    judge (recordOf s h).body d g (headerOf s g).off (if s.pai.role = .takeover then s.tko.tolerance else 0) s.tim.seconds =
      .refuse c →
    (s.cfg.oowPolicy = .exception → ∃ t, exec (.wPortFrameReceive f) s = .next t ∧
      Noticed (bump .excOutOfWindow (handToPort .p
        (exceptionFrame s.cfg.mgmtEthertype (headerOf s g) .outOfWindow (some z) (some h) g) (bump c (bump .wRx s)))) t) ∧
    (s.cfg.oowPolicy = .drop → exec (.wPortFrameReceive f) s = .next (bump .trkDrop (bump c (bump .wRx s))))

/-- R5, R17 to R22. A rewritten frame goes to the next hop of its direction from the outgoing zone's virtual MAC, with that
zone's VLAN tag unless it is default_vlan, and with the priority it arrived with; the bit of the tag between them is a free
value (log entry 6). The rewrite of an IPv4 header whose checksum is right leaves it right: adjusted by the words that change,
it is again the checksum of the header as it stands, with the TTL one less and the two addresses replaced. The ports of TCP and
UDP, or the identifier of an ICMP echo, are replaced, and the transport checksum is adjusted by R20 for the words it covers that
change: a UDP checksum of 0x0000 stays, and one that comes to 0x0000 is written as 0xFFFF. Everything else is as it was. That
the ports stand at bytes 20 and 22 of the packet and the ICMP identifier at byte 24, as the other fields stand, is the layout of
the protocols' own standards (log entry 10, PRESUMED); that an output of 1,523 to 1,526 bytes is sent as it stands is the
model's choice (log entry 49). -/
def Obligations.RewrittenHeaderKeepsItsChecksum : Prop :=
  -- the link layer, and the translation
  (∀ (cfg : ConfigRec) (zs : Vector Zone 8) (b : Body) (d : Dir) (f : Frame),
    let tagged := word16At f 12 = 0x8100#16
    let off := if tagged then 18 else 14
    let prio := if tagged then (word16At f 14).extractLsb' 13 3 else 0#3
    let k := match d with | .orig => b.replyKey | .reply => b.origKey
    let z := zoneAt zs k.zone.toNat
    let t : Translation := { srcAddr := k.dstAddr, srcPort := k.dstPort, dstAddr := k.srcAddr, dstPort := k.srcPort }
    ∃ bit : Bool, rewriteFrame cfg zs b d f =
      bytes48 (match d with | .orig => b.nextHopOrig | .reply => b.nextHopReply) ++ bytes48 z.mac ++
        (if z.vlan = cfg.defaultVlan then []
          else [0x81#8, 0x00#8] ++ bytes16 (prio ++ BitVec.ofBool bit ++ BitVec.ofNat 12 z.vlan)) ++
        bytes16 (word16At f (off - 2)) ++ rewritePacket (f.drop off) t) ∧
  (∀ (p : List Byte) (t : Translation), 20 ≤ p.length →
    let w := rewritePacket p t
    -- the IPv4 header
    (byteAt p 0 = 0x45#8 → 2 ≤ (byteAt p 8).toNat → onesSum (ipHeaderWords p 0) = 0xFFFF#16 →
      onesSum (ipHeaderWords (rewriteIp p t) 0) = 0xFFFF#16 ∧
      (byteAt (rewriteIp p t) 8).toNat = (byteAt p 8).toNat - 1 ∧ byteAt (rewriteIp p t) 9 = byteAt p 9 ∧
      word32At (rewriteIp p t) 12 = t.srcAddr ∧ word32At (rewriteIp p t) 16 = t.dstAddr ∧
      (∀ i, i < 8 ∨ 20 ≤ i → byteAt (rewriteIp p t) i = byteAt p i) ∧ (rewriteIp p t).length = p.length) ∧
    -- the transport header
    (let proto := byteAt p 9
     let addresses : List (Word16 × Word16) :=
       [(word16At p 12, t.srcAddr.extractLsb' 16 16), (word16At p 14, t.srcAddr.extractLsb' 0 16),
        (word16At p 16, t.dstAddr.extractLsb' 16 16), (word16At p 18, t.dstAddr.extractLsb' 0 16)]
     let ports : List (Word16 × Word16) := [(word16At p 20, t.srcPort), (word16At p 22, t.dstPort)]
     -- R20: a checksum adjusted for its words, of which those that keep their value are not entered
     let adjusted := fun (hc : Word16) (ws : List (Word16 × Word16)) =>
       let changed := ws.filter fun m => m.1 != m.2
       if changed = [] then hc else ~~~ onesSum (~~~ hc :: changed.flatMap fun m => [~~~ m.1, m.2])
     let headerStands := w.length = p.length ∧ ∀ i < 20, byteAt w i = byteAt (rewriteIp p t) i
     let portsReplaced := word16At w 20 = t.srcPort ∧ word16At w 22 = t.dstPort
     (proto = 6#8 → 40 ≤ p.length → headerStands ∧ portsReplaced ∧
       word16At w 36 = adjusted (word16At p 36) (addresses ++ ports) ∧
       ∀ i, 24 ≤ i → i ≠ 36 → i ≠ 37 → byteAt w i = byteAt p i) ∧
     (proto = 17#8 → 28 ≤ p.length → headerStands ∧ portsReplaced ∧
       (let hc := word16At p 26
        let sum := adjusted hc (addresses ++ ports)
        word16At w 26 = if hc = 0#16 then 0#16 else if sum = 0#16 then 0xFFFF#16 else sum) ∧
       ∀ i, 24 ≤ i → i ≠ 26 → i ≠ 27 → byteAt w i = byteAt p i) ∧
     (proto = 1#8 → 28 ≤ p.length → headerStands ∧ word16At w 24 = t.srcPort ∧
       word16At w 22 = adjusted (word16At p 22) [(word16At p 24, t.srcPort)] ∧
       ∀ i, 20 ≤ i → i < 22 ∨ 26 ≤ i → byteAt w i = byteAt p i) ∧
     (proto ≠ 6#8 → proto ≠ 17#8 → proto ≠ 1#8 → w = rewriteIp p t)))

/-! ## The session table (chapter 2) -/

/-- R31, R32. An insert places orig_key first, each key in the first empty slot of the order in which its lookup reads (the
bucket's four, then the stash); the second key's place takes account of the first; it fails only when a place is missing. -/
def Obligations.InsertTakesTheFirstEmptySlots : Prop :=
  ∀ (t : Tbl) (seed : Word16) (k1 k2 : Key) (h : Nat),
    (∀ t' p q, t.insertKeys seed k1 k2 h = some (t', p, q) →
      (∃ pre post, keyPositions seed k1 = pre ++ p :: post ∧ t.slot p = none ∧ ∀ x ∈ pre, t.slot x ≠ none) ∧
      (∃ pre post, keyPositions seed k2 = pre ++ q :: post ∧ q ≠ p ∧ t.slot q = none ∧ ∀ x ∈ pre, x = p ∨ t.slot x ≠ none) ∧
      t'.slot p = some { key := k1, handle := h, dir := .orig, keyGood := true, refGood := true } ∧
      t'.slot q = some { key := k2, handle := h, dir := .reply, keyGood := true, refGood := true } ∧
      (∀ x, x ≠ p → x ≠ q → t'.slot x = t.slot x) ∧ t' = { t with slots := t'.slots }) ∧
    (t.insertKeys seed k1 k2 h = none →
      (∀ x ∈ keyPositions seed k1, t.slot x ≠ none) ∨
      ∃ p ∈ keyPositions seed k1, t.slot p = none ∧ ∀ x ∈ keyPositions seed k2, x = p ∨ t.slot x ≠ none)

/-- R33 to R35, R87, R173. An INSTALL without an enclosed frame, whose checks pass, makes a session as one operation: the head
of the free list becomes LIVE with the next epoch, OPEN for TCP and FLOW for the others, its keys in their slots, its digest
term added; with the stream open it is marked CREATE. The response names handle and epoch. An INSTALL that encloses a frame is
stated with the first-packet hold. The reserved bytes of the response are zero by the model's choice (log entry 55). -/
def Obligations.InstallMakesASession : Prop :=
  ∀ (s : State) (r : Request) (rest : List Frame) (h p q : Nat) (t' : Tbl), Waiting s r rest → r.command = 3 →
    r.length = 48 → enclosedLength r.payload = 0 →
    let i := readInstall r.payload
    s.pai.role.isActive = true → installGood s.zones i = true → Misses s i.origKey → Misses s i.replyKey →
    freeHead s.tbl.free = some h → s.tbl.insertKeys s.cfg.hashSeed i.origKey i.replyKey h = some (t', p, q) →
    ∃ t, exec .install s = .next t ∧
      Replied r { status := .ok, payload := nat16 h ++ bytes16 ((recordOf s h).epoch + 1#16) ++ [0#8, 0#8, 0#8, 0#8] }
        (sessionMade h p q t' (installedBody i s) (dequeue rest s)) t

/-- R33, R34, R173. An INSTALL is refused by the first check that fails, and changes nothing but INSTALL_REFUSED; a DUPLICATE
names the session that holds the key. A wrong length is refused before them. The reserved bytes of the response are zero by the
model's choice (log entry 55). -/
def Obligations.InstallIsRefusedByTheFirstCheck : Prop :=
  ∀ (s : State) (r : Request) (rest : List Frame), Waiting s r rest → r.command = 3 →
    let i := readInstall r.payload
    let refused := fun (st : Status) (payload : List Byte) => ∃ t, exec .install s = .next t ∧
      Replied r { status := st, payload := payload } (bump .installRefused (dequeue rest s)) t
    let nothing := [0xFF#8, 0xFF#8, 0#8, 0#8, 0#8, 0#8, 0#8, 0#8]
    (installLengthGood r = false → ∃ t, exec .install s = .next t ∧ Replied r (Answer.only .badLength) (dequeue rest s) t) ∧
    (installLengthGood r = true →
      (s.pai.role.isActive = false → refused .notActive nothing) ∧
      (s.pai.role.isActive = true → installGood s.zones i = false ∨ enclosedGood s i = false → refused .badRecord nothing) ∧
      (s.pai.role.isActive = true → installGood s.zones i = true → enclosedGood s i = true →
        (∀ h d, Finds s i.origKey h d ∨ (Misses s i.origKey ∧ Finds s i.replyKey h d) →
          refused .duplicate (nat16 h ++ bytes16 (recordOf s h).epoch ++ [nat8 d.code, 0#8, 0#8, 0#8])) ∧
        (Misses s i.origKey → Misses s i.replyKey →
          (freeHead s.tbl.free = none → refused .tableFull nothing) ∧
          (∀ h, freeHead s.tbl.free = some h →
            s.tbl.insertKeys s.cfg.hashSeed i.origKey i.replyKey h = none → refused .bucketFull nothing))))

/-- R41, R173. A FIND answers OK in every role: on a hit the handle, the direction and the whole record with its counters, on a
miss the handle 0xFFFF; with nothing damaged on its way it changes nothing. A payload that is not 16 bytes answers BAD_LENGTH.
The reserved bytes of the response are zero by the model's choice (log entry 55). -/
def Obligations.FindAnswersWithTheRecord : Prop :=
  ∀ (s : State) (r : Request) (rest : List Frame), Waiting s r rest → r.command = 4 →
    (r.length ≠ 16 → ∃ t, exec .find s = .next t ∧ Replied r (Answer.only .badLength) (dequeue rest s) t) ∧
    (r.length = 16 → ∀ h d, Finds s (readKey r.payload 0) h d → ∃ t, exec .find s = .next t ∧
      Replied r { status := .ok
                  payload := nat16 h ++ [nat8 d.code, 0#8] ++ sessionEntry (recordOf s h) ++
                    bytes32 (recordOf s h).body.packetsOrig ++ bytes32 (recordOf s h).body.packetsReply ++
                    bytes48 (recordOf s h).body.bytesOrig ++ bytes48 (recordOf s h).body.bytesReply } (dequeue rest s) t) ∧
    (r.length = 16 → Misses s (readKey r.payload 0) → ∃ t, exec .find s = .next t ∧
      Replied r { status := .ok, payload := [0xFF#8, 0xFF#8, 0#8, 0#8] } (dequeue rest s) t)

/-- R37, R38. What a removal of a LIVE handle does, for every reason. -/
def Obligations.RemovalEmptiesBothSlots : Prop :=
  ∀ (h : Nat) (reason : RemovalReason) (bodyFailed : Bool) (s : State), sparseSorted s.tbl.records = true →
    sparseSorted s.tbl.slots = true → (recordOf s h).handleState = .live →
    Removed h reason (bodyFailed || (recordOf s h).body.mirrored.isSome) s (removeSession h reason bodyFailed s)

/-- R40, R173. REMOVE in the order of its checks: a wrong length, the role, the form selector, and for the handle form the range
of the handle. By handle and epoch the LIVE session of that epoch is removed with reason MANAGEMENT; else the answer is STALE
with the handle's epoch and state, and nothing changes. By key the session that the lookup finds is removed, and the answer
names the direction of the key; a miss is STALE with handle 0xFFFF. That the handle form checks no parity is the model's reading
(log entry 13); the epoch and the state of a STALE answer by key are free values (log entry 9). The reserved bytes of the
response are zero by the model's choice (log entry 55). -/
def Obligations.RemoveByHandleAndEpoch : Prop :=
  ∀ (s : State) (r : Request) (rest : List Frame), Waiting s r rest → r.command = 5 →
    let s0 := dequeue rest s
    let answered := fun (a : Answer) => ∃ t, exec .remove s = .next t ∧ Replied r a s0 t
    let removes := fun (h : Nat) (dir : Nat) => ∃ u t, exec .remove s = .next t ∧
      Removed h .management (recordOf s h).body.mirrored.isSome s0 u ∧
      Replied r { status := .ok, payload := nat16 h ++ bytes16 (recordOf s h).epoch ++ [nat8 dir, 0#8, 0#8, 0#8] } u t
    (r.length ≠ 20 → answered (Answer.only .badLength)) ∧
    (r.length = 20 → s.pai.role.isActive = false → answered (Answer.only .notActive)) ∧
    (r.length = 20 → s.pai.role.isActive = true →
      (byteAt r.payload 0 ≠ 1#8 → byteAt r.payload 0 ≠ 2#8 → answered (Answer.only .badRecord)) ∧
      (byteAt r.payload 0 = 1#8 →
        let h := (word16At r.payload 2).toNat
        let named := (recordOf s h).handleState = .live ∧ (recordOf s h).epoch = word16At r.payload 4
        (32768 ≤ h → answered (Answer.only .badIndex)) ∧
        (h < 32768 → ¬ named → answered
          { status := .stale, payload := nat16 h ++ bytes16 (recordOf s h).epoch ++ [nat8 (recordOf s h).handleState.code] }) ∧
        (h < 32768 → named → sparseSorted s.tbl.records = true → sparseSorted s.tbl.slots = true → removes h 0)) ∧
      (byteAt r.payload 0 = 2#8 →
        let k := readKey r.payload 4
        (∀ h d, Finds s k h d → (recordOf s h).handleState = .live → sparseSorted s.tbl.records = true →
          sparseSorted s.tbl.slots = true → removes h d.code) ∧
        (Misses s k → ∃ (epoch : Word16) (st : Byte),
          answered { status := .stale, payload := [0xFF#8, 0xFF#8] ++ bytes16 epoch ++ [st] })))

/-- R42, R44 to R46, R161, R171. A READ of one SESSION entry checks the record. A damaged anchor is TBL3: the part becomes
FAULTED (but for DETACHED and FAULTED), its held frames discarded with HLD3 (R81), the table is cleared, and the entry reads
FREE with epoch 0. A damaged body costs the LIVE session alone, and the entry shows what the removal left. A FIND whose lookup
reads a damaged slot, the slots before it being good, loses the session that claims the slot with TBL1 when the key alone is
damaged, and goes on with the other slots; otherwise TBL3 names the slot and clears the table, and the FIND misses. A patrol
step of any rate, of which one visit finds something damaged, does the same with the record and with the two slots of that
visit; the sessions that are old at the visits before it go as EXPIRED, and those at the visits behind it, unless the table was
cleared. That the visits behind a TBL3 are still made, on the cleared table, is the model's choice (log entry 61). That the role
change comes before the clearing and the place of the slot's number are the model's readings (log entries 15 and 44), as are the
order in which a lookup reads the slots (log entry 11) and that of the two slots of a visit (log entry 50), that a slot is
claimed by the anchor as it stands, without a check of its parity (log entry 12), and that reserved bytes are zero (log entry
55). The order in which a role change files its errors and hands its frames over is the model's choice (log entry 5). That a
session whose held frame a role change discards loses its release_seq is the model's reading (log entry 21). -/
def Obligations.DamagedRecordIsRemovedOrClears : Prop :=
  ∀ s : State,
    let cleared := fun (u : State) => bumpBy .holdDropRemoved u.hold.length { u with tbl := Tbl.cleared, hold := [] }
    -- a TBL3 filed in v leaves w
    let clears := fun (v w : State) =>
      ((s.pai.role ≠ .detached ∧ s.pai.role ≠ .faulted) ∧ ∃ u, RoleChanged s.pai.role .faulted .faultError v u ∧ w = cleared u) ∨
      ((s.pai.role = .detached ∨ s.pai.role = .faulted) ∧ w = cleared v)
    let goodSlot := fun (pos : Nat) => ∀ sl, s.tbl.slot pos = some sl → sl.keyGood = true ∧ sl.refGood = true
    -- the LIVE record that a slot with a damaged key names claims it
    let claimed := fun (pos : Nat) (sl : Slot) => sl.refGood = true ∧ sl.keyGood = false ∧
      (recordOf s sl.handle).handleState = .live ∧ ((recordOf s sl.handle).slotOrig = pos ∨ (recordOf s sl.handle).slotReply = pos)
    let lost := fun (pos : Nat) (sl : Slot) =>
      (sl.refGood = false ∨ sl.keyGood = false) ∧ ¬ claimed pos sl
    sparseSorted s.tbl.records = true → sparseSorted s.tbl.slots = true →
    -- a READ of a record
    (∀ (r : Request) (rest : List Frame), Waiting s r rest → r.command = 1 → r.object = 4 → r.count = 1 →
      r.stepMode < 3 → r.clear = false → r.index < 32768 →
      let s0 := dequeue rest s
      ((recordOf s r.index).anchorGood = false → ∃ w t, exec .read s = .next t ∧
        clears (report .tbl3 (ErrInfo.ofHandle r.index) (bump .parityRecord s0)) w ∧
        Replied r { status := .ok, payload := zeros 128 } w t) ∧
      ((recordOf s r.index).anchorGood = true → (recordOf s r.index).handleState = .live →
        (recordOf s r.index).bodyGood = false → ∃ u t, exec .read s = .next t ∧
          Removed r.index .parity true (bump .parityRecord (report .tbl2 (ErrInfo.ofHandle r.index) s0)) u ∧
          Replied r { status := .ok, payload := sessionEntry (recordOf u r.index) }
            (if s.pai.role.isStandby then joinRefresh r.index u else u) t)) ∧
    -- a FIND whose lookup meets a damaged slot
    (∀ (r : Request) (rest : List Frame) (pre post : List Nat) (pos : Nat) (sl : Slot), Waiting s r rest → r.command = 4 →
      r.length = 16 → keyPositions s.cfg.hashSeed (readKey r.payload 0) = pre ++ pos :: post → (∀ p ∈ pre, goodSlot p) →
      s.tbl.slot pos = some sl →
      let s0 := dequeue rest s
      (claimed pos sl → ∃ u v t,
        Removed sl.handle .parity (recordOf s sl.handle).body.mirrored.isSome
          (bump .paritySlot (report .tbl1 (ErrInfo.ofHandle sl.handle) s0)) u ∧
        v = (if s.pai.role.isStandby then joinRefresh sl.handle u else u) ∧ exec .find s = .next t ∧
        (Misses v (readKey r.payload 0) → Replied r { status := .ok, payload := [0xFF#8, 0xFF#8, 0#8, 0#8] } v t) ∧
        (∀ h d, Finds v (readKey r.payload 0) h d → Replied r { status := .ok, payload := findPayload h d (recordOf v h) } v t)) ∧
      (lost pos sl → ∃ w t, exec .find s = .next t ∧ clears (report .tbl3 (ErrInfo.ofSeq pos) (bump .paritySlot s0)) w ∧
        Replied r { status := .ok, payload := [0xFF#8, 0xFF#8, 0#8, 0#8] } w t)) ∧
    -- a patrol step of which one visit, to the handle h, finds something damaged
    (∀ (pre post : List Nat) (h : Nat), s.tim.running = true → s.tim.patrolDue = true → s.pai.role.isActive = true →
      patrolled s = pre ++ h :: post → (∀ k ∈ pre, visitIntact s k) →
      let steps := fun (u : State) => ∃ t, exec .patrolStep s = .next t ∧ Noticed (patrolBehind s u) t
      -- the state v that the damage leads to, behind the visits before it, and the visits after it
      let goesOn := fun (v : State → State → Prop) => (∀ k ∈ post, visitIntact s k) →
        ∃ a u w, Ages pre s a ∧ v a u ∧ Ages post u w ∧ steps w
      let ends := fun (v : State → State) => ∃ a w, Ages pre s a ∧ clears (v a) w ∧ steps w
      ((recordOf s h).anchorGood = false →
        ends fun a => report .tbl3 (ErrInfo.ofHandle h) (bump .parityRecord a)) ∧
      ((recordOf s h).anchorGood = true → (recordOf s h).handleState = .live → (recordOf s h).bodyGood = false →
        goesOn fun a u => Removed h .parity true (bump .parityRecord (report .tbl2 (ErrInfo.ofHandle h) a)) u) ∧
      (∀ (pos : Nat) (sl : Slot), recordIntact s h → (recordOf s h).handleState = .live →
        pos = (recordOf s h).slotOrig ∨ (pos = (recordOf s h).slotReply ∧ goodSlot (recordOf s h).slotOrig) →
        s.tbl.slot pos = some sl →
        (claimed pos sl → goesOn fun a u => Removed sl.handle .parity (recordOf s sl.handle).body.mirrored.isSome
          (bump .paritySlot (report .tbl1 (ErrInfo.ofHandle sl.handle) a)) u) ∧
        (lost pos sl → ends fun a => report .tbl3 (ErrInfo.ofSeq pos) (bump .paritySlot a))))

/-! ## The first-packet hold (chapter 4) -/

/-- R35, R53 to R57, R60, R63, R64, R66, R68, R74. An INSTALL with an enclosed frame, whose checks pass, makes its session; the
frame is then that session's first of direction ORIG. Of TCP, a SYN alone makes the session NEW and seeds its direction, with
the scale of its options, whose errors are filed; any other segment is judged in OPEN: an RST takes the session to LINGER, a SYN
with FIN is refused and meets the policy, and every other segment seeds the direction, a FIN making it DRAIN_ONE. A FLOW session
accepts its frame. An accepted frame counts in its direction and, rewritten, joins the tail of the hold queue while the stream
is open, the hold flag set and room left; otherwise it leaves at once, with HOLD_FULL and HLD2 when the queue is full. The
reserved bytes of the response are zero by the model's choice (log entry 55); where the fields of the enclosed headers stand is
the protocols' (log entry 10). That the frame of a refused segment, and any notice, stand before the response, and that the
errors of a segment and HLD2 are filed before the PRT1 of a full W-port, is the model's choice (log entry 5). -/
def Obligations.ProtectedInstallHoldsItsFrame : Prop :=
  ∀ (s : State) (r : Request) (rest : List Frame) (h p q : Nat) (t' : Tbl) (g : Frame), Waiting s r rest → r.command = 3 →
    installLengthGood r = true →
    let i := readInstall r.payload
    i.frame = some g → s.pai.role.isActive = true → installGood s.zones i = true → enclosedGood s i = true →
    Misses s i.origKey → Misses s i.replyKey → freeHead s.tbl.free = some h →
    s.tbl.insertKeys s.cfg.hashSeed i.origKey i.replyKey h = some (t', p, q) →
    let epoch := (recordOf s h).epoch + 1#16
    let ok : Answer := { status := .ok, payload := nat16 h ++ bytes16 epoch ++ [0#8, 0#8, 0#8, 0#8] }
    let seg := readSegment g (headerOf s g).off
    let tcp := i.origKey.proto = 6#8
    let plain := installedBody i s
    let made := fun (b : Body) => sessionMade h p q t' b (dequeue rest s)
    let counted := fun (b : Body) =>
      { b with packetsOrig := 1#32, bytesOrig := (word16At g ((headerOf s g).off + 2)).setWidth 48 }
    let maxWin := if seg.window = 0#16 then 1#32 else seg.window.setWidth 32
    let out := rewriteFrame s.cfg s.zones plain .orig g
    -- an accepted frame, offered to the hold queue
    let offered := fun (u : State) => ∃ t, exec .install s = .next t ∧
      (i.hold = false ∨ s.mir.stream = .closed → Replied r ok (bump .hitFwd (handToPort .w out u)) t) ∧
      (i.hold = true → s.mir.stream = .opened → 48 ≤ s.hold.length →
        Replied r ok (bump .hitFwd (handToPort .w out (report .hld2 (ErrInfo.ofHandle h) (bump .holdFull u)))) t) ∧
      (i.hold = true → s.mir.stream = .opened → s.hold.length < 48 →
        Replied r ok (bump .holdEnter { u with hold := s.hold ++
          [{ handle := h, epoch := epoch, frame := out, timer := .running s.cfg.holdTimeout, releaseSeq := none }] }) t)
    -- a session of another protocol
    (¬ tcp → offered (made (counted plain))) ∧
    -- a SYN alone
    (tcp → seg.hasSyn = true → seg.hasAck = false → seg.hasFin = false → seg.hasRst = false →
      let offer := scaleOffer seg
      offered (offer.2.foldl (fun u c => report c (ErrInfo.ofHandle h) u) (made (counted { plain with
        state := .new
        dirOrig := { DirTracker.unseeded with
          seeded := true, hiSeq := seg.finish, maxWin := maxWin, scaleOffered := offer.1.1, wscale := offer.1.2 } })))) ∧
    -- an RST
    (tcp → seg.hasRst = true → offered (made (counted { plain with state := .linger }))) ∧
    -- any other segment that fits
    (tcp → seg.hasRst = false → seg.hasSyn = false ∨ (seg.hasAck = true ∧ seg.hasFin = false) →
      offered (made (counted { plain with
        state := if seg.hasFin = true then .drainOne else .opened
        finOrder := if seg.hasFin = true then some .orig else none
        dirOrig := { DirTracker.unseeded with
          seeded := true, hiSeq := seg.finish, maxWin := maxWin
          hiAck := if seg.hasAck = true then seg.ack else 0#32
          rightEdge := if seg.hasAck = true then seg.ack + seg.window.setWidth 32 else 0#32
          edgeValid := seg.hasAck
          finEnd := if seg.hasFin = true then some seg.finish else none } }))) ∧
    -- a SYN with FIN
    (tcp → seg.hasRst = false → seg.hasSyn = true → seg.hasFin = true →
      let refused := bump .trkRefState (made plain)
      ∃ t, exec .install s = .next t ∧
        (s.cfg.oowPolicy = .exception → Replied r ok (bump .excOutOfWindow (handToPort .p
          (exceptionFrame s.cfg.mgmtEthertype (headerOf s g) .outOfWindow (some i.origKey.zone.toNat) (some h) g) refused)) t) ∧
        (s.cfg.oowPolicy = .drop → Replied r ok (bump .trkDrop refused) t))

/-- R77, R155. At its tick or before the next one (log entry 47), while the clock is RUNNING, the first entry in queue order
whose hold timer has expired leaves the queue unprotected: its frame goes to the W-port, HOLD_REL_TIMEOUT and HIT_FWD rise, HLD1
is logged with the handle and the release_seq, and the session's release_seq becomes absent. That the PRT1 of a full W-port is
filed before HLD1 is the model's choice (log entry 5). -/
def Obligations.HoldTimeoutReleasesTheFrame : Prop :=
  ∀ (s : State) (pre post : List HoldEntry) (e : HoldEntry), s.tim.running = true → s.hold = pre ++ e :: post →
    e.timer = .running 0 → (∀ d ∈ pre, d.timer ≠ .running 0) →
    let r := recordOf s e.handle
    let s1 := { s with hold := pre ++ post }
    let s2 := if r.handleState = .live ∧ r.epoch = e.epoch
      then setRecord e.handle { r with body := { r.body with releaseSeq := none } } s1 else s1
    ∃ t, exec .holdTimeout s = .next t ∧
      Noticed (report .hld1 { handle := some e.handle, place := none, seq := e.releaseSeq.map BitVec.toNat, gen := none }
        (bump .hitFwd (bump .holdRelTimeout (handToPort .w e.frame s2)))) t

/-! ## The mirror stream (chapter 5) -/

/-- R80, R84, R85, R88, R98, R126. A COMPATIBLE hello on the governing path from a standby peer reaches an ACTIVE, TAKEOVER or
YIELDING part. With BULK_WANTED it opens the CLOSED stream, or, when it shows the adoption of the current generation, restarts
the OPEN one with MIR5: the next generation, everything of the old one cleared, the walk at 0, and a frame begun with BULK_BEGIN
and the live count. Without BULK_WANTED a hello of the current generation marks CREATE, on the OPEN stream, each LIVE handle of
its refresh list. Otherwise the hello does no more than any. That every COMPATIBLE hello sets the peer-seen latch is the model's
reading (log entry 18), as is the PATH that a restart may raise (log entry 20); that MIR5 is filed before the HLD4 of the
restart is its choice (log entry 5). -/
def Obligations.OpeningBeginsAStream : Prop :=
  ∀ (path : PathId) (s : State) (c : Instr) (p : List Byte), Arrives path s c p → byteAt p 0 = 1#8 →
    let h := readHello p
    judgeHello s h (p.length - 38) = .compatible → s.pai.role = .active ∨ s.pai.role = .takeover ∨ s.pai.role = .yielding →
    h.role = 4#8 ∨ h.role = 5#8 → path = .primary ∨ s.pai.primary.up = false → sparseSorted s.tbl.records = true →
    let w := helloTaken path h s
    let wanted := h.flags.getLsbD 0 = true
    let current := h.adoptedGen = s.pai.pairGen
    let gen := laterGen (laterGen s.pai.pairGen h.pairGen) h.adoptedGen + 1#32
    -- an opening, or a restart at the peer's request
    (wanted → s.mir.stream = .closed → ∃ v t, StreamBegun gen w v ∧ exec c s = .next t ∧ Noticed v t) ∧
    (wanted → s.mir.stream = .opened → current → ∃ v t,
      StreamBegun gen (report .mir5 { ErrInfo.none with gen := some gen } w) v ∧ exec c s = .next t ∧ Noticed v t) ∧
    -- the refresh list of a hello of the current generation
    (¬ wanted → s.mir.stream = .opened → current → ∃ u t new, exec c s = .next t ∧ Noticed u t ∧
      u = { w with
        mir := { w.mir with dirty := s.mir.dirty ++ new }
        tbl := { s.tbl with records := u.tbl.records } } ∧
      new.Nodup ∧ new.Sublist (h.refresh.map BitVec.toNat) ∧
      (∀ k, k ∈ new ↔ k ∈ h.refresh.map BitVec.toNat ∧ (recordOf s k).handleState = .live ∧ (recordOf s k).pending = .none) ∧
      (∀ k, recordOf u k =
        if k ∈ h.refresh.map BitVec.toNat ∧ (recordOf s k).handleState = .live ∧ (recordOf s k).pending ≠ .remove
        then { recordOf s k with pending := .create } else recordOf s k)) ∧
    -- no more than any other hello
    ((¬ wanted ∧ s.mir.stream = .closed) ∨ (s.mir.stream = .opened ∧ ¬ current) →
      ∃ t, exec c s = .next t ∧ Noticed w t)

/-- R75, R89 to R92. The delta the builder places next: the live delta of the dirty list's head, a CREATE, UPDATE or REMOVE by
what it is pending; the BULK_RECORD of the first LIVE handle at or above the cursor, or the walk's end; BULK_END once the walk
is ENDING and the list empty; or a due CHECKPOINT. Each is built from the record or the digest as it stands. A delta that does
not fit, a BULK_END among them, closes the open frame and begins the next when the replay queue has room. The frame closes at
once with a CREATE that a held frame waits for, and, with coalesce_time 0, when nothing further is to be placed. That a builder
step with nothing to place, no room or no stream leaves the state as it is, is the model's choice (log entry 34), and so is the
place that the alternation starts from (log entry 38); that a hold entry which has a release_seq keeps it when a frame closes is
its reading of R75 and R92 (log entry 46). That coalesce_time 0 closes the frame while the clock is HALTED too is its choice
(log entry 57). -/
def Obligations.DeltaBuildPlacesTheNextDelta : Prop :=
  ∀ s : State,
    (s.mir.stream = .closed ∨ (s.mir.openFrame = none ∧ 64 ≤ s.mir.replay.length) → exec .deltaBuild s = .next s) ∧
    (∀ fr : OpenFrame, s.mir.stream = .opened →
      s.mir.openFrame = some fr ∨ (s.mir.openFrame = none ∧ s.mir.replay.length < 64 ∧ fr = emptyFrame s) →
      -- with coalesce_time 0 the frame of a state in which nothing further is to be placed closes
      let last := fun (u : State) => s.cfg.coalesceTime = 0 ∧ u.mir.walk = .idle ∧ u.mir.dirty = []
      let closedAfter := fun (u : State) => ∃ fr' v t, u.mir.openFrame = some fr' ∧ Closes fr' u v ∧
        exec .deltaBuild s = .next t ∧ Noticed v t
      -- a live delta
      (∀ h ds, s.mir.dirty = h :: ds → (recordOf s h).pending ≠ .none → s.mir.walk ≠ .walking ∨ s.mir.turn = .liveFirst →
        let size := fr.deltas.length + liveSize (recordOf s h).pending
        let held := (recordOf s h).pending = .create ∧ ∃ e ∈ s.hold, e.handle = h ∧ e.epoch = (recordOf s h).epoch
        (size ≤ 1408 →
          (¬ (held ∨ last (placedLive h fr s)) → exec .deltaBuild s = .next (placedLive h fr s)) ∧
          (held ∨ last (placedLive h fr s) → closedAfter (placedLive h fr s))) ∧
        (1408 < size → ∃ v t, Closes fr s v ∧ exec .deltaBuild s = .next t ∧
          (64 ≤ s.mir.replay.length + 1 → Noticed v t) ∧
          (s.mir.replay.length + 1 < 64 →
            (¬ (held ∨ last (placedLive h (emptyFrame s) v)) → Noticed (placedLive h (emptyFrame s) v) t) ∧
            (held ∨ last (placedLive h (emptyFrame s) v) → ∃ fr' w, (placedLive h (emptyFrame s) v).mir.openFrame = some fr' ∧
              Closes fr' (placedLive h (emptyFrame s) v) w ∧ Noticed w t)))) ∧
      -- a BULK_RECORD
      (s.mir.walk = .walking → s.mir.dirty = [] ∨ s.mir.turn = .bulkNext →
        (∀ h, (s.tbl.liveHandles.find? fun k => decide (s.mir.cursor ≤ k)) = some h →
          (fr.deltas.length + 96 ≤ 1408 → exec .deltaBuild s = .next (placedBulk h fr s)) ∧
          (1408 < fr.deltas.length + 96 → ∃ v t,
            Closes fr { s with mir := { s.mir with cursor := h, turn := .bulkNext } } v ∧ exec .deltaBuild s = .next t ∧
            Noticed (if s.mir.replay.length + 1 < 64 then placedBulk h (emptyFrame s) v else v) t)) ∧
        ((s.tbl.liveHandles.find? fun k => decide (s.mir.cursor ≤ k)) = none →
          exec .deltaBuild s = exec .deltaBuild { s with mir := { s.mir with cursor := 32768, walk := .ending } })) ∧
      -- BULK_END
      (s.mir.walk = .ending → s.mir.dirty = [] → fr.deltas.length + 12 ≤ 1408 →
        let placed := raise .bulk { s with mir := { s.mir with
          walk := .idle
          openFrame := some { fr with deltas := fr.deltas ++
            ([6#8, 0#8, 0#8, 0#8] ++ nat32 s.tbl.liveCount ++ bytes32 s.tbl.digestSum) } } }
        (s.cfg.coalesceTime ≠ 0 → ∃ t, exec .deltaBuild s = .next t ∧ Noticed placed t) ∧
        (s.cfg.coalesceTime = 0 → closedAfter placed)) ∧
      (s.mir.walk = .ending → s.mir.dirty = [] → 1408 < fr.deltas.length + 12 → ∃ v t, Closes fr s v ∧
        exec .deltaBuild s = .next t ∧
        (64 ≤ s.mir.replay.length + 1 → Noticed v t) ∧
        (s.mir.replay.length + 1 < 64 →
          let begun := { emptyFrame s with
            deltas := [6#8, 0#8, 0#8, 0#8] ++ nat32 s.tbl.liveCount ++ bytes32 s.tbl.digestSum }
          let placed := raise .bulk { v with mir := { v.mir with walk := .idle, openFrame := some begun } }
          (s.cfg.coalesceTime ≠ 0 → Noticed placed t) ∧
          (s.cfg.coalesceTime = 0 → ∃ w, Closes begun placed w ∧ Noticed w t))) ∧
      -- a due CHECKPOINT, and nothing to place
      (s.mir.walk = .idle → s.mir.dirty = [] →
        let due := s.mir.openFrame = none ∧ 0 < s.cfg.checkpointInterval ∧ s.cfg.checkpointInterval ≤ s.mir.sinceCheckpoint
        let placed := { s with mir := { s.mir with
          sinceCheckpoint := 0
          openFrame := some { fr with deltas :=
            [7#8, 0#8, 0#8, 0#8] ++ nat32 s.tbl.liveCount ++ bytes32 s.tbl.digestSum } } }
        (due → s.cfg.coalesceTime ≠ 0 → exec .deltaBuild s = .next placed) ∧
        (due → s.cfg.coalesceTime = 0 → closedAfter placed) ∧
        (¬ due → s.cfg.coalesceTime ≠ 0 ∨ s.mir.openFrame = none → exec .deltaBuild s = .next s) ∧
        (¬ due → s.cfg.coalesceTime = 0 → s.mir.openFrame ≠ none → closedAfter s)))

/-- R75, R92, R96, R155. When the coalesce timer of the open frame expires while the clock is RUNNING, the frame closes: it takes
the next sequence and the pair generation, joins the replay queue, gives each of its CREATEs' hold entries and sessions the
sequence as release_seq, and goes out on the data path when there is one. That an entry which has a release_seq keeps it is the
model's reading (log entry 46). -/
def Obligations.CoalesceExpiryClosesTheFrame : Prop :=
  ∀ (s : State) (fr : OpenFrame), s.tim.running = true → s.mir.openFrame = some fr → fr.timer = .running 0 →
    sparseSorted s.tbl.records = true → ∃ u t, Closes fr s u ∧ exec .coalesceTimerExpiry s = .next t ∧ Noticed u t

/-- R39, R76, R94, R95, R97. An ACK on either path is ignored while the stream is CLOSED, when its generation is another, and
when it acknowledges nothing and has no gap flag; one that names a frame not yet sent is MIR1. A taken ACK removes the frames it
names, frees the RETIRED handles of their REMOVEs in order, and releases the held frames whose release_seq is among them. With
the gap flag, when frames remain, they are then sent again, and the count that this begins may be the limit at once, where the
order of the reports (log entry 5) and the PATH of a restart (log entry 20) are the model's choices. -/
def Obligations.AckIsTakenOrIgnored : Prop :=
  ∀ (path : PathId) (s : State) (c : Instr) (p : List Byte), Arrives path s c p → s.pai.role ≠ .detached → byteAt p 0 = 3#8 →
    let next := word16At p 2
    let k := (next - oldestSeq s.mir).toNat
    let gap := (byteAt p 1).getLsbD 0
    (s.mir.stream = .closed ∨ word32At p 4 ≠ s.pai.pairGen ∨ (k = 0 ∧ gap = false) →
      exec c s = .next (bump .ackIgnored (arrived path s))) ∧
    (s.mir.stream = .opened → word32At p 4 = s.pai.pairGen →
      (k = 0 → s.mir.replay = [] → exec c s = .next (bump .ackIgnored (arrived path s))) ∧
      (s.mir.replay.length < k → ∃ t, exec c s = .next t ∧
        Noticed (bump .ackIgnored (report .mir1 (ErrInfo.ofSeq next.toNat) (arrived path s))) t) ∧
      (1 ≤ k → k ≤ s.mir.replay.length → sparseSorted s.tbl.records = true →
        let acked := s.mir.replay.take k
        let left := s.mir.replay.drop k
        let removes := acked.flatMap DataFrame.removes
        let covered := fun (e : HoldEntry) => match e.releaseSeq with
          | none => false
          | some x => (acked.map DataFrame.seq).contains x
        ∃ u t, exec c s = .next t ∧ Touches [.prt, .tbl, .hold, .mir, .flt] s u ∧
          (gap = false ∨ left = [] → Noticed u t) ∧
          (gap = true → left ≠ [] → roomAgain u.mir.dataPath u →
            (s.cfg.replayLimit ≠ 1 → Noticed (resent (some next) u) t) ∧
            (s.cfg.replayLimit = 1 → ∃ v, LimitReached (resent (some next) u) v ∧ Noticed v t)) ∧
          u.mir = { s.mir with
            replay := left, replayCount := 0, gapLatch := none
            replayTimer := if left = [] then .stopped else .running s.cfg.replayTimeout } ∧
          u.hold = (s.hold.filter fun e => !covered e) ∧
          (s.prt.wQueue.length + (s.hold.filter covered).length ≤ 128 →
            u.prt = { s.prt with wQueue := s.prt.wQueue ++ (s.hold.filter covered).map HoldEntry.frame } ∧
            u.flt = { s.flt with counters := u.flt.counters } ∧
            counter u .holdRelAck = satAdd32 (counter s .holdRelAck) (s.hold.filter covered).length ∧
            counter u .hitFwd = satAdd32 (counter s .hitFwd) (s.hold.filter covered).length) ∧
          (removes.Nodup → freeHandles u.tbl.free = freeHandles s.tbl.free ++
            removes.filter fun h => (recordOf s h).handleState == .retired) ∧
          u.tbl.slots = s.tbl.slots ∧ u.tbl.liveCount = s.tbl.liveCount ∧ u.tbl.digestSum = s.tbl.digestSum ∧
          ∀ h, recordOf u h =
            if (recordOf s h).handleState = .retired ∧ h ∈ removes then { Record.fresh with epoch := (recordOf s h).epoch }
            else if (recordOf s h).handleState = .live ∧
                (s.hold.any fun e => covered e && e.handle == h && e.epoch == (recordOf s h).epoch) = true
              then { recordOf s h with body := { (recordOf s h).body with releaseSeq := none } }
            else recordOf s h))

/-- R85, R95 to R98, R155. The replay timer's expiry, taken while the clock is RUNNING, and a gap ACK of either path whose
next_expected the latch does not hold, send every outstanding frame again in order on the data path, on which none need be sent
when it is NONE, and count toward the limit. At the limit the data path is suspended with MIR2: the stream moves to the path
that is left, and without one restarts with MIR3 and the next generation. The order of MIR2 and MIR3 in the one event is the
model's choice (log entry 5), and so is the PATH that the restart may raise (log entry 20). -/
def Obligations.RetransmissionCountsTowardTheLimit : Prop :=
  ∀ s : State, s.mir.stream = .opened → s.mir.replay ≠ [] →
    -- the command c acts on w, the state of its arrival
    let acts := fun (c : Instr) (latch : Option Word16) (w : State) => roomAgain s.mir.dataPath s →
      (s.mir.replayCount + 1 ≠ s.cfg.replayLimit → exec c s = .next (resent latch w)) ∧
      (s.mir.replayCount + 1 = s.cfg.replayLimit → ∃ v t, LimitReached (resent latch w) v ∧ exec c s = .next t ∧ Noticed v t)
    (s.tim.running = true → s.mir.replayTimer = .running 0 → acts .replayTimerExpiry none s) ∧
    (∀ (path : PathId) (c : Instr) (p : List Byte), Arrives path s c p → s.pai.role ≠ .detached → byteAt p 0 = 3#8 →
      word32At p 4 = s.pai.pairGen → word16At p 2 = oldestSeq s.mir → (byteAt p 1).getLsbD 0 = true →
      (s.mir.gapLatch = some (word16At p 2) → exec c s = .next (bump .ackIgnored (arrived path s))) ∧
      (s.mir.gapLatch ≠ some (word16At p 2) → acts c (some (word16At p 2)) (arrived path s)))

/-- R1, R98, R99, R100. While the stream is OPEN the data path follows the rule of R98, and a change sends the outstanding
frames again on the new path. The S-port frame with a bad FCS that brings the count to the threshold suspends the primary
with PAI1, or restarts a suspended primary's revert timer; that timer's expiry and RESUME_PATH end both suspensions, with
MIR4 for what they end. That a revert logs MIR4 for the primary alone is the model's reading (log entry 32), as are that the
expiry's row before its time changes nothing (log entry 2) and the order of the two MIR4 at RESUME_PATH (log entry 5). -/
def Obligations.SuspensionsMoveTheDataPath : Prop :=
  ∀ s : State,
    (s.mir.stream = .opened →
      let c : Option PathId :=
        if s.pai.primary.up = true ∧ s.mir.suspendedPrimary = false then some .primary
        else if s.cfg.tunnelEnable = true ∧ s.pai.secondary.up = true ∧ s.mir.suspendedSecondary = false then some .secondary
        else none
      let n := s.mir.replay.length
      let m := { s.mir with
        dataPath := c, replayCount := 0, gapLatch := none
        replayTimer := if s.mir.replay = [] then .stopped else .running s.cfg.replayTimeout }
      (c = s.mir.dataPath → rechoose s = s) ∧
      (c ≠ s.mir.dataPath →
        (c = none → rechoose s = raise .path { s with mir := m }) ∧
        (c = some .primary → s.prt.sQueue.length + n ≤ 80 → rechoose s = raise .path (bumpBy .dataResent n { s with
          mir := m
          prt := { s.prt with sQueue := s.prt.sQueue ++ s.mir.replay.map fun d => mirrorFrame .primary (dataBytes d) s } })) ∧
        (c = some .secondary → s.prt.wQueue.length + n ≤ 128 → rechoose s = raise .path (bumpBy .dataResent n { s with
          mir := m
          prt := { s.prt with
            wQueue := s.prt.wQueue ++ s.mir.replay.map fun d => mirrorFrame .secondary (dataBytes d) s } })))) ∧
    (let ended := fun (u : State) =>
       { u with mir := { u.mir with suspendedPrimary := false, suspendedSecondary := false, revertElapsed := 0 } }
     (s.mir.suspendedPrimary = true → s.pai.primary.up = true → s.cfg.revertPeriod ≠ 0 →
       (s.tim.running = true → s.cfg.revertPeriod * 1000 ≤ s.mir.revertElapsed → ∃ t, exec .revertTimerExpiry s = .next t ∧
         Noticed (rechoose (ended (report .mir4 (ErrInfo.ofPlace 3) s))) t) ∧
       (s.mir.revertElapsed < s.cfg.revertPeriod * 1000 → exec .revertTimerExpiry s = .next s)) ∧
     (∀ r rest, Commanded 6#8 s r rest →
       (s.pai.role ≠ .detached →
         let s1 := if s.mir.suspendedPrimary = true then report .mir4 (ErrInfo.ofPlace 3) (dequeue rest s) else dequeue rest s
         let s2 := if s.mir.suspendedSecondary = true then report .mir4 (ErrInfo.ofPlace 4) s1 else s1
         ∃ t, exec .resumePath s = .next t ∧ Replied r (Answer.only .ok) (rechoose (ended s2)) t) ∧
       (s.pai.role = .detached → ∃ t, exec .resumePath s = .next t ∧
         Replied r (Answer.only .badState) (dequeue rest s) t))) ∧
    (∀ f : RxFrame, f.fcsGood = false → s.mir.stream = .opened → min (s.mir.fcsCount + 1) 65535 = s.cfg.fcsThreshold →
      let counted := { bump .sFcs s with mir := { s.mir with fcsCount := s.cfg.fcsThreshold } }
      (s.mir.suspendedPrimary = false → ∃ t, exec (.sPortFrameReceive f) s = .next t ∧
        Noticed (rechoose (report .pai1 (ErrInfo.ofPlace 3)
          { counted with mir := { counted.mir with suspendedPrimary := true, revertElapsed := 0 } })) t) ∧
      (s.mir.suspendedPrimary = true →
        exec (.sPortFrameReceive f) s = .next { counted with mir := { counted.mir with revertElapsed := 0 } }))

/-! ## The shadow receiver (chapter 6) -/

/-- R105 to R109. A DATA frame of either path is dropped outside the standby roles, and in them by its generation or while
UNBOUND; a newer one that begins a stream is adopted. Of the adopted generation, a frame ahead or a duplicate is answered by an
ACK at once on its own path, with the gap flag for the first; the next in order is accepted. The deltas of an adopted or
accepted frame, however many, are applied one after another: a malformed one is logged as SHD4, sets BULK_WANTED and ends the
frame's application. While the part is still in a standby role behind them, the frame counts toward the next ACK, and the
eighth, or any with ack_delay 0, is acknowledged at once. That the kind byte of the first delta decides the adoption, and that
the items stand before the deltas, are the model's readings (log entries 23 and 24). That a delta length beyond the frame, or
above 1,408, stands up to the frame's end is its reading too (log entry 42). That a hello is handed to the S-port before the
W-port, and the order of one event's reports, are its choice (log entry 5). -/
def Obligations.DataFrameIsJudged : Prop :=
  ∀ (path : PathId) (s : State) (c : Instr) (p : List Byte), Arrives path s c p → s.pai.role ≠ .detached → byteAt p 0 = 2#8 →
    let gen := word32At p 4
    let seq := word16At p 8
    let d := (seq - s.shd.expectedSeq).toNat
    let ds := slice p 12 (word16At p 2).toNat
    let rx := arrived path s
    let quiet := { s.shd with unacked := 0, ackTimer := .stopped }
    let answers := fun (gap : Byte) (next : Word16) (u : State) => ∃ t, exec c s = .next t ∧
      Noticed (bump .shdAckSent (sendMirror path ([3#8, gap] ++ bytes16 next ++ bytes32 gen) u)) t
    let timer := if s.shd.unacked = 0 then .running s.cfg.ackDelay else s.shd.ackTimer
    -- an accepted frame: its deltas from the state v, then its count toward the next ACK
    let applies := fun (adopting : Bool) (v : State) =>
      ∃ u t, Applied { gen := gen, seq := seq, adopting := adopting } true ds v u ∧ exec c s = .next t ∧
        (u.pai.role.isStandby = false → Noticed u t) ∧
        (u.pai.role.isStandby = true →
          (u.shd.unacked + 1 < 8 → u.cfg.ackDelay ≠ 0 → Noticed { u with shd := { u.shd with
            unacked := u.shd.unacked + 1
            ackTimer := if u.shd.unacked = 0 then .running u.cfg.ackDelay else u.shd.ackTimer } } t) ∧
          (8 ≤ u.shd.unacked + 1 ∨ u.cfg.ackDelay = 0 → Noticed (bump .shdAckSent (sendMirror u.shd.ackPath
            ([3#8, 0#8] ++ bytes16 u.shd.expectedSeq ++ bytes32 u.shd.adoptedGen)
            { u with shd := { u.shd with unacked := 0, ackTimer := .stopped } })) t))
    (s.pai.role.isStandby = false → exec c s = .next (bump .shdRoleDrop rx)) ∧
    (s.pai.role.isStandby = true →
      ((seqAfter gen s.shd.adoptedGen = true ∧ (seq ≠ 0#16 ∨ ds.head? ≠ some 4#8)) ∨
        (seqAfter gen s.shd.adoptedGen = false ∧ (gen ≠ s.shd.adoptedGen ∨ s.shd.bound = false)) →
        exec c s = .next (bump .shdGenDrop rx)) ∧
      (seqAfter gen s.shd.adoptedGen = true → seq = 0#16 → ds.head? = some 4#8 → applies true (bump .shdAccept { rx with
        shd := { s.shd with bound := true, adoptedGen := gen, expectedSeq := 1#16, ackPath := path }
        pai := { s.pai with pairGen := laterGen s.pai.pairGen gen } })) ∧
      -- a frame of a BULK_BEGIN alone
      (s.pai.role = .standbySync → seqAfter gen s.shd.adoptedGen = true → seq = 0#16 → word16At p 2 = 12#16 →
        24 ≤ p.length → byteAt p 12 = 4#8 → (word32At p 16).toNat ≤ 32768 → s.shd.unacked + 1 < 8 → s.cfg.ackDelay ≠ 0 →
        ∃ t, exec c s = .next t ∧ Noticed (raise .bulk { bump .shdAccept rx with
          shd := { s.shd with
            bound := true, adoptedGen := gen, expectedSeq := 1#16, unacked := s.shd.unacked + 1, ackTimer := timer
            ackPath := path, bulkWanted := false, refresh := [], bulkStart := (word32At p 16).toNat }
          pai := { s.pai with pairGen := laterGen s.pai.pairGen gen } }) t) ∧
      (gen = s.shd.adoptedGen → s.shd.bound = true →
        (1 ≤ d → d ≤ 32767 → answers 1#8 s.shd.expectedSeq { bump .shdAhead rx with shd := quiet }) ∧
        (32768 ≤ d → answers 0#8 s.shd.expectedSeq { bump .shdDup rx with shd := quiet }) ∧
        (d = 0 → applies false (bump .shdAccept { rx with
          shd := { s.shd with expectedSeq := seq + 1#16, ackPath := path } })) ∧
        -- a frame of no delta
        (d = 0 → word16At p 2 = 0#16 →
          (s.shd.unacked + 1 < 8 → s.cfg.ackDelay ≠ 0 → exec c s = .next { bump .shdAccept rx with
            shd := { s.shd with
              expectedSeq := seq + 1#16, ackPath := path, unacked := s.shd.unacked + 1, ackTimer := timer } }) ∧
          (8 ≤ s.shd.unacked + 1 ∨ s.cfg.ackDelay = 0 → answers 0#8 (seq + 1#16) { bump .shdAccept rx with
            shd := { quiet with expectedSeq := seq + 1#16, ackPath := path } }))))

/-- R109, R111, R112, R117, with R44 to R46. An UPDATE of the LIVE record of its epoch overwrites state, fin_order and both
trackers and sets gen and last_seen, keeping the rest; one whose state the record's protocol does not have is malformed. A
REMOVE of that record removes the session with reason REMOTE. An UPDATE or REMOVE of another epoch, or of a handle that is not
LIVE, reads no record: the UPDATE is an orphan, counted, and its handle joins the refresh list; the REMOVE is ignored and
counted. A damaged body of the record that the delta would change costs the session with TBL2, and the delta then finds it gone;
a damaged anchor is TBL3. That such a delta checks both parities of the record it changes is the model's reading (log entry 25),
and so is the role change before the table is cleared (log entry 15). The order in which a role change files its errors and
hands its frames over is the model's choice (log entry 5). That a session whose held frame a role change discards loses its
release_seq is the model's reading (log entry 21). -/
def Obligations.UpdateAndRemoveDeltasAreApplied : Prop :=
  ∀ (id : FrameId) (first : Bool) (h : Nat) (epoch : Word16) (i : Image) (s : State), s.pai.role.isStandby = true →
    let r := recordOf s h
    let named := r.handleState = .live ∧ r.epoch = epoch
    let updated := applyDelta id first (.update h epoch i) s
    let removed := applyDelta id first (.remove h epoch) s
    let without := fun (u : State) => { u with shd := { u.shd with refresh := u.shd.refresh.filter fun k => k != h } }
    (named → recordIntact s h →
      ((r.body.origKey.proto = 6#8 ↔ i.state ≠ .flow) →
        updated = some (setRecord h { r with body := { r.body with
          state := i.state, finOrder := i.finOrder, dirOrig := i.dirOrig, dirReply := i.dirReply, gen := s.shd.adoptedGen
          lastSeen := s.tim.seconds } } s)) ∧
      (¬ (r.body.origKey.proto = 6#8 ↔ i.state ≠ .flow) → updated = none) ∧
      (sparseSorted s.tbl.records = true → sparseSorted s.tbl.slots = true →
        ∃ u, removed = some (without u) ∧ Removed h .remote r.body.mirrored.isSome s u)) ∧
    (¬ named → updated = some (joinRefresh h (bump .shdOrphan s)) ∧ removed = some (without (bump .shdRemIgnored s))) ∧
    -- a damaged record of its epoch
    (named → sparseSorted s.tbl.records = true → sparseSorted s.tbl.slots = true →
      (r.anchorGood = true → r.bodyGood = false → ∃ u,
        Removed h .parity true (bump .parityRecord (report .tbl2 (ErrInfo.ofHandle h) s)) u ∧
        updated = some (joinRefresh h (bump .shdOrphan (joinRefresh h u))) ∧
        removed = some (without (bump .shdRemIgnored (joinRefresh h u)))) ∧
      (r.anchorGood = false → ∃ u,
        RoleChanged s.pai.role .faulted .faultError (report .tbl3 (ErrInfo.ofHandle h) (bump .parityRecord s)) u ∧
        updated = some (bumpBy .holdDropRemoved u.hold.length { u with tbl := Tbl.cleared, hold := [] }) ∧
        removed = updated)) ∧
    -- the refresh list
    (∀ u : State,
      (h ∈ u.shd.refresh → joinRefresh h u = u) ∧
      (h ∉ u.shd.refresh → u.shd.refresh.length < 16 →
        joinRefresh h u = { u with shd := { u.shd with refresh := u.shd.refresh ++ [h] } }) ∧
      (h ∉ u.shd.refresh → 16 ≤ u.shd.refresh.length →
        let full := report .shd2 (ErrInfo.ofHandle h) u
        joinRefresh h u = if u.shd.bulkWanted = true then full
          else sendHello { full with shd := { u.shd with bulkWanted := true } }))

/-- R47, R109, R110. A placement overwrites the same session in place, keeping its counters and its slots. Otherwise another
session of the handle, and then each session of another handle that a lookup of orig_key and of reply_key finds, is removed
with reason STALE; the handle leaves the free list, both keys go to their slots and a new record with counters 0 is stored; and
when the keys find no place, SHD3 is logged and the handle joins the refresh list. A CREATE or BULK_RECORD against the zones, in
its keys, its state or its class is malformed. The conditions of a well-formed delta are the model's reading (log entry 22), as
are the parity checks (log entry 25). -/
def Obligations.PlacementWritesTheRecord : Prop :=
  ∀ (id : FrameId) (first : Bool) (h : Nat) (epoch : Word16) (w : Whole) (s : State), s.pai.role.isStandby = true →
    let r := recordOf s h
    let placed := applyDelta id first (.place h epoch w) s
    let zoneOn := fun (k : Key) => ∃ p ∈ enabledZones s.zones, p.1 = k.zone.toNat
    let fits := zoneOn w.origKey ∧ zoneOn w.replyKey ∧ w.origKey ≠ w.replyKey ∧ w.origKey.proto = w.replyKey.proto ∧
      (if w.origKey.proto = 6#8 then w.image.state ≠ .flow ∧ w.flowClass = 0
       else w.image.state = .flow ∧ 4 ≤ w.flowClass ∧ w.flowClass ≤ 7)
    let same := r.handleState = .live ∧ r.epoch = epoch ∧ r.body.origKey = w.origKey ∧ r.body.replyKey = w.replyKey
    let without := fun (u : State) => { u with shd := { u.shd with refresh := u.shd.refresh.filter fun k => k != h } }
    let carried := fun (b : Body) => { b with
      state := w.image.state, finOrder := w.image.finOrder, dirOrig := w.image.dirOrig, dirReply := w.image.dirReply
      origKey := w.origKey, replyKey := w.replyKey, nextHopOrig := w.nextHopOrig, nextHopReply := w.nextHopReply
      flowClass := if w.origKey.proto = 6#8 then none else some w.flowClass
      gen := s.shd.adoptedGen, lastSeen := s.tim.seconds }
    -- the insert, from a state u in which nothing stands in its way
    let inserted := fun (u : State) =>
      (∀ t p q, u.tbl.insertKeys s.cfg.hashSeed w.origKey w.replyKey h = some (t, p, q) →
        placed = some (without
          (bumpBy .stashInsert ((if 65536 ≤ p then 1 else 0) + (if 65536 ≤ q then 1 else 0)) { u with tbl := { t with
            records := putRecord u.tbl.records h
              { handleState := .live, epoch := epoch, pending := .none, removalReason := none, slotOrig := p, slotReply := q
                anchorGood := true, body := carried Body.cleared, bodyGood := true }
            free := freeTake u.tbl.free h
            liveCount := u.tbl.liveCount + 1
            digestSum := u.tbl.digestSum + BitVec.ofNat 32 (h * 65536 + epoch.toNat) } }))) ∧
      (u.tbl.insertKeys s.cfg.hashSeed w.origKey w.replyKey h = none →
        placed = some (joinRefresh h (report .shd3 (ErrInfo.ofHandle h) u)))
    -- the lookup of a key of the delta, and the removal of the session that holds it
    let cleared := fun (k : Key) (a b : State) => (Misses a k ∧ b = a) ∨ ∃ h' d, Finds a k h' d ∧ h' ≠ h ∧
      Removed h' .stale (recordOf a h').body.mirrored.isSome a b
    (¬ fits → placed = none) ∧
    (fits → recordIntact s h →
      (same → placed = some (without (setRecord h { r with body := carried r.body } s))) ∧
      (r.handleState = .free → Misses s w.origKey → Misses s w.replyKey → inserted s) ∧
      (¬ same → (∀ k, recordIntact s k) → slotsIntact s w.origKey → slotsIntact s w.replyKey → TableLaw s.tbl →
        SlotLaw s.tbl → ∃ u0 u1 u2,
          ((r.handleState ≠ .live ∧ u0 = s) ∨ (r.handleState = .live ∧ Removed h .stale r.body.mirrored.isSome s u0)) ∧
          cleared w.origKey u0 u1 ∧ cleared w.replyKey u1 u2 ∧ inserted u2))

/-- R113 to R116, R108, R135. A CHECKPOINT, alone in the next frame of the adopted generation on either path, compares the
table's digest with the values it carries and records the comparison. A match is counted; a mismatch is counted, logged as SHD1
with the generation and the sequence, and sets BULK_WANTED, which at its change sends a hello. The role stays. A BULK_BEGIN that
is not the first delta of a frame being adopted is malformed; one that is clears BULK_WANTED and the refresh list, keeps its
live count, raises BULK, and takes STANDBY_READY to STANDBY_SYNC. A BULK_END purges every LIVE session of another generation,
compares as a CHECKPOINT does, raises BULK, and on a match takes STANDBY_SYNC to STANDBY_READY. The order of one event's effects
is the model's choice (log entry 24). The order in which a role change files its errors and hands its frames over is the model's
choice (log entry 5). That a session whose held frame a role change discards loses its release_seq is the model's reading (log
entry 21). -/
def Obligations.CheckpointComparesTheDigest : Prop :=
  (∀ (path : PathId) (s : State) (c : Instr) (p : List Byte), Arrives path s c p → byteAt p 0 = 2#8 →
    s.pai.role.isStandby = true → s.shd.bound = true → word32At p 4 = s.shd.adoptedGen →
    word16At p 8 = s.shd.expectedSeq → word16At p 2 = 12#16 → 24 ≤ p.length → byteAt p 12 = 7#8 →
    (word32At p 16).toNat ≤ 32768 → s.shd.unacked + 1 < 8 → s.cfg.ackDelay ≠ 0 →
    let count := word32At p 16
    let sum := word32At p 20
    let same := BitVec.ofNat 32 s.tbl.liveCount = count ∧ s.tbl.digestSum = sum
    let compared : Comparison :=
      { kind := .checkpoint, matched := decide same, gen := s.shd.adoptedGen, seq := s.shd.expectedSeq
        receivedCount := count, receivedSum := sum, localCount := BitVec.ofNat 32 s.tbl.liveCount
        localSum := s.tbl.digestSum }
    let shd := { s.shd with
      expectedSeq := s.shd.expectedSeq + 1#16, ackPath := path, unacked := s.shd.unacked + 1
      ackTimer := if s.shd.unacked = 0 then .running s.cfg.ackDelay else s.shd.ackTimer
      lastCompare := some compared }
    let info : ErrInfo :=
      { handle := none, place := none, seq := some s.shd.expectedSeq.toNat, gen := some s.shd.adoptedGen }
    let taken := bump .shdAccept (arrived path s)
    (same → exec c s = .next { bump .shdDigestOk taken with shd := shd }) ∧
    (¬ same →
      (s.shd.bulkWanted = true → ∃ t, exec c s = .next t ∧
        Noticed (report .shd1 info { bump .shdDigestBad taken with shd := shd }) t) ∧
      (s.shd.bulkWanted = false → ∃ t, exec c s = .next t ∧ Touches (.shd :: .pai :: noticeBlocks) s t ∧
        t.shd = { shd with bulkWanted := true } ∧ t.pai = { s.pai with helloTimer := .running s.cfg.helloInterval } ∧
        t.flt.logDegraded = s.flt.logDegraded.report .shd1 info s.tim.seconds s.tim.ms ∧
        t.flt.flags.getLsbD Flag.errDegraded.bit = true ∧
        counter t .shdDigestBad = satAdd32 (counter s .shdDigestBad) 1 ∧
        (s.prt.sQueue.length < 80 → t.prt.sQueue = s.prt.sQueue ++
          [mirrorFrame .primary (helloBytes (buildHello { s with shd := { s.shd with bulkWanted := true } })) s])))) ∧
  -- BULK_BEGIN
  (∀ (id : FrameId) (first : Bool) (count : Word32) (s : State),
    let begun := raise .bulk { s with shd := { s.shd with bulkWanted := false, refresh := [], bulkStart := count.toNat } }
    (first = false ∨ id.adopting = false → applyDelta id first (.bulkBegin count) s = none) ∧
    (first = true → id.adopting = true →
      (s.pai.role = .standbySync → applyDelta id first (.bulkBegin count) s = some begun) ∧
      (s.pai.role = .standbyReady → ∃ t, applyDelta id first (.bulkBegin count) s = some t ∧
        RoleChanged .standbyReady .standbySync .bulkBegin begun t))) ∧
  -- BULK_END
  (∀ (id : FrameId) (first : Bool) (count sum : Word32) (s : State), s.pai.role.isStandby = true → Safe s →
    sparseSorted s.tbl.records = true → sparseSorted s.tbl.slots = true →
    (∀ h, (recordOf s h).handleState = .live → recordIntact s h) →
    let stale := fun (h : Nat) => (recordOf s h).handleState = .live ∧ (recordOf s h).body.gen ≠ s.shd.adoptedGen
    let purged := s.tbl.liveHandles.filter fun h => (recordOf s h).body.gen != s.shd.adoptedGen
    ∃ v : State, v = { s with tbl := v.tbl, flt := { s.flt with counters := v.flt.counters } } ∧
      (∀ h, recordOf v h = if stale h then { Record.fresh with epoch := (recordOf s h).epoch } else recordOf s h) ∧
      (∀ q, ((∃ h, stale h ∧ (q = (recordOf s h).slotOrig ∨ q = (recordOf s h).slotReply)) → v.tbl.slot q = none) ∧
        ((∀ h, stale h → q ≠ (recordOf s h).slotOrig ∧ q ≠ (recordOf s h).slotReply) → v.tbl.slot q = s.tbl.slot q)) ∧
      freeHandles v.tbl.free = freeHandles s.tbl.free ++ purged ∧
      v.tbl.liveCount = s.tbl.liveCount - purged.length ∧
      v.tbl.digestSum = s.tbl.digestSum -
        (purged.map fun h => BitVec.ofNat 32 (h * 65536 + (recordOf s h).epoch.toNat)).sum ∧
      counter v .remPurge = satAdd32 (counter s .remPurge) purged.length ∧
      (∀ c, c.pos ≠ Ctr.remPurge.pos → counter v c = counter s c) ∧
      let same := BitVec.ofNat 32 v.tbl.liveCount = count ∧ v.tbl.digestSum = sum
      let c : Comparison :=
        { kind := .bulkEnd, matched := decide same, gen := id.gen, seq := id.seq, receivedCount := count, receivedSum := sum
          localCount := BitVec.ofNat 32 v.tbl.liveCount, localSum := v.tbl.digestSum }
      let compared : State := { v with shd := { s.shd with lastCompare := some c } }
      let bad := report .shd1 { handle := none, place := none, seq := some id.seq.toNat, gen := some id.gen }
        (bump .shdDigestBad compared)
      let matching := raise .bulk (bump .shdDigestOk compared)
      (same → s.pai.role = .standbyReady → applyDelta id first (.compare .bulkEnd count sum) s = some matching) ∧
      (same → s.pai.role = .standbySync → ∃ t, applyDelta id first (.compare .bulkEnd count sum) s = some t ∧
        RoleChanged .standbySync .standbyReady .bulkMatch matching t) ∧
      (¬ same → applyDelta id first (.compare .bulkEnd count sum) s = some (raise .bulk
        (if s.shd.bulkWanted = true then bad else sendHello { bad with shd := { bad.shd with bulkWanted := true } }))))

/-! ## Pairing and roles (chapter 7) -/

/-- R10, R108, R122, R123, R149, R150, R155. While the clock is RUNNING the ack timer's expiry sends the pending ACK on the path
of the last accepted frame; the hello timer's expiry builds one hello from the items as they stand and sends it on both paths;
the spacing timer's expiry sends the next round of the burst, one announcement for each announcing zone, and ends it at the
last. A mirror frame goes to the peer's station MAC, or to broadcast while none is known: untagged on the S-port, and on the
W-port with sync_vlan, where nothing is sent with tunnel_enable off. An announcement is a broadcast ARP request for the zone's
address from its virtual MAC, tagged unless its VLAN is default_vlan. Each is padded to 64 bytes with its FCS; the bit of a tag
between the priority and the VLAN id is a free value (log entry 6). That a hello is handed to the S-port before the W-port,
which decides the first PRT1 when both are full, is the model's choice (log entry 5). -/
def Obligations.TimersThatSendAFrame : Prop :=
  (∀ s : State, s.tim.running = true →
    (s.shd.ackTimer = .running 0 → ∃ t, exec .ackTimerExpiry s = .next t ∧
      Noticed (bump .shdAckSent (sendMirror s.shd.ackPath
        ([3#8, 0#8] ++ bytes16 s.shd.expectedSeq ++ bytes32 s.shd.adoptedGen)
        { s with shd := { s.shd with unacked := 0, ackTimer := .stopped } })) t) ∧
    (s.pai.helloTimer = .running 0 → s.pai.role ≠ .detached →
      let hello : Hello :=
        { flags := (if s.shd.bulkWanted = true then 1#8 else 0#8) ||| (if s.pai.yieldFlag = true then 2#8 else 0#8)
          stationId := BitVec.ofNat 16 s.cfg.stationId, stationMac := s.cfg.stationMac
          priority := BitVec.ofNat 8 s.cfg.priority, role := BitVec.ofNat 8 s.pai.role.code, revision := 3#8
          count := BitVec.ofNat 8 s.shd.refresh.length, pairGen := s.pai.pairGen, adoptedGen := s.shd.adoptedGen
          handleCount := 32768#32, slotCount := 65568#32, zoneDigest := zoneDigest s.zones
          liveCount := BitVec.ofNat 32 s.tbl.liveCount, refresh := s.shd.refresh.map (BitVec.ofNat 16) }
      let primary := handToPort .s (mirrorFrame .primary (helloBytes hello) s) s
      let both := if s.cfg.tunnelEnable = true
        then handToPort .w (mirrorFrame .secondary (helloBytes hello) s) primary else primary
      ∃ t, exec .helloTimerExpiry s = .next t ∧
        Noticed { both with pai := { s.pai with helloTimer := .running s.cfg.helloInterval } } t) ∧
    (∀ n, s.tko.burst = .running n (.running 0) →
      let round := (announcingZones s.zones).foldl
        (fun u z => bump .announceSent (handToPort .w (announcement s.cfg z) u)) s
      ∃ t, exec .announceSpacingExpiry s = .next t ∧ Noticed { round with tko := { s.tko with
        burst := if n ≤ 1 then .idle else .running (n - 1) (.running s.cfg.announceSpacing) } } t)) ∧
  -- the bytes of these frames
  (∃ bit : Bool, ∀ (s : State) (m : List Byte),
    let header := bytes48 (s.prt.peerMac.getD 0xFFFFFFFFFFFF#48) ++ bytes48 s.cfg.stationMac
    let plain := header ++ bytes16 s.cfg.mirrorEthertype ++ m
    let tagged := header ++ [0x81#8, 0x00#8] ++ bytes16 (0#3 ++ BitVec.ofBool bit ++ BitVec.ofNat 12 s.cfg.syncVlan) ++
      bytes16 s.cfg.mirrorEthertype ++ m
    mirrorFrame .primary m s = plain ++ zeros (60 - plain.length) ∧
    mirrorFrame .secondary m s = tagged ++ zeros (60 - tagged.length) ∧
    sendMirror .primary m s = handToPort .s (mirrorFrame .primary m s) s ∧
    sendMirror .secondary m s =
      if s.cfg.tunnelEnable = true then handToPort .w (mirrorFrame .secondary m s) s else s) ∧
  (∃ bit : Bool, ∀ (cfg : ConfigRec) (z : Zone),
    let tag := if z.vlan = cfg.defaultVlan then []
      else [0x81#8, 0x00#8] ++ bytes16 (0#3 ++ BitVec.ofBool bit ++ BitVec.ofNat 12 z.vlan)
    let whole := bytes48 0xFFFFFFFFFFFF#48 ++ bytes48 z.mac ++ tag ++
      [0x08#8, 0x06#8, 0#8, 1#8, 0x08#8, 0x00#8, 6#8, 4#8, 0#8, 1#8] ++ bytes48 z.mac ++ bytes32 z.ip ++ zeros 6 ++ bytes32 z.ip
    announcement cfg z = whole ++ zeros (60 - whole.length))

/-- R125. In DETACHED no hello reaches the pairing controller. In every other role a hello of either path is judged by the first
row that it meets, and the judgment is latched in its path. One that is not COMPATIBLE changes that judgment alone: PAI2 is
logged with the path and PEER raised when the judgment changes, and nothing happens when it does not. A COMPATIBLE one raises
PEER when the judgment changes, without PAI2, and then acts by R126 and R127. -/
def Obligations.HelloIsJudgedByTheFirstRow : Prop :=
  ∀ (path : PathId) (s : State) (c : Instr) (p : List Byte), Arrives path s c p → byteAt p 0 = 1#8 →
    let h := readHello p
    let self := h.stationId = BitVec.ofNat 16 s.cfg.stationId
    let revision := h.revision ≠ 3#8 ∨ h.role = 0#8 ∨ 8 < h.role.toNat ∨ 16 < h.count.toNat ∨
      p.length - 38 < 2 * h.count.toNat
    let geometry := h.handleCount ≠ 32768#32 ∨ h.slotCount ≠ 65568#32
    let zones := h.zoneDigest ≠ zoneDigest s.zones
    -- the judgment j latched: nothing moves when the path held it
    let latched := fun (j : Judgment) => if (s.pai.path path).judgment = j then arrived path s
      else raise .peer { arrived path s with pai := s.pai.setPath path { s.pai.path path with judgment := j } }
    let judged := fun (j : Judgment) => judgeHello s h (p.length - 38) = j ∧ ∃ t, exec c s = .next t ∧
      Noticed (if (s.pai.path path).judgment = j then arrived path s
        else report .pai2 (ErrInfo.ofPlace (match path with | .primary => 3 | .secondary => 4)) (latched j)) t
    (s.pai.role = .detached → ∃ t, exec c s = .next t ∧ Touches noticeBlocks s t) ∧
    (s.pai.role ≠ .detached →
      (self → judged .self) ∧ (¬ self → revision → judged .revision) ∧ (¬ self → ¬ revision → geometry → judged .geometry) ∧
      (¬ self → ¬ revision → ¬ geometry → zones → judged .zones) ∧
      (¬ self → ¬ revision → ¬ geometry → ¬ zones → judgeHello s h (p.length - 38) = .compatible ∧
        ∃ t, exec c s = .next t ∧ Noticed (takeHello path h (latched .compatible)) t))

/-- R9, R10, R86, R125 to R129, R132 to R135, R137. A COMPATIBLE hello on either path brings the path UP, and is noted with what
follows for the data path. On the path that does not govern it does no more. On the governing path it becomes the peer record;
one that shows no standby role closes the stream; and the role moves by the role that the hello shows: from LISTEN to
STANDBY_SYNC or ACTIVE; from SOLO, ACTIVE and YIELDING to STANDBY_SYNC at a peer in TAKEOVER or, with PAI3, at a lost dual
activity, from SOLO to ACTIVE at a standby or listening peer, from ACTIVE and YIELDING to SOLO at a FAULTED peer, and from
YIELDING to ACTIVE, with PAI6, at a listening one; from the standby roles to TAKEOVER; from TAKEOVER to STANDBY_SYNC at a lost
election. Otherwise it stays. The higher priority wins, and of equal ones the lower station id. What a standby peer's hello does
to an ACTIVE, TAKEOVER or YIELDING part is stated with the opening of a stream. That held frames go by the role behind the hello
when it closes the stream, that every COMPATIBLE hello sets the peer-seen latch, that an entry to STANDBY_SYNC which sets
BULK_WANTED sends one hello, and that PAI3 is logged at a lost dual activity and not at a TAKEOVER or a dual takeover, are the
model's readings (log entries 17, 18, 39 and 40). The cause that is recorded when one hello is two events of R135, and the order
in which a role change files its errors and hands its frames over, are its choices (log entries 59 and 5). That a session whose
held frame a role change discards loses its release_seq is the model's reading (log entry 21). -/
def Obligations.HelloInListenMovesTheRole : Prop :=
  ∀ (path : PathId) (s : State) (c : Instr) (p : List Byte), Arrives path s c p → byteAt p 0 = 1#8 → Safe s →
    s.pai.role ≠ .detached →
    let h := readHello p
    judgeHello s h (p.length - 38) = .compatible →
    let governs := path = .primary ∨ s.pai.primary.up = false
    let wins := h.priority.toNat < s.cfg.priority ∨
      (h.priority.toNat = s.cfg.priority ∧ s.cfg.stationId < h.stationId.toNat)
    let place := match path with | .primary => 3 | .secondary => 4
    ∃ v, v = helloTaken path h s ∧
      (¬ governs → ∃ t, exec c s = .next t ∧ Noticed v t) ∧
      (governs →
        let role := s.pai.role
        let shown := h.shownRole
        let standbyShown := shown = some .standbySync ∨ shown = some .standbyReady
        let activeShown := shown = some .solo ∨ shown = some .active ∨ shown = some .yielding
        let closed := fun (after : Role) (w : State) =>
          (s.mir.stream = .closed → w = v) ∧ (s.mir.stream = .opened → StreamClosed after v w)
        let stays := ∃ w t, closed role w ∧ exec c s = .next t ∧ Noticed w t
        let reports := fun (to_ : Role) (cause : Cause) (filed : State → State) =>
          ∃ w u t, closed to_ w ∧ exec c s = .next t ∧ RoleChanged role to_ cause (filed w) u ∧ Noticed u t
        let moves := fun (to_ : Role) (cause : Cause) => reports to_ cause id
        let dual := if wins then stays else reports .standbySync .dualActive (report .pai3 (ErrInfo.ofPlace place))
        (role = .listen →
          (activeShown ∨ shown = some .takeover → moves .standbySync .peerActive) ∧
          (shown = some .listen → if wins then moves .active .electionWon else moves .standbySync .electionLost) ∧
          (standbyShown → moves .active .peerStandby) ∧
          (shown = some .faulted → stays)) ∧
        (role = .solo →
          (standbyShown ∨ shown = some .listen → moves .active .peerStandby) ∧
          (shown = some .takeover → moves .standbySync .peerTakeover) ∧
          (activeShown → dual) ∧
          (shown = some .faulted → stays)) ∧
        (role = .active ∨ role = .yielding →
          (shown = some .takeover → moves .standbySync .peerTakeover) ∧
          (activeShown → dual) ∧
          (shown = some .faulted → moves .solo .peerUnusable) ∧
          (shown = some .listen → if role = .active then stays
            else reports .active .yieldAbandoned (report .pai6 (ErrInfo.ofPlace place)))) ∧
        (role = .standbySync ∨ role = .standbyReady →
          let latched := fun (w : State) => if activeShown ∨ shown = some .takeover
            then { w with pai := { w.pai with peerActiveSeen := true } } else w
          if shown = some .faulted then moves .takeover .peerUnusable
          else if h.flags.getLsbD 1 = true then reports .takeover .yieldFlag latched
          else if s.pai.peerActiveSeen = true ∧ shown = some .listen then moves .takeover .peerListen
          else if s.pai.peerActiveSeen = true ∧ standbyShown then moves .takeover .peerStandby
          else ∃ t, exec c s = .next t ∧ Noticed (latched v) t) ∧
        (role = .takeover →
          (shown = some .takeover → if wins then stays else moves .standbySync .dualTakeover) ∧
          (activeShown ∨ shown = some .listen ∨ shown = some .faulted → stays)) ∧
        (role = .faulted → stays))

/-- R186. The bytes of a hello read back as that hello: no field is dropped or misplaced. -/
def Obligations.HelloReadsBack : Prop :=
  ∀ (h : Hello) (rest : List Byte), h.refresh.length = h.count.toNat → h.refresh.length ≤ 16 →
    readHello (helloBytes h ++ rest) = h ∧ byteAt (helloBytes h) 0 = 1#8 ∧
    (helloBytes h).length = 38 + 2 * h.refresh.length

/-- R186, R109. The bytes that the builder writes for a delta read back as that delta, with every field of it, and leave the
bytes behind it. Bytes whose first names no kind, that are fewer than the kind's size, that name a handle above 32,767, a state,
a fin_order or a reason without a code, a next hop that is not unicast, or a scale, a window or a count out of its range, are
no delta. That a next hop, a window or a count makes a delta malformed is the model's reading (log entry 22). -/
def Obligations.DeltaReadsBack : Prop :=
  (∀ (h : Nat) (r : Record) (rest : List Byte), h < 32768 →
    let b := r.body
    let inRange := fun (d : DirTracker) => d.wscale.toNat ≤ 14 ∧ d.maxWin.toNat ≤ 2 ^ 30
    let image : Image := { state := b.state, finOrder := b.finOrder, dirOrig := b.dirOrig, dirReply := b.dirReply }
    (b.state ≠ .none → inRange b.dirOrig → inRange b.dirReply →
      readDelta (updateBytes 2#8 h r ++ rest) = some (.update h r.epoch image, rest) ∧
      (isUnicast b.nextHopOrig = true → isUnicast b.nextHopReply = true → b.flowClass.getD 0 < 256 →
        ∀ kind, kind = 1#8 ∨ kind = 5#8 → readDelta (createBytes kind h r ++ rest) =
          some (.place h r.epoch
            { image := image, origKey := b.origKey, replyKey := b.replyKey, nextHopOrig := b.nextHopOrig
              nextHopReply := b.nextHopReply, flowClass := b.flowClass.getD 0 }, rest))) ∧
    (∀ reason, reason = .management ∨ reason = .expired ∨ reason = .reopen ∨ reason = .parity →
      r.removalReason = some reason → readDelta (removeBytes h r ++ rest) = some (.remove h r.epoch, rest)) ∧
    (∀ s : State, s.tbl.liveCount ≤ 32768 →
      readDelta (digestBytes 6#8 s ++ rest) =
        some (.compare .bulkEnd (BitVec.ofNat 32 s.tbl.liveCount) s.tbl.digestSum, rest) ∧
      readDelta (digestBytes 7#8 s ++ rest) =
        some (.compare .checkpoint (BitVec.ofNat 32 s.tbl.liveCount) s.tbl.digestSum, rest) ∧
      readDelta ((bulkBeginFrame s).deltas ++ rest) = some (.bulkBegin (BitVec.ofNat 32 s.tbl.liveCount), rest))) ∧
  -- the bytes that are no delta
  (∀ bs : List Byte,
    let kind := (byteAt bs 0).toNat
    let outOfRange := fun (i : Nat) => 14 < (byteAt bs i).toNat % 16 ∨ 2 ^ 30 < (word32At bs (i + 13)).toNat
    (kind = 0 ∨ 7 < kind → readDelta bs = none) ∧
    (kind = 3 → bs.length < 8 → readDelta bs = none) ∧
    (kind = 4 ∨ kind = 6 ∨ kind = 7 → bs.length < 12 ∨ 32768 < (word32At bs 4).toNat → readDelta bs = none) ∧
    (kind = 2 → bs.length < 48 → readDelta bs = none) ∧
    (kind = 1 ∨ kind = 5 → bs.length < 96 ∨ isUnicast (macAt bs 80) = false ∨ isUnicast (macAt bs 86) = false →
      readDelta bs = none) ∧
    (kind = 1 ∨ kind = 2 ∨ kind = 3 ∨ kind = 5 → 32768 ≤ (word16At bs 2).toNat → readDelta bs = none) ∧
    (kind = 1 ∨ kind = 2 ∨ kind = 5 → (byteAt bs 1).toNat % 16 = 0 ∨ 8 ≤ (byteAt bs 1).toNat % 16 ∨
      (byteAt bs 1).toNat / 16 % 4 = 3 ∨ outOfRange 6 ∨ outOfRange 27 → readDelta bs = none) ∧
    (kind = 3 → (byteAt bs 1).toNat = 0 ∨ 4 < (byteAt bs 1).toNat → readDelta bs = none))

/-- R86, R126, R128, R133, R135, R155. When a path's dead timer expires while the clock is RUNNING, the path goes DOWN with
PAI4. While the other is UP the peer stays and only the data path is chosen anew. At the last UP path the peer is lost: an OPEN
stream closes, a standby part takes over (R143 to R150: TKO_ENTER, TKO1 from STANDBY_SYNC, the first round of announcements),
and an ACTIVE or YIELDING part goes to SOLO. That held frames go by the new role is the model's reading (log entry 17). The
order in which a role change files its errors and hands its frames over is the model's choice (log entry 5). That a session
whose held frame a role change discards loses its release_seq is the model's reading (log entry 21). -/
def Obligations.DeadTimerTakesThePathDown : Prop :=
  ∀ (path : PathId) (s : State), s.tim.running = true → (s.pai.path path).deadTimer = .running 0 →
    (s.pai.path path).up = true →
    let down : PathState := { s.pai.path path with up := false, deadTimer := .stopped }
    let otherUp := match path with | .primary => s.pai.secondary.up | .secondary => s.pai.primary.up
    let noted := raise .path (report .pai4 (ErrInfo.ofPlace (match path with | .primary => 3 | .secondary => 4))
      { s with pai := match path with
        | .primary => { s.pai with primary := down }
        | .secondary => { s.pai with secondary := down } })
    (otherUp = true → ∃ t, exec (.deadTimerExpiry path) s = .next t ∧ Noticed (rechoose noted) t) ∧
    (otherUp = false → Safe s →
      let lost := raise .peer noted
      let closed := fun (after : Role) (w : State) =>
        (s.mir.stream = .closed → w = lost) ∧ (s.mir.stream = .opened → StreamClosed after lost w)
      let moves := fun (to_ : Role) => ∃ w u t, closed to_ w ∧ exec (.deadTimerExpiry path) s = .next t ∧
        RoleChanged s.pai.role to_ .peerLost w u ∧ Noticed u t
      (s.pai.role = .standbySync ∨ s.pai.role = .standbyReady → moves .takeover) ∧
      (s.pai.role = .active ∨ s.pai.role = .yielding → moves .solo) ∧
      (s.pai.role = .listen ∨ s.pai.role = .solo ∨ s.pai.role = .takeover ∨ s.pai.role = .faulted →
        ∃ w t, closed s.pai.role w ∧ exec (.deadTimerExpiry path) s = .next t ∧ Noticed w t))

/-- R132, R137, R147, R155. While the clock is RUNNING the listen timer's expiry takes LISTEN to SOLO, with the first round of
announcements (R148); the grace timer's takes TAKEOVER to ACTIVE when the peer is usable, and to SOLO otherwise. The order in
which a role change files its errors and hands its frames over is the model's choice (log entry 5). -/
def Obligations.ListenAndGraceEndInARole : Prop :=
  ∀ s : State, s.tim.running = true →
    (s.pai.role = .listen → s.pai.listenTimer = .running 0 → ∃ u t, exec .listenTimerExpiry s = .next t ∧
      RoleChanged .listen .solo .listenTimeout s u ∧ Noticed u t) ∧
    (s.pai.role = .takeover → s.tko.grace = .running 0 →
      let usable := (s.pai.primary.up = true ∨ s.pai.secondary.up = true) ∧
        ∃ pr r, s.pai.peer = some pr ∧ pr.hello.shownRole = some r ∧ r ≠ .faulted
      (usable → ∃ u t, exec .graceTimerExpiry s = .next t ∧ RoleChanged .takeover .active .graceEnd s u ∧ Noticed u t) ∧
      (¬ usable → ∃ u t, exec .graceTimerExpiry s = .next t ∧ RoleChanged .takeover .solo .graceEnd s u ∧ Noticed u t))

/-- R101, R134. While YIELDING, the YIELD flag becomes set and a hello carries it at once when the mirror transmitter is
drained, or at the drain timer's expiry, while the clock is RUNNING, with PAI5 and the dirty list's length. That a drain is
noted at DRAINED and nowhere else, so that the limit logs PAI5 before one comes, is the model's choice (log entry 58), and that
DRAINED changes nothing while the part is not drained or the flag is set is its choice too (log entry 34). That PAI5 is filed
before the PRT1 of a hello at a full queue is its choice as well (log entry 5). -/
def Obligations.DrainSetsTheYieldFlag : Prop :=
  ∀ s : State, s.pai.role = .yielding →
    let flagged := fun (u : State) => sendHello { u with pai := { s.pai with yieldFlag := true, drainTimer := .stopped } }
    let drained := s.mir.stream = .opened ∧ s.mir.dirty = [] ∧ s.mir.openFrame = none ∧ s.mir.walk = .idle ∧ s.mir.replay = []
    (s.pai.yieldFlag = false → drained → ∃ t, exec .drained s = .next t ∧ Noticed (flagged s) t) ∧
    (s.pai.yieldFlag = true ∨ ¬ drained → exec .drained s = .next s) ∧
    (s.tim.running = true → s.pai.drainTimer = .running 0 → ∃ t, exec .drainTimerExpiry s = .next t ∧
      Noticed (flagged (report .pai5 (ErrInfo.ofSeq s.mir.dirty.length) s)) t) ∧
    (∀ u : State, u.prt.sQueue.length < 80 → ∃ h : Hello, h.flags.getLsbD 1 = true ∧
      (flagged u).prt.sQueue = u.prt.sQueue ++ [mirrorFrame .primary (helloBytes h) u])

/-- R130. START is taken in DETACHED and checks the station id, the station MAC, that a zone is enabled, and that the VLANs of
the enabled zones differ from one another and from sync_vlan. It clears what was held of the peer, starts the keepalive timer
and changes the role to LISTEN; a failed check answers BAD_CONFIG, another role BAD_STATE. That a judgment which START changes
raises PEER is the model's reading (log entry 19). The order in which a role change files its errors and hands its frames over
is the model's choice (log entry 5). That a session whose held frame a role change discards loses its release_seq is the model's
reading (log entry 21). -/
def Obligations.StartChecksAndEntersListen : Prop :=
  ∀ (s : State) (r : Request) (rest : List Frame), Commanded 1#8 s r rest →
    let s0 := dequeue rest s
    let vlans := (enabledZones s.zones).map fun p => p.2.vlan
    let good := s.cfg.stationId ≠ 0 ∧ isUnicast s.cfg.stationMac = true ∧ s.cfg.stationMac ≠ 0#48 ∧ vlans ≠ [] ∧
      (s.cfg.syncVlan :: vlans).Nodup
    let begun : PathState → PathState := fun st => { st with up := false, deadTimer := .stopped, judgment := .none }
    let v := { s0 with
      prt := { s.prt with peerMac := none }
      pai := { s.pai with
        primary := begun s.pai.primary, secondary := begun s.pai.secondary, peer := none, peerActiveSeen := false }
      flt := { s0.flt with
        keepalive := if s.cfg.keepaliveWindow = 0 then s.flt.keepalive else .running s.cfg.keepaliveWindow
        flags := if s.pai.primary.judgment = .none ∧ s.pai.secondary.judgment = .none then s.flt.flags
          else s.flt.flags ||| Flag.peer.bitmap } }
    (s.pai.role ≠ .detached → ∃ t, exec .start s = .next t ∧ Replied r (Answer.only .badState) s0 t) ∧
    (s.pai.role = .detached → ¬ good → ∃ t, exec .start s = .next t ∧ Replied r (Answer.only .badConfig) s0 t) ∧
    (s.pai.role = .detached → good → ∃ u t, exec .start s = .next t ∧ RoleChanged .detached .listen .start v u ∧
      Replied r (Answer.only .ok) u t)

/-- R131, R134, R136, R138, R27. STOP, TAKE, YIELD and RESUME change the role, each from its own roles, and answer OK; what the
change does with the stream, the held frames, the burst, the hellos and the error records goes with it (R81, R122, R139, R143,
R145, R148, R150); STOP clears the table after the change and RESUME before it. Out of its roles a command answers BAD_STATE and
changes nothing. The order in which a role change files its errors and hands its frames over is the model's choice (log entry
5). That entry to DETACHED with a path UP raises PATH and PEER, that a session whose held frame is discarded loses its
release_seq, and that an entry still held at a clearing of the table is counted, are readings of its own (log
entries 19, 21 and 44). -/
def Obligations.RoleCommandsChangeTheRole : Prop :=
  ∀ (s : State) (r : Request) (rest : List Frame),
    let s0 := dequeue rest s
    let cleared := fun (u : State) => bumpBy .holdDropRemoved u.hold.length { u with tbl := Tbl.cleared, hold := [] }
    let refused := fun (c : Instr) => ∃ t, exec c s = .next t ∧ Replied r (Answer.only .badState) s0 t
    (Commanded 2#8 s r rest →
      (s.pai.role = .detached → ∃ t, exec .stop s = .next t ∧ Replied r (Answer.only .ok) s0 t) ∧
      (s.pai.role ≠ .detached → ∃ u t, exec .stop s = .next t ∧ RoleChanged s.pai.role .detached .stop s0 u ∧
        Replied r (Answer.only .ok) (cleared u) t)) ∧
    (Commanded 3#8 s r rest →
      (s.pai.role = .standbyReady → ∃ u t, exec .take s = .next t ∧ RoleChanged .standbyReady .takeover .take s0 u ∧
        Replied r (Answer.only .ok) u t) ∧
      (s.pai.role ≠ .standbyReady → refused .take)) ∧
    (Commanded 4#8 s r rest →
      let may := s.pai.role = .active ∧ (s.pai.primary.up = true ∨ s.pai.secondary.up = true) ∧
        ∃ pr, s.pai.peer = some pr ∧ pr.hello.shownRole = some .standbyReady
      (may → ∃ u t, exec .yield s = .next t ∧ RoleChanged .active .yielding .yield s0 u ∧
        Replied r (Answer.only .ok) u t) ∧
      (¬ may → refused .yield)) ∧
    (Commanded 5#8 s r rest →
      (s.pai.role = .faulted →
        let v := { cleared s0 with flt := { (cleared s0).flt with
          keepalive := if s.cfg.keepaliveWindow = 0 then s.flt.keepalive else .running s.cfg.keepaliveWindow } }
        ∃ u t, exec .resume s = .next t ∧ RoleChanged .faulted .listen .resume v u ∧ Replied r (Answer.only .ok) u t) ∧
      (s.pai.role ≠ .faulted → refused .resume))

/-! ## The time base and patrol (chapter 9) -/

/-- R160, R161. A patrol step visits patrol_rate handles from the cursor and leaves the cursor behind them, counting a sweep
when it passes 32,767. When nothing that the step visits is damaged, each visited record that is LIVE and has reached its
class's timeout is removed with reason EXPIRED, one after another in the order of the visits, and everything else is kept; with
none of that age the step moves the cursor alone. Outside the active roles, and while the clock is HALTED, there is no step.
That PATROL_STEP changes nothing when no step is due is the model's reading (log entries 2, 34 and 38), as is the class of a
FLOW record without one (log entry 41). -/
def Obligations.PatrolStepAgesTheRecords : Prop :=
  ∀ s : State, s.tim.cursor < 32768 →
    (s.tim.running = false ∨ s.tim.patrolDue = false ∨ s.pai.role.isActive = false → exec .patrolStep s = .next s) ∧
    (s.tim.running = true → s.tim.patrolDue = true → s.pai.role.isActive = true → (∀ h ∈ patrolled s, visitIntact s h) →
      ((∀ h ∈ patrolled s, (recordOf s h).handleState = .live → ¬ isOld s h) →
        exec .patrolStep s = .next (patrolBehind s s)) ∧
      (sparseSorted s.tbl.records = true → sparseSorted s.tbl.slots = true →
        ∃ u, Ages (patrolled s) s u ∧ exec .patrolStep s = .next (patrolBehind s u)))

/-- R153, R154, R156, R157. CLOCK_RUN and CLOCK_HALT set the run state in every role and leave the reading; CLOCK_SET, while
HALTED, sets the seconds and zeroes the milliseconds, the accumulator and the FCS count, and while RUNNING answers BAD_STATE. A
CLOCK_HALT of a RUNNING clock comes after what the last tick made due, whose order is the model's choice (log entry 47). -/
def Obligations.ClockCommandsActOnTheClock : Prop :=
  ∀ (s : State) (r : Request) (rest : List Frame),
    let s0 := dequeue rest s
    (Commanded 11#8 s r rest → ∃ t, exec .clockRun s = .next t ∧
      Replied r (Answer.only .ok) { s0 with tim := { s.tim with running := true } } t) ∧
    (Commanded 12#8 s r rest →
      (s.tim.running = true → ∃ u t, TickEnds s u ∧ Touches eventBlocks s u ∧
        ((∀ c ∈ [Instr.patrolStep, .holdTimeout] ++ expiryCommands, exec c s = .next s) → u = s) ∧
        exec .clockHalt s = .next t ∧
        Replied r (Answer.only .ok) { dequeue rest u with tim := { u.tim with running := false } } t) ∧
      (s.tim.running = false → ∃ t, exec .clockHalt s = .next t ∧ Replied r (Answer.only .ok) s0 t)) ∧
    (Commanded 13#8 s r rest →
      (s.tim.running = false → ∃ t, exec .clockSet s = .next t ∧ Replied r (Answer.only .ok)
        { s0 with tim := { s.tim with seconds := word32At r.payload 4, ms := 0, acc := 0#32 }
                  mir := { s.mir with fcsCount := 0 } } t) ∧
      (s.tim.running = true → ∃ t, exec .clockSet s = .next t ∧ Replied r (Answer.only .badState) s0 t))

/-! ## The management agent (chapter 10) -/

/-- R165, R166, R171, R172, R188. A READ whose checks pass captures its entries one after another in the order of its step mode
and answers their bytes; nothing changes. A READ of COUNTERS with the clear flag takes each captured value off its counter, so a
counter visited again shows 0. A READ is refused by the first check that fails: an object that is none, a count, step mode, span
or clear flag that is not allowed, an index out of the object's range, an answer that is too long. The entries hold their fields
at the places of R188, and a CONFIG or ZONES entry reads back as what it was written from. That no event falls between two
captures, so that all entries are those of one state, is the model's choice (log entry 5), and so are the zeros of what is
stopped or absent (log entry 33) and of reserved bytes (log entry 55). -/
def Obligations.ReadAnswersTheEntries : Prop :=
  (∀ (s : State) (r : Request) (rest : List Frame), Waiting s r rest → r.command = 1 →
    let s0 := dequeue rest s
    let place := entryPlace r
    let refused := fun (st : Status) =>
      ∃ t, exec (if r.object = 6 ∧ r.clear = true then .readCountersClear else .read) s = .next t ∧
        Replied r (Answer.only st) s0 t
    (Object.ofCode r.object = none → refused .badObject) ∧
    (∀ o, Object.ofCode r.object = some o →
      let visited := placesWithin r o.indices
      let allowed := fieldsAllowed r ∧ (r.clear = true → o = .counters)
      (¬ allowed → refused .badCommand) ∧
      (allowed → ¬ visited → refused .badIndex) ∧
      (allowed → visited → 1408 < r.count * o.entrySize → refused .badLength) ∧
      (allowed → visited → r.count * o.entrySize ≤ 1408 → r.clear = false →
        (o = .session → ∀ k < r.count, recordIntact s (place k)) →
        ∃ t, exec .read s = .next t ∧
          Replied r { status := .ok, payload := (List.range r.count).flatMap fun k => entryBytes o (place k) s0 } s0 t) ∧
      (allowed → visited → r.count * o.entrySize ≤ 1408 → r.clear = true →
        let seen := fun (k : Nat) => (List.range k).any fun j => place j == place k
        ∃ t, exec .readCountersClear s = .next t ∧
          Replied r
            { status := .ok
              payload := (List.range r.count).flatMap fun k =>
                bytes32 (if seen k = true then 0#32 else counterAt s0 (place k)) }
            { s0 with flt := { s0.flt with counters := Vector.ofFn fun i : Fin 64 =>
                if ((List.range r.count).any fun k => place k == i.val) = true then 0#32 else s0.flt.counters[i] } } t))) ∧
  -- the entries
  (∀ (s : State) (i : Nat),
    let entry := fun (o : Object) => entryBytes o i s
    (∀ o, o ≠ .pairing → i < o.indices → (entry o).length = o.entrySize) ∧
    (s.cfg.clamped = s.cfg → s.cfg.stationId < 65536 → s.cfg.priority < 256 → readConfig (entry .config) = s.cfg) ∧
    ((zoneAt s.zones i).vlan < 65536 → readZone (entry .zones) = zoneAt s.zones i) ∧
    word32At (entry .timeouts) 0 = BitVec.ofNat 32 (timeoutAt s i) ∧ word32At (entry .counters) 0 = counterAt s i ∧
    (let b := entry .status
     word16At b 0 = s.flt.flags.setWidth 16 ∧ word16At b 2 = s.flt.mask.setWidth 16 ∧
     byteAt b 4 = nat8 s.flt.resetRecord.cause.code ∧ byteAt b 5 = nat8 s.flt.resetRecord.role.code ∧
     word16At b 6 = BitVec.ofNat 16 s.flt.resetRecord.count) ∧
    (let b := entry .clock
     byteAt b 0 = (if s.tim.running = true then 1#8 else 0#8) ∧ word16At b 2 = BitVec.ofNat 16 s.tim.ms ∧
     word32At b 4 = s.tim.seconds ∧ word32At b 8 = BitVec.ofNat 32 s.tim.increment ∧
     word16At b 12 = BitVec.ofNat 16 s.tim.cursor) ∧
    (∀ c, ErrClass.ofCode i = some c →
      let b := entry .errlog
      let record := s.flt.record c
      (record.first = none → b = zeros 32) ∧
      (∀ e, record.first = some e →
        word16At b 0 = BitVec.ofNat 16 e.code.code ∧ byteAt b 3 = nat8 (e.info.place.getD 0) ∧
        ((byteAt b 2).getLsbD 0 = e.info.handle.isSome ∧ (byteAt b 2).getLsbD 1 = e.info.place.isSome ∧
          (byteAt b 2).getLsbD 2 = e.info.seq.isSome ∧ (byteAt b 2).getLsbD 3 = e.info.gen.isSome) ∧
        word32At b 4 = e.seconds ∧ word16At b 8 = BitVec.ofNat 16 e.ms ∧
        word16At b 10 = BitVec.ofNat 16 (e.info.handle.getD 0) ∧ word32At b 12 = BitVec.ofNat 32 (e.info.seq.getD 0) ∧
        word32At b 16 = e.info.gen.getD 0#32 ∧ word16At b 20 = BitVec.ofNat 16 record.count ∧
        word32At b 24 = record.codeSet)) ∧
    -- SESSION
    (let b := entry .session
     let r := recordOf s i
     byteAt b 0 = nat8 r.handleState.code ∧ word16At b 2 = r.epoch ∧
     (r.handleState = .free → ∀ k, 4 ≤ k → byteAt b k = 0#8) ∧
     (r.handleState = .live ∨ r.handleState = .retired →
       byteAt b 4 = nat8 r.pending.code ∧ byteAt b 5 = nat8 (removalCode r.removalReason)) ∧
     (r.handleState = .retired → ∀ k, 6 ≤ k → byteAt b k = 0#8) ∧
     (r.handleState = .live →
       byteAt b 1 = BitVec.ofNat 8 (r.body.state.code + 16 * finOrderCode r.body.finOrder) ∧
       ((byteAt b 6).getLsbD 0 = r.body.flowClass.isSome ∧ (byteAt b 6).getLsbD 1 = r.body.mirrored.isSome ∧
         (byteAt b 6).getLsbD 2 = r.body.releaseSeq.isSome) ∧
       byteAt b 7 = nat8 (r.body.flowClass.getD 0) ∧
       (r.body.dirOrig.wscale.toNat ≤ 14 → r.body.dirOrig.maxWin.toNat ≤ 2 ^ 30 →
         readTracker b 8 = some r.body.dirOrig) ∧
       (r.body.dirReply.wscale.toNat ≤ 14 → r.body.dirReply.maxWin.toNat ≤ 2 ^ 30 →
         readTracker b 29 = some r.body.dirReply) ∧
       readKey b 50 = r.body.origKey ∧ readKey b 64 = r.body.replyKey ∧
       macAt b 78 = r.body.nextHopOrig ∧ macAt b 84 = r.body.nextHopReply ∧
       word32At b 90 = r.body.lastSeen ∧ word32At b 94 = r.body.gen ∧ word16At b 98 = r.body.releaseSeq.getD 0#16 ∧
       (∀ m, r.body.mirrored = some m → word32At b 100 = m.hiSeqOrig ∧ word32At b 104 = m.rightOrig ∧
         word32At b 108 = m.hiSeqReply ∧ word32At b 112 = m.rightReply ∧ word32At b 116 = m.seen) ∧
       byteAt b 120 ++ word16At b 121 = BitVec.ofNat 24 r.slotOrig ∧
       byteAt b 123 ++ word16At b 124 = BitVec.ofNat 24 r.slotReply)) ∧
    -- PAIRING
    ((∀ pr, s.pai.peer = some pr → pr.hello.refresh.length ≤ 16) →
      let b := entry .pairing
      let code := fun (path : PathId) => match path with | .primary => 1#8 | .secondary => 2#8
      let onPath := fun (k : Nat) (p : PathState) => byteAt b k = (if p.up = true then 1#8 else 0#8) ∧
        byteAt b (k + 1) = nat8 p.judgment.code ∧ byteAt b (k + 2) = (if p.seen = true then 1#8 else 0#8) ∧
        word32At b (k + 4) = BitVec.ofNat 32 p.deadTimer.left
      b.length = 640 ∧
      (byteAt b 0 = nat8 s.pai.role.code ∧ byteAt b 1 = (if s.mir.stream = .opened then 1#8 else 0#8) ∧
        byteAt b 2 = (match s.mir.dataPath with | none => 0#8 | some p => code p) ∧
        byteAt b 3 = (match s.mir.walk with | .idle => 0#8 | .walking => 1#8 | .ending => 2#8) ∧
        ((byteAt b 4).getLsbD 0 = s.mir.suspendedPrimary ∧ (byteAt b 4).getLsbD 1 = s.mir.suspendedSecondary) ∧
        byteAt b 5 = (if s.shd.bound = true then 1#8 else 0#8) ∧
        ((byteAt b 6).getLsbD 0 = s.shd.bulkWanted ∧ (byteAt b 6).getLsbD 1 = s.pai.yieldFlag ∧
          (byteAt b 6).getLsbD 2 = s.pai.peerActiveSeen) ∧
        byteAt b 7 = nat8 s.mir.replayCount) ∧
      (word32At b 8 = s.pai.pairGen ∧ word32At b 12 = s.pai.peerGenSeen ∧ word32At b 16 = s.shd.adoptedGen ∧
        word16At b 20 = s.mir.nextSeq ∧ word16At b 22 = oldestSeq s.mir ∧ word16At b 24 = s.shd.expectedSeq ∧
        word16At b 26 = BitVec.ofNat 16 s.mir.cursor ∧ word16At b 28 = BitVec.ofNat 16 s.mir.dirty.length ∧
        byteAt b 30 = nat8 s.mir.replay.length ∧ byteAt b 31 = nat8 s.shd.refresh.length) ∧
      (∀ k < 16, word16At b (32 + 2 * k) = (s.shd.refresh[k]?.map (BitVec.ofNat 16)).getD 0xFFFF#16) ∧
      (onPath 64 s.pai.primary ∧ word32At b 72 = BitVec.ofNat 32 s.mir.revertElapsed ∧ onPath 80 s.pai.secondary) ∧
      (byteAt b 96 = (if s.pai.peer.isSome = true then 1#8 else 0#8) ∧
        ∀ pr, s.pai.peer = some pr → slice b 100 (helloBytes pr.hello).length = helloBytes pr.hello) ∧
      (word32At b 176 = BitVec.ofNat 32 s.tbl.liveCount ∧ word32At b 180 = s.tbl.digestSum ∧
        word16At b 184 = BitVec.ofNat 16 s.shd.bulkStart) ∧
      (byteAt b 188 = (if s.shd.lastCompare.isSome = true then 1#8 else 0#8) ∧
        ∀ c, s.shd.lastCompare = some c → byteAt b 189 = (match c.kind with | .bulkEnd => 1#8 | .checkpoint => 2#8) ∧
          byteAt b 190 = (if c.matched = true then 1#8 else 2#8) ∧ word32At b 192 = c.gen ∧ word16At b 196 = c.seq ∧
          word32At b 200 = c.receivedCount ∧ word32At b 204 = c.receivedSum ∧ word32At b 208 = c.localCount ∧
          word32At b 212 = c.localSum) ∧
      (word32At b 216 = BitVec.ofNat 32 s.tko.grace.left ∧
        byteAt b 220 = (match s.tko.burst with | .idle => 0#8 | .running n _ => nat8 n) ∧
        word16At b 221 = BitVec.ofNat 16 s.pai.drainTimer.left) ∧
      (∀ k h, k < 8 → s.pai.history[k]? = some h → byteAt b (224 + 12 * k) = nat8 h.fromRole.code ∧
        byteAt b (225 + 12 * k) = nat8 h.toRole.code ∧ byteAt b (226 + 12 * k) = nat8 h.cause.code ∧
        word32At b (228 + 12 * k) = h.seconds ∧ word16At b (232 + 12 * k) = BitVec.ofNat 16 h.ms) ∧
      (byteAt b 320 = nat8 s.shd.unacked ∧ byteAt b 321 = code s.shd.ackPath ∧
        word16At b 322 = BitVec.ofNat 16 s.shd.ackTimer.left ∧ word32At b 324 = BitVec.ofNat 32 s.pai.listenTimer.left ∧
        word16At b 328 = BitVec.ofNat 16 s.pai.helloTimer.left ∧ word32At b 332 = BitVec.ofNat 32 s.tko.tolerance)))

/-- R165, R166, R168, R169, R179, R180. A WRITE of CONFIG whose enumerations are defined and whose EtherTypes differ, in
DETACHED, applies every field, clamped, and answers the entry as stored. In another role it does so when every fixed field keeps
its value, and otherwise answers LOCKED. Of several entries, which STATIC and CIRCULATE allow, each is judged and the last
stands. A change of keepalive_window acts on the keepalive timer. The answer to an undefined enumeration outside DETACHED, the
net change of the window, and that the answer goes out with the new station_mac and mgmt_ethertype are the model's readings (log
entries 28, 29 and 30). -/
def Obligations.ConfigWriteAppliesOrIsLocked : Prop :=
  ∀ (s : State) (r : Request) (rest : List Frame), Waiting s r rest → r.command = 2 → r.object = 1 → fieldsAllowed r →
    r.clear = false → placesWithin r 1 → r.count * 128 ≤ 1408 → r.length = r.count * 128 →
    let s0 := dequeue rest s
    let entry := fun (k : Nat) => slice r.payload (128 * k) 128
    let asked := fun (k : Nat) => readConfig (entry k)
    let stored := fun (k : Nat) => (asked k).clamped
    let tunnelGood := fun (k : Nat) => (byteAt (entry k) 16).toNat ≤ 1
    let free := fun (k : Nat) => { stored k with
      priority := s.cfg.priority, oowPolicy := s.cfg.oowPolicy, noticeHoldoff := s.cfg.noticeHoldoff
      keepaliveWindow := s.cfg.keepaliveWindow, noticeMac := s.cfg.noticeMac }
    let allowed := s.pai.role = .detached ∨ ∀ k < r.count, tunnelGood k ∧ free k = s.cfg
    let good := ∀ k < r.count, tunnelGood k ∧ (byteAt (entry k) 17).toNat ≤ 1 ∧
      (stored k).mgmtEthertype ≠ (stored k).mirrorEthertype
    let c := stored (r.count - 1)
    let keepalive :=
      if c.keepaliveWindow = s.cfg.keepaliveWindow then s.flt.keepalive
      else if c.keepaliveWindow = 0 then .stopped
      else if s.flt.keepalive ≠ .stopped ∨ (s.cfg.keepaliveWindow = 0 ∧ s.pai.role ≠ .detached ∧ s.pai.role ≠ .faulted)
        then .running c.keepaliveWindow
      else s.flt.keepalive
    (¬ allowed → ∃ t, exec .writeConfig s = .next t ∧ Replied r (Answer.only .locked) s0 t) ∧
    (allowed → ¬ good → ∃ t, exec .writeConfig s = .next t ∧ Replied r (Answer.only .badConfig) s0 t) ∧
    (allowed → good → ∃ t, exec .writeConfig s = .next t ∧
      Replied r
        { status := if ((List.range r.count).any fun k => stored k != asked k) = true then .clamped else .ok
          payload := (List.range r.count).flatMap fun _ => configEntry c }
        { s0 with cfg := c, flt := { s0.flt with keepalive := keepalive } } t)

/-- R4, R153, R159, R165, R166, R168, R170. A WRITE of ZONES is taken in DETACHED alone, of TIMEOUTS, STATUS and CLOCK in every
role. In every step mode each applies all its entries in order, so that the last entry for an index stands, brings a number out
of range to its bound with CLAMPED, refuses an undefined one whole with BAD_CONFIG, and answers the entries as stored, in the
order of the request. That a STATUS write checks both of its fields is the model's reading (log entry 27); that of a CLOCK
entry's numbers the increment alone is judged, and that the flag byte of a ZONES entry is read for its two bits alone, are its
choices (log entries 54 and 51). -/
def Obligations.TableWritesApplyTheirEntries : Prop :=
  ∀ (s : State) (r : Request) (rest : List Frame), Waiting s r rest → r.command = 2 → fieldsAllowed r → r.clear = false →
    let s0 := dequeue rest s
    let fits := fun (o : Object) => Object.ofCode r.object = some o ∧ placesWithin r o.indices ∧
      r.count * o.entrySize ≤ 1408 ∧ r.length = r.count * o.entrySize
    -- the entry that stands at the place of entry k
    let standing := fun (k : Nat) => (lastFor r (entryPlace r k)).getD k
    let last := r.count - 1
    -- ZONES
    (fits .zones →
      let asked := fun (k : Nat) => readZone (slice r.payload (16 * k) 16)
      let stored := fun (k : Nat) => { asked k with vlan := max 1 (min 4094 (asked k).vlan) }
      let good := ∀ k < r.count, (asked k).enabled = true → isUnicast (asked k).mac = true
      (s.pai.role ≠ .detached → ∃ t, exec .writeZones s = .next t ∧ Replied r (Answer.only .locked) s0 t) ∧
      (s.pai.role = .detached → ¬ good → ∃ t, exec .writeZones s = .next t ∧ Replied r (Answer.only .badConfig) s0 t) ∧
      (s.pai.role = .detached → good → ∃ t, exec .writeZones s = .next t ∧
        Replied r
          { status := if ((List.range r.count).any fun k => stored k != asked k) = true then .clamped else .ok
            payload := (List.range r.count).flatMap fun k => zoneEntry (stored (standing k)) }
          { s0 with zones := Vector.ofFn fun i : Fin 8 =>
              match lastFor r i.val with
              | some k => stored k
              | none => s.zones[i] } t)) ∧
    -- TIMEOUTS
    (fits .timeouts →
      let asked := fun (k : Nat) => (word32At r.payload (4 * k)).toNat
      let stored := fun (k : Nat) => max 1 (min 1048575 (asked k))
      ∃ t, exec .writeTimeouts s = .next t ∧
        Replied r
          { status := if ((List.range r.count).any fun k => stored k != asked k) = true then .clamped else .ok
            payload := (List.range r.count).flatMap fun k => nat32 (stored (standing k)) }
          { s0 with timeouts := Vector.ofFn fun i : Fin 8 =>
              match lastFor r i.val with
              | some k => stored k
              | none => s.timeouts[i] } t) ∧
    -- STATUS
    (fits .status →
      let clear := fun (k : Nat) => word16At r.payload (8 * k)
      let mask := fun (k : Nat) => word16At r.payload (8 * k + 2)
      let good := ∀ k < r.count, (clear k).toNat < 512 ∧ (mask k).toNat < 512
      let t0 := { s0 with flt := { s0.flt with
        flags := (List.range r.count).foldl (fun fs k => fs &&& ~~~(clear k).setWidth 9) s0.flt.flags
        mask := (mask last).setWidth 9 } }
      (good → ∃ t, exec .writeStatus s = .next t ∧
        Replied r { status := .ok, payload := (List.range r.count).flatMap fun _ => statusEntry t0.flt } t0 t) ∧
      (¬ good → ∃ t, exec .writeStatus s = .next t ∧ Replied r (Answer.only .badConfig) s0 t)) ∧
    -- CLOCK
    (fits .clock →
      let asked := fun (k : Nat) => (word32At r.payload (16 * k + 8)).toNat
      let stored := fun (k : Nat) => max 150000 (min 194000 (asked k))
      let good := ∀ k < r.count, (byteAt r.payload (16 * k)).toNat ≤ 1
      let t0 := { s0 with tim := { s.tim with increment := stored last } }
      (good → ∃ t, exec .writeClock s = .next t ∧
        Replied r
          { status := if ((List.range r.count).any fun k => stored k != asked k) = true then .clamped else .ok
            payload := (List.range r.count).flatMap fun _ => clockEntry t0.tim } t0 t) ∧
      (¬ good → ∃ t, exec .writeClock s = .next t ∧ Replied r (Answer.only .badConfig) s0 t))

/-- R163 to R167, R174, R187. Requests that change nothing: a frame that holds no request is counted and logged as MGT1 without
a response; an undefined command or action answers BAD_COMMAND, and a CONTROL request that is not 8 bytes BAD_LENGTH. A WRITE is
refused by the first of checks 2 to 6 that fails: BAD_OBJECT for no object, BAD_COMMAND for its count, step mode, span or clear
flag, BAD_INDEX for an index outside the object, BAD_LENGTH for its payload, READ_ONLY for an object that is not written. Every
response goes untagged to the source of its request, with the request's tag, the status and the payload with its length; its
reserved bytes are zero by the model's choice (log entry 55). That the other bits of a request's flag byte are ignored is its
choice too (log entry 51); that an undefined action of another length answers BAD_LENGTH is its reading (log entry 26). -/
def Obligations.RequestsOfNoEffectAreAnswered : Prop :=
  (∀ s : State,
    (∀ f rest, s.mgtQueue = f :: rest → (readRequest f).rest < (readRequest f).length → ∃ t, exec .runtRequest s = .next t ∧
      Noticed (report .mgt1 ErrInfo.none (bump .mgtRunt { s with mgtQueue := rest })) t) ∧
    (∀ r rest, Waiting s r rest →
      let answered := fun (c : Instr) (st : Status) => ∃ t, exec c s = .next t ∧ Replied r (Answer.only st) (dequeue rest s) t
      (r.command = 0 ∨ 7 < r.command → answered .undefinedCommand .badCommand) ∧
      (∀ a, r.command = 6 → r.length = 8 → r.payload.head? = some a → a = 0#8 ∨ 13 < a.toNat →
        answered .undefinedCommand .badCommand) ∧
      -- a CONTROL request of another length
      (r.command = 6 → r.length ≠ 8 → answered (controlCommand r) .badLength) ∧
      -- checks 2 to 6 of a WRITE
      (r.command = 2 → Object.ofCode r.object = none → answered .write .badObject) ∧
      (∀ o, r.command = 2 → Object.ofCode r.object = some o →
        let allowed := fieldsAllowed r ∧ r.clear = false
        let fits := r.count * o.entrySize ≤ 1408 ∧ r.length = r.count * o.entrySize
        (¬ allowed → answered (writeCommand o) .badCommand) ∧
        (allowed → ¬ placesWithin r o.indices → answered (writeCommand o) .badIndex) ∧
        (allowed → placesWithin r o.indices → ¬ fits → answered (writeCommand o) .badLength) ∧
        (o ∈ [Object.session, .counters, .errlog, .pairing] → allowed → placesWithin r o.indices → fits →
          answered .write .readOnly)))) ∧
  -- a request, and its response
  (∀ (f : Frame) (a : Answer) (s : State),
    let r := readRequest f
    let off := if word16At f 12 = 0x8100#16 then 18 else 14
    (r.src = macAt f 6 ∧ r.tag = word16At f off ∧ r.command = (byteAt f (off + 2)).toNat ∧
      r.object = (byteAt f (off + 3)).toNat ∧ r.index = (word16At f (off + 4)).toNat ∧ r.count = (byteAt f (off + 6)).toNat ∧
      r.stepMode = (byteAt f (off + 7)).toNat ∧ r.span = (byteAt f (off + 8)).toNat ∧
      r.clear = (byteAt f (off + 9)).getLsbD 0 ∧ r.length = (word16At f (off + 10)).toNat ∧
      r.payload = slice f (off + 16) r.length) ∧
    responseFrame r a s = bytes48 (macAt f 6) ++ bytes48 s.cfg.stationMac ++ bytes16 s.cfg.mgmtEthertype ++
      [1#8, nat8 a.status.code] ++ bytes16 (word16At f off) ++ nat16 a.payload.length ++ [0#8, 0#8] ++ a.payload)

/-- R174, R175, R177, R126. A KEEPALIVE restarts the keepalive timer where it runs; CLEAR_ERRORS empties the record of the class
it names and leaves the flag; CLEAR_STATUS clears the peer-seen latches it names. An argument that names nothing answers
BAD_INDEX. -/
def Obligations.KeepaliveAndClearActions : Prop :=
  ∀ (s : State) (r : Request) (rest : List Frame),
    let s0 := dequeue rest s
    (Waiting s r rest → r.command = 7 →
      (s.pai.role ≠ .detached → s.pai.role ≠ .faulted → ∃ t, exec .keepalive s = .next t ∧ Replied r (Answer.only .ok)
        { s0 with flt := { s0.flt with
            keepalive := if s.cfg.keepaliveWindow = 0 then s.flt.keepalive else .running s.cfg.keepaliveWindow } } t) ∧
      (s.pai.role = .detached ∨ s.pai.role = .faulted → ∃ t, exec .keepalive s = .next t ∧
        Replied r (Answer.only .badState) s0 t)) ∧
    (Commanded 9#8 s r rest →
      let cls := word32At r.payload 4
      let cleared := fun (flt : Flt) => ∃ t, exec .clearErrors s = .next t ∧
        Replied r (Answer.only .ok) { s0 with flt := flt } t
      (cls = 0#32 → cleared { s0.flt with logNote := ErrRecord.empty }) ∧
      (cls = 1#32 → cleared { s0.flt with logDegraded := ErrRecord.empty }) ∧
      (cls = 2#32 → cleared { s0.flt with logLoss := ErrRecord.empty }) ∧
      (cls = 3#32 → cleared { s0.flt with logFault := ErrRecord.empty }) ∧
      (3 < cls.toNat → ∃ t, exec .clearErrors s = .next t ∧ Replied r (Answer.only .badIndex) s0 t)) ∧
    (Commanded 10#8 s r rest →
      let paths := (word32At r.payload 4).toNat
      (1 ≤ paths ∧ paths ≤ 3 → ∃ t, exec .clearStatus s = .next t ∧ Replied r (Answer.only .ok)
        { s0 with pai := { s.pai with
            primary := if paths = 2 then s.pai.primary else { s.pai.primary with seen := false }
            secondary := if paths = 1 then s.pai.secondary else { s.pai.secondary with seen := false } } } t) ∧
      (paths = 0 ∨ 3 < paths → ∃ t, exec .clearStatus s = .next t ∧ Replied r (Answer.only .badIndex) s0 t))

/-! ## Faults and notices (chapter 11) -/

/-- R138, R155, R178, R179. The keepalive timer's expiry, while the clock is RUNNING, reports FLT1 and FORCE_FAULT reports FLT2;
in every role but DETACHED and FAULTED the role becomes FAULTED in the same event, with cause KEEPALIVE and FORCE_FAULT; an open
stream closes and its held frames are discarded with HLD3 (R81). In FAULTED the error is filed and the role stays; in DETACHED
FORCE_FAULT answers BAD_STATE. The order in which a role change files its errors and hands its frames over is the model's choice
(log entry 5). That a session whose held frame a role change discards loses its release_seq is the model's reading (log entry
21). -/
def Obligations.FaultsTakeThePartToFaulted : Prop :=
  ∀ s : State,
    let stopped := { s with flt := { s.flt with keepalive := .stopped } }
    let carries := s.pai.role ≠ .detached ∧ s.pai.role ≠ .faulted
    (s.tim.running = true → s.flt.keepalive = .running 0 →
      (carries → ∃ u t, exec .keepaliveTimerExpiry s = .next t ∧
        RoleChanged s.pai.role .faulted .keepalive (report .flt1 ErrInfo.none stopped) u ∧ Noticed u t) ∧
      (¬ carries → ∃ t, exec .keepaliveTimerExpiry s = .next t ∧ Noticed (report .flt1 ErrInfo.none stopped) t)) ∧
    (∀ r rest, Commanded 7#8 s r rest →
      let filed := report .flt2 ErrInfo.none (dequeue rest s)
      (carries → ∃ u t, exec .forceFault s = .next t ∧ RoleChanged s.pai.role .faulted .forceFault filed u ∧
        Replied r (Answer.only .ok) u t) ∧
      (s.pai.role = .faulted → ∃ t, exec .forceFault s = .next t ∧ Replied r (Answer.only .ok) filed t) ∧
      (s.pai.role = .detached → ∃ t, exec .forceFault s = .next t ∧
        Replied r (Answer.only .badState) (dequeue rest s) t))

/-- R183, R184. An event in which an unmasked flag rises sends one notice and starts the holdoff, or, while the holdoff runs,
sets the pending mark; without such a rise it sends none. Every command but the resets, a tick and the holdoff's own expiry is
such an event (a CLOCK_HALT once the clock is HALTED); behind the notice of a request stands no frame but its response, an order
that is the model's choice (log entry 5). At the holdoff's expiry, while the clock is RUNNING, a pending mark sends a notice
with the flags as they then stand, and without one the holdoff stops. The reserved bytes of a notice are zero by the model's
choice (log entry 55). -/
def Obligations.RisesCauseOneNotice : Prop :=
  ∀ s : State,
    let sent := fun (u : State) => { u with
      prt := { u.prt with pQueue := u.prt.pQueue ++ [noticeBytes u] }
      flt := { u.flt with noticeMark := false, holdoff := .running u.cfg.noticeHoldoff } }
    (∀ f : State → State,
      let u := f s
      (¬ Rises s u → event f s = u) ∧
      (Rises s u → u.flt.holdoff = .stopped → u.flt.noticeMark = false → u.prt.pQueue.length < 64 → event f s = sent u) ∧
      (Rises s u → u.flt.holdoff ≠ .stopped → event f s = { u with flt := { u.flt with noticeMark := true } })) ∧
    -- each command that is one event, and not the holdoff's own expiry; the response to a request stands behind its notice
    (∀ c : Instr, c ∉ [Instr.powerOn, .pinReset, .softReset, .clockTick, .noticeHoldoffExpiry] →
      (c = .clockHalt → s.tim.running = false) → ∃ t, exec c s = .next t ∧
        RisesTaken (if Block.mgtQueue ∈ blocksOf c then 1 else 0) s t) ∧
    (s.tim.running = true → s.flt.holdoff = .running 0 →
      (s.flt.noticeMark = true → s.prt.pQueue.length < 64 → exec .noticeHoldoffExpiry s = .next (sent s)) ∧
      (s.flt.noticeMark = false →
        exec .noticeHoldoffExpiry s = .next { s with flt := { s.flt with holdoff := .stopped } }))
end

