-- ==== Sys2Proof/Laws/Frames.lean ====
section
/-! SUPPORT. What each shared operation can touch: one lemma an operation, `<operation>_touches`, from which every frame
follows without unfolding it again. -/

-- One proof at a time: proofs that wait for earlier checks would each take a thread.
set_option Elab.async false

namespace Sys2Proof.Safety

open Sys2Proof.Machine

variable {bs cs : List Block} {s t u : State}

/-! ## The relation -/

theorem Touches.refl (s : State) : Touches bs s s := by intro b _; cases b <;> first | rfl | exact List.prefix_rfl

theorem Touches.trans (h : Touches bs s t) (k : Touches bs t u) : Touches bs s u := by
  intro b hb
  have p := h b hb
  have q := k b hb
  cases b <;> first | exact Eq.trans q p | exact List.IsPrefix.trans p q

theorem Touches.mono (h : Touches bs s t) (hs : ∀ b, b ∈ bs → b ∈ cs := by decide) : Touches cs s t :=
  fun b hb => h b fun hc => hb (hs b hc)

/-- Two states whose blocks outside the list are the same fields. -/
theorem Touches.fields (h : ∀ b, b ∉ bs → agrees b s t := by intro b hb; cases b <;> first
      | rfl | exact List.prefix_rfl | exact absurd (by decide) hb) :
    Touches bs s t := h

/-- Two steps, each within the blocks listed. -/
theorem Touches.then (h : Touches bs s t) (k : Touches cs t u) {ds : List Block} (hb : ∀ b, b ∈ bs → b ∈ ds := by decide)
    (hc : ∀ b, b ∈ cs → b ∈ ds := by decide) : Touches ds s u := (h.mono hb).trans (k.mono hc)

theorem Touches.foldl {α : Type} {f : State → α → State} (h : ∀ s a, Touches bs s (f s a)) (l : List α) (s : State) :
    Touches bs s (l.foldl f s) := by
  induction l generalizing s with
  | nil => exact Touches.refl s
  | cons a l ih => exact (h s a).trans (ih (f s a))

end Sys2Proof.Safety

namespace Sys2Proof.Machine

open Sys2Proof.Safety

variable {bs : List Block}

/-! ## Reports, counters, records -/

theorem raise_touches (f : Flag) (s : State) : Touches [.flt] s (raise f s) :=
  Touches.fields

theorem bumpBy_touches (c : Ctr) (n : Nat) (s : State) : Touches [.flt] s (bumpBy c n s) :=
  Touches.fields

theorem bump_touches (c : Ctr) (s : State) : Touches [.flt] s (bump c s) := bumpBy_touches c 1 s

/-- A record written leaves the notice's items. -/
theorem setErrRecord_touches (c : ErrClass) (r : ErrRecord) (s : State) :
    Touches [.flt] s { s with flt := s.flt.setRecord c r } := by cases c <;> exact Touches.fields

theorem report_touches (c : ErrCode) (i : ErrInfo) (s : State) : Touches [.flt] s (report c i s) :=
  (setErrRecord_touches _ _ s).trans (raise_touches _ _)

theorem setRecord_touches (h : Nat) (r : Record) (s : State) : Touches [.tbl] s (setRecord h r s) :=
  Touches.fields

theorem handToPort_touches (port : Port) (f : Frame) (s : State) : Touches reports s (handToPort port f s) := by
  unfold handToPort
  split
  · cases port
    · intro b hb
      cases b <;> first | rfl | exact List.prefix_append _ _ | exact absurd (by decide) hb
    · exact Touches.fields
    · exact Touches.fields
  · exact (bump_touches _ s).then (report_touches _ _ _)

theorem sendNotice_touches (s : State) : Touches noticeBlocks s (sendNotice s) := by
  refine Touches.trans ?_ ((handToPort_touches .p _ _).mono)
  exact Touches.fields

theorem settle_touches (before : BitVec 9) (s : State) : Touches noticeBlocks s (settle before s) := by
  unfold settle
  split
  · exact Touches.refl s
  · split
    · simp only
      split
      · exact sendNotice_touches s
      · refine (sendNotice_touches s).trans ?_
        exact Touches.fields
    · exact Touches.fields

/-- An event touches what its effect touches, and what its notice touches. -/
theorem event_touches {f : State → State} (h : Touches bs s (f s)) (hr : ∀ b, b ∈ noticeBlocks → b ∈ bs := by decide) :
    Touches bs s (event f s) := h.trans ((settle_touches _ _).mono hr)

/-! ## The table and the hold queue -/

theorem setPending_touches (h : Nat) (p : Pending) (s : State) : Touches [.tbl] s (setPending h p s) :=
  setRecord_touches h _ s

theorem markDirty_touches (k : Pending) (h : Nat) (s : State) : Touches [.tbl, .mir] s (markDirty k h s) := by
  unfold markDirty
  split
  · exact Touches.refl s
  · split
    · exact Touches.fields
    · exact (setPending_touches h _ s).mono
    all_goals exact Touches.refl s

theorem discardHeld_touches (h : Nat) (s : State) : Touches [.hold, .flt] s (discardHeld h s) := by
  unfold discardHeld
  split
  · refine Touches.trans ?_ ((bump_touches _ _).mono)
    exact Touches.fields
  · exact Touches.refl s

theorem settleHandle_touches (h : Nat) (r : Record) (q : RemovalReason) (g : Bool) (s : State) :
    Touches [.tbl, .mir] s (settleHandle h r q g s) := by
  unfold settleHandle
  split
  · exact Touches.fields
  · simp only
    split
    · exact Touches.fields
    · exact (setRecord_touches h _ s).mono

theorem removeSession_touches (h : Nat) (q : RemovalReason) (g : Bool) (s : State) :
    Touches [.tbl, .mir, .hold, .flt] s (removeSession h q g s) := by
  unfold removeSession
  simp only
  split
  · refine Touches.trans ?_ ((settleHandle_touches h _ q _ _).mono)
    refine Touches.trans ?_ ((discardHeld_touches h _).mono)
    refine Touches.trans ?_ ((bump_touches _ _).mono)
    exact Touches.fields
  · exact Touches.refl s

theorem clearTable_touches (s : State) : Touches [.tbl, .hold, .flt] s (clearTable s) :=
  Touches.fields

theorem freeAllRetired_touches (s : State) : Touches [.tbl] s (freeAllRetired s) :=
  Touches.fields

theorem clearReleaseSeq_touches (e : HoldEntry) (s : State) : Touches [.tbl] s (clearReleaseSeq e s) := by
  unfold clearReleaseSeq
  simp only
  split
  · exact setRecord_touches _ _ s
  · exact Touches.refl s

theorem releaseHeld_touches (c : Ctr) (s : State) (e : HoldEntry) : Touches [.tbl, .prt, .flt] s (releaseHeld c s e) := by
  unfold releaseHeld
  refine Touches.trans ?_ ((bump_touches _ _).mono)
  refine Touches.trans ?_ ((bump_touches _ _).mono)
  exact ((clearReleaseSeq_touches e s).then (handToPort_touches .w _ _))

theorem releaseWhere_touches (pick : HoldEntry → Bool) (c : Ctr) (s : State) :
    Touches [.tbl, .prt, .flt, .hold] s (releaseWhere pick c s) := by
  unfold releaseWhere
  refine Touches.trans ?_ (Touches.foldl (fun s e => (releaseHeld_touches c s e).mono) _ _)
  exact Touches.fields

theorem flushHold_touches (s : State) : Touches [.tbl, .prt, .flt, .hold] s (flushHold s) := by
  unfold flushHold
  split
  · exact Touches.refl s
  · exact (releaseWhere_touches _ _ s).then (report_touches _ _ _)

theorem disposeHold_touches (r : Role) (s : State) : Touches [.tbl, .prt, .flt, .hold] s (disposeHold r s) := by
  unfold disposeHold
  split
  · exact Touches.refl s
  · split
    · exact releaseWhere_touches _ _ s
    · have key : Touches [.tbl, .prt, .flt, .hold] s
          (bumpBy .holdDropRole s.hold.length (s.hold.foldl (fun t e => clearReleaseSeq e t) { s with hold := [] })) := by
        refine Touches.trans ?_ ((bumpBy_touches _ _ _).mono)
        refine Touches.trans ?_ (Touches.foldl (fun s e => (clearReleaseSeq_touches e s).mono) _ _)
        exact Touches.fields
      simp only
      split
      · exact key
      · exact key.trans ((report_touches _ _ _).mono)

/-! ## Mirror frames and hellos -/

theorem sendMirror_touches (p : PathId) (b : List Byte) (s : State) : Touches reports s (sendMirror p b s) := by
  unfold sendMirror
  split
  · exact handToPort_touches _ _ s
  · split
    · exact handToPort_touches _ _ s
    · exact Touches.refl s

theorem sendHello_touches (s : State) : Touches [.prt, .flt, .pai] s (sendHello s) := by
  unfold sendHello
  split
  · exact Touches.refl s
  · refine Touches.trans ((sendMirror_touches .primary (helloBytes (buildHello s)) s).then
      (sendMirror_touches .secondary (helloBytes (buildHello s)) _)) ?_
    exact Touches.fields

theorem setBulkWanted_touches (s : State) : Touches [.prt, .flt, .pai, .shd] s (setBulkWanted s) := by
  unfold setBulkWanted
  split
  · exact Touches.refl s
  · refine Touches.trans ?_ ((sendHello_touches _).mono)
    exact Touches.fields

theorem joinRefresh_touches (h : Nat) (s : State) : Touches [.prt, .flt, .pai, .shd] s (joinRefresh h s) := by
  unfold joinRefresh
  split
  · exact Touches.refl s
  · split
    · exact Touches.fields
    · exact ((report_touches _ _ s).then (setBulkWanted_touches _))

theorem sendRound_touches (s : State) : Touches reports s (sendRound s) :=
  Touches.foldl (fun s z => (handToPort_touches .w _ s).then (bump_touches _ _)) _ s

theorem startBurst_touches (s : State) : Touches [.prt, .flt, .tko] s (startBurst s) := by
  unfold startBurst
  split
  · exact Touches.fields
  · refine Touches.trans ((sendRound_touches s).mono) ?_
    exact Touches.fields

theorem endBurst_touches (s : State) : Touches [.flt, .tko] s (endBurst s) := by
  unfold endBurst
  split
  · exact Touches.refl s
  · simp only
    split
    · exact Touches.fields
    · refine Touches.trans ?_ ((report_touches _ _ _).mono)
      exact Touches.fields

/-! ## The stream -/

theorem retransmitOn_touches (p : Option PathId) (s : State) : Touches reports s (retransmitOn p s) := by
  unfold retransmitOn
  split
  · exact Touches.refl s
  · exact (Touches.foldl (fun s d => sendMirror_touches _ _ s) _ s).then (bumpBy_touches _ _ _)

theorem restartReplayTimer_touches (s : State) : Touches [.mir] s (restartReplayTimer s) :=
  Touches.fields

theorem rechoose_touches (s : State) : Touches [.mir, .prt, .flt] s (rechoose s) := by
  unfold rechoose
  simp only
  split
  · exact Touches.refl s
  · split
    · exact Touches.fields
    · refine Touches.trans ?_ ((raise_touches _ _).mono)
      refine Touches.trans ?_ ((restartReplayTimer_touches _).mono)
      refine Touches.trans ?_ ((retransmitOn_touches _ _).mono)
      exact Touches.fields

theorem suspend_touches (p : PathId) (s : State) : Touches [.mir] s (suspend p s) := by
  intro b hb; cases p <;> cases b <;> first | rfl | exact List.prefix_rfl | exact absurd (by decide) hb

theorem endSuspensions_touches (s : State) : Touches [.mir] s (endSuspensions s) :=
  Touches.fields

theorem countFcs_touches (s : State) : Touches [.mir, .prt, .flt] s (countFcs s) := by
  have key : ∀ n, Touches [.mir, .prt, .flt] s { s with mir := { s.mir with fcsCount := n } } := by
    exact fun n => Touches.fields
  unfold countFcs
  simp only
  split
  · split
    · exact Touches.fields
    · refine (key (min (s.mir.fcsCount + 1) 65535)).trans ?_
      exact ((suspend_touches .primary _).then (report_touches _ _ _) (ds := [.mir, .prt, .flt])).trans (rechoose_touches _)
  · exact key _

theorem clearDirty_touches (s : State) : Touches [.tbl, .mir] s (clearDirty s) :=
  Touches.fields

theorem clearReplay_touches (s : State) : Touches [.mir] s (clearReplay s) :=
  Touches.fields

theorem dropMirrored_touches (s : State) : Touches [.tbl] s (dropMirrored s) :=
  Touches.fields

theorem settleOldStream_touches (s : State) : Touches streamBlocks s (settleOldStream s) := by
  unfold settleOldStream
  refine Touches.trans ?_ ((dropMirrored_touches _).mono)
  refine Touches.trans ?_ ((flushHold_touches _).mono)
  refine Touches.trans ?_ ((freeAllRetired_touches _).mono)
  exact (clearReplay_touches s).then (clearDirty_touches _)

theorem beginStream_touches (g : Word32) (s : State) : Touches (.pai :: streamBlocks) s (beginStream g s) := by
  unfold beginStream
  simp only
  refine Touches.trans ?_ ((raise_touches _ _).mono)
  refine Touches.trans ?_ ((bump_touches _ _).mono)
  have base : Touches (.pai :: streamBlocks) s
      (endSuspensions (settleOldStream { s with pai := { s.pai with pairGen := g } })) := by
    refine Touches.trans ?_ ((endSuspensions_touches _).mono)
    refine Touches.trans ?_ ((settleOldStream_touches _).mono)
    exact Touches.fields
  split
  · refine base.trans ?_
    exact Touches.fields
  · refine (base.trans ((rechoose_touches _).mono)).trans ?_
    exact Touches.fields

theorem closeStream_touches (r : Role) (s : State) : Touches streamBlocks s (closeStream r s) := by
  unfold closeStream
  split
  · exact Touches.refl s
  · simp only
    refine Touches.trans ?_ ((disposeHold_touches r _).mono)
    have base : Touches streamBlocks s
        (freeAllRetired (clearDirty (clearReplay { s with mir := { s.mir with stream := .closed } }))) := by
      refine Touches.trans ?_ ((freeAllRetired_touches _).mono)
      refine Touches.trans ?_ ((clearDirty_touches _).mono)
      refine Touches.trans ?_ ((clearReplay_touches _).mono)
      exact Touches.fields
    refine base.trans ?_
    exact Touches.fields

theorem writeReleaseSeq_touches (q : Word16) (s : State) (c : Nat × Word16) :
    Touches [.hold, .tbl] s (writeReleaseSeq q s c) := by
  unfold writeReleaseSeq
  split
  · simp only
    split
    · refine Touches.trans ?_ ((setRecord_touches _ _ _).mono)
      exact Touches.fields
    · exact Touches.fields
  · exact Touches.refl s

theorem closeFrame_touches (s : State) : Touches streamBlocks s (closeFrame s) := by
  unfold closeFrame
  split
  · exact Touches.refl s
  · rename_i fr _
    simp only
    have base : Touches streamBlocks s
        (fr.creates.foldl (writeReleaseSeq s.mir.nextSeq) { s with mir := { s.mir with
          openFrame := none, nextSeq := s.mir.nextSeq + 1#16, sinceCheckpoint := min (s.mir.sinceCheckpoint + 1) 4096,
          replay := s.mir.replay ++ [{ gen := s.pai.pairGen, seq := s.mir.nextSeq, deltas := fr.deltas,
                                       removes := fr.removes, creates := fr.creates }],
          replayTimer := if s.mir.replay = [] then .running s.cfg.replayTimeout else s.mir.replayTimer } }) := by
      refine Touches.trans ?_ (Touches.foldl (fun s c => (writeReleaseSeq_touches _ s c).mono) _ _)
      exact Touches.fields
    split
    · exact base
    · exact base.trans ((sendMirror_touches _ _ _).then (bump_touches _ _))

theorem writeMirrored_touches (h : Nat) (s : State) : Touches [.tbl] s (writeMirrored h s) := setRecord_touches h _ s

theorem groupBuilt_touches (h : Nat) (s : State) : Touches [.tbl] s (groupBuilt h s) := by
  unfold groupBuilt
  split
  · exact writeMirrored_touches h s
  · exact writeMirrored_touches h s
  · exact Touches.refl s
  · exact Touches.refl s

theorem builtEffect_touches (c : Choice) (s : State) : Touches [.tbl, .mir, .flt] s (builtEffect c s) := by
  unfold builtEffect
  split
  · rename_i h
    refine Touches.trans (((groupBuilt_touches h s).trans (setPending_touches h .none _)).mono) ?_
    exact Touches.fields
  · rename_i h
    refine Touches.trans ((writeMirrored_touches h s).mono) ?_
    exact Touches.fields
  · exact Touches.fields
  · exact Touches.fields

theorem placeChoice_touches (c : Choice) (s : State) : Touches streamBlocks s (placeChoice c s) := by
  refine Touches.trans ((builtEffect_touches c s).mono) ?_
  exact Touches.fields

theorem advanceWalk_touches (s : State) : Touches [.mir] s (advanceWalk s) := by
  unfold advanceWalk
  split
  · split <;> exact Touches.fields
  · exact Touches.refl s

theorem buildChoice_touches (c : Choice) (s : State) : Touches streamBlocks s (buildChoice c s) := by
  unfold buildChoice
  simp only
  split
  · exact (placeChoice_touches c s).trans (closeFrame_touches _)
  · exact placeChoice_touches c s

theorem commitChoice_touches (c : Choice) (s : State) : Touches [.mir] s (commitChoice c s) := by
  unfold commitChoice
  split
  · exact Touches.fields
  · exact Touches.refl s

theorem buildOverflow_touches (c : Choice) (s : State) : Touches streamBlocks s (buildOverflow c s) := by
  unfold buildOverflow
  simp only
  have cut : Touches streamBlocks s (closeFrame (commitChoice c s)) :=
    ((commitChoice_touches c s).mono).trans (closeFrame_touches _)
  split
  · exact cut.trans (buildChoice_touches _ _)
  · exact cut

theorem buildNext_touches (s : State) : Touches streamBlocks s (buildNext s) := by
  unfold buildNext
  split
  · split
    · exact closeFrame_touches s
    · exact Touches.refl s
  · split
    · exact buildChoice_touches _ s
    · exact buildOverflow_touches _ s

theorem buildDelta_touches (s : State) : Touches streamBlocks s (buildDelta s) := by
  unfold buildDelta
  split
  · exact Touches.refl s
  · split
    · exact Touches.refl s
    · exact ((advanceWalk_touches s).mono).trans (buildNext_touches _)

theorem suspendDataPath_touches (s : State) : Touches [.mir] s (suspendDataPath s) := by
  unfold suspendDataPath
  split
  · exact Touches.refl s
  · exact suspend_touches _ s

theorem clearReplayCount_touches (s : State) : Touches [.mir] s (clearReplayCount s) :=
  Touches.fields

theorem restartStream_touches (s : State) : Touches (.pai :: streamBlocks) s (restartStream s) :=
  ((report_touches _ _ s).mono (cs := .pai :: streamBlocks)).trans (beginStream_touches _ _)

theorem atReplayLimit_touches (s : State) : Touches (.pai :: streamBlocks) s (atReplayLimit s) := by
  unfold atReplayLimit
  split
  · simp only
    have base : Touches (.pai :: streamBlocks) s (rechoose (clearReplayCount (suspendDataPath
        (report .mir2 { ErrInfo.none with place := s.mir.dataPath.map pathPlace } s)))) := by
      refine Touches.trans ?_ ((rechoose_touches _).mono)
      refine Touches.trans ?_ ((clearReplayCount_touches _).mono)
      exact (report_touches _ _ s).then (suspendDataPath_touches _)
    split
    · exact base.trans (restartStream_touches _)
    · exact base
  · exact Touches.refl s

end Sys2Proof.Machine
end

