-- ==== Sys2Proof/Laws/State.lean ====
section
/-! SUPPORT. One lemma per field per update, true by rfl, and what the ends of an event do: a frame handed to a port, a
notice, a response. -/

-- One proof at a time: proofs that wait for earlier checks would each take a thread.
set_option Elab.async false

namespace Sys2Proof.Machine

open Sys2Proof.Safety

/-! ## Fields after an update -/

section fields

variable (s : State) (f : Flag) (k : ErrCode) (i : ErrInfo) (c : Ctr) (n h : Nat) (r : Record)

@[simp] theorem raise_cfg : (raise f s).cfg = s.cfg := rfl
@[simp] theorem raise_zones : (raise f s).zones = s.zones := rfl
@[simp] theorem raise_timeouts : (raise f s).timeouts = s.timeouts := rfl
@[simp] theorem raise_prt : (raise f s).prt = s.prt := rfl
@[simp] theorem raise_tbl : (raise f s).tbl = s.tbl := rfl
@[simp] theorem raise_hold : (raise f s).hold = s.hold := rfl
@[simp] theorem raise_mir : (raise f s).mir = s.mir := rfl
@[simp] theorem raise_shd : (raise f s).shd = s.shd := rfl
@[simp] theorem raise_pai : (raise f s).pai = s.pai := rfl
@[simp] theorem raise_tko : (raise f s).tko = s.tko := rfl
@[simp] theorem raise_tim : (raise f s).tim = s.tim := rfl
@[simp] theorem raise_mgtQueue : (raise f s).mgtQueue = s.mgtQueue := rfl
@[simp] theorem raise_flags : (raise f s).flt.flags = s.flt.flags ||| f.bitmap := rfl
@[simp] theorem raise_counters : (raise f s).flt.counters = s.flt.counters := rfl

@[simp] theorem bumpBy_cfg : (bumpBy c n s).cfg = s.cfg := rfl
@[simp] theorem bumpBy_zones : (bumpBy c n s).zones = s.zones := rfl
@[simp] theorem bumpBy_timeouts : (bumpBy c n s).timeouts = s.timeouts := rfl
@[simp] theorem bumpBy_prt : (bumpBy c n s).prt = s.prt := rfl
@[simp] theorem bumpBy_tbl : (bumpBy c n s).tbl = s.tbl := rfl
@[simp] theorem bumpBy_hold : (bumpBy c n s).hold = s.hold := rfl
@[simp] theorem bumpBy_mir : (bumpBy c n s).mir = s.mir := rfl
@[simp] theorem bumpBy_shd : (bumpBy c n s).shd = s.shd := rfl
@[simp] theorem bumpBy_pai : (bumpBy c n s).pai = s.pai := rfl
@[simp] theorem bumpBy_tko : (bumpBy c n s).tko = s.tko := rfl
@[simp] theorem bumpBy_tim : (bumpBy c n s).tim = s.tim := rfl
@[simp] theorem bumpBy_mgtQueue : (bumpBy c n s).mgtQueue = s.mgtQueue := rfl
@[simp] theorem bumpBy_flags : (bumpBy c n s).flt.flags = s.flt.flags := rfl
@[simp] theorem bumpBy_mask : (bumpBy c n s).flt.mask = s.flt.mask := rfl
@[simp] theorem bumpBy_holdoff : (bumpBy c n s).flt.holdoff = s.flt.holdoff := rfl
@[simp] theorem bumpBy_keepalive : (bumpBy c n s).flt.keepalive = s.flt.keepalive := rfl

@[simp] theorem bump_cfg : (bump c s).cfg = s.cfg := rfl
@[simp] theorem bump_zones : (bump c s).zones = s.zones := rfl
@[simp] theorem bump_timeouts : (bump c s).timeouts = s.timeouts := rfl
@[simp] theorem bump_prt : (bump c s).prt = s.prt := rfl
@[simp] theorem bump_tbl : (bump c s).tbl = s.tbl := rfl
@[simp] theorem bump_hold : (bump c s).hold = s.hold := rfl
@[simp] theorem bump_mir : (bump c s).mir = s.mir := rfl
@[simp] theorem bump_shd : (bump c s).shd = s.shd := rfl
@[simp] theorem bump_pai : (bump c s).pai = s.pai := rfl
@[simp] theorem bump_tko : (bump c s).tko = s.tko := rfl
@[simp] theorem bump_tim : (bump c s).tim = s.tim := rfl
@[simp] theorem bump_mgtQueue : (bump c s).mgtQueue = s.mgtQueue := rfl
@[simp] theorem bump_flags : (bump c s).flt.flags = s.flt.flags := rfl
@[simp] theorem bump_mask : (bump c s).flt.mask = s.flt.mask := rfl
@[simp] theorem bump_holdoff : (bump c s).flt.holdoff = s.flt.holdoff := rfl
@[simp] theorem bump_keepalive : (bump c s).flt.keepalive = s.flt.keepalive := rfl

@[simp] theorem report_cfg : (report k i s).cfg = s.cfg := rfl
@[simp] theorem report_zones : (report k i s).zones = s.zones := rfl
@[simp] theorem report_timeouts : (report k i s).timeouts = s.timeouts := rfl
@[simp] theorem report_prt : (report k i s).prt = s.prt := rfl
@[simp] theorem report_tbl : (report k i s).tbl = s.tbl := rfl
@[simp] theorem report_hold : (report k i s).hold = s.hold := rfl
@[simp] theorem report_mir : (report k i s).mir = s.mir := rfl
@[simp] theorem report_shd : (report k i s).shd = s.shd := rfl
@[simp] theorem report_pai : (report k i s).pai = s.pai := rfl
@[simp] theorem report_tko : (report k i s).tko = s.tko := rfl
@[simp] theorem report_tim : (report k i s).tim = s.tim := rfl
@[simp] theorem report_mgtQueue : (report k i s).mgtQueue = s.mgtQueue := rfl
@[simp] theorem report_counters : (report k i s).flt.counters = s.flt.counters := by
  cases k <;> rfl
@[simp] theorem report_mask : (report k i s).flt.mask = s.flt.mask := by
  cases k <;> rfl
@[simp] theorem report_holdoff : (report k i s).flt.holdoff = s.flt.holdoff := by
  cases k <;> rfl
@[simp] theorem report_keepalive : (report k i s).flt.keepalive = s.flt.keepalive := by
  cases k <;> rfl
@[simp] theorem report_resetRecord : (report k i s).flt.resetRecord = s.flt.resetRecord := by
  cases k <;> rfl
@[simp] theorem report_flags : (report k i s).flt.flags = s.flt.flags ||| k.cls.flag.bitmap := by
  cases k <;> rfl

@[simp] theorem setRecord_cfg : (setRecord h r s).cfg = s.cfg := rfl
@[simp] theorem setRecord_zones : (setRecord h r s).zones = s.zones := rfl
@[simp] theorem setRecord_prt : (setRecord h r s).prt = s.prt := rfl
@[simp] theorem setRecord_hold : (setRecord h r s).hold = s.hold := rfl
@[simp] theorem setRecord_mir : (setRecord h r s).mir = s.mir := rfl
@[simp] theorem setRecord_shd : (setRecord h r s).shd = s.shd := rfl
@[simp] theorem setRecord_pai : (setRecord h r s).pai = s.pai := rfl
@[simp] theorem setRecord_tko : (setRecord h r s).tko = s.tko := rfl
@[simp] theorem setRecord_tim : (setRecord h r s).tim = s.tim := rfl
@[simp] theorem setRecord_flt : (setRecord h r s).flt = s.flt := rfl
@[simp] theorem setRecord_slots : (setRecord h r s).tbl.slots = s.tbl.slots := rfl
@[simp] theorem setRecord_free : (setRecord h r s).tbl.free = s.tbl.free := rfl

@[simp] theorem dequeue_mgtQueue (rest : List Frame) : (dequeue rest s).mgtQueue = rest := rfl
@[simp] theorem dequeue_cfg (rest : List Frame) : (dequeue rest s).cfg = s.cfg := rfl
@[simp] theorem dequeue_zones (rest : List Frame) : (dequeue rest s).zones = s.zones := rfl
@[simp] theorem dequeue_timeouts (rest : List Frame) : (dequeue rest s).timeouts = s.timeouts := rfl
@[simp] theorem dequeue_prt (rest : List Frame) : (dequeue rest s).prt = s.prt := rfl
@[simp] theorem dequeue_tbl (rest : List Frame) : (dequeue rest s).tbl = s.tbl := rfl
@[simp] theorem dequeue_hold (rest : List Frame) : (dequeue rest s).hold = s.hold := rfl
@[simp] theorem dequeue_mir (rest : List Frame) : (dequeue rest s).mir = s.mir := rfl
@[simp] theorem dequeue_shd (rest : List Frame) : (dequeue rest s).shd = s.shd := rfl
@[simp] theorem dequeue_pai (rest : List Frame) : (dequeue rest s).pai = s.pai := rfl
@[simp] theorem dequeue_tko (rest : List Frame) : (dequeue rest s).tko = s.tko := rfl
@[simp] theorem dequeue_tim (rest : List Frame) : (dequeue rest s).tim = s.tim := rfl
@[simp] theorem dequeue_flags (rest : List Frame) : (dequeue rest s).flt.flags = s.flt.flags := rfl

end fields

/-! ## Counters -/

/-- A counter that rises, and every other. -/
theorem counter_bumpBy (c d : Ctr) (n : Nat) (s : State) :
    counter (bumpBy d n s) c = if d.pos = c.pos then satAdd32 (counter s d) n else counter s c := by
  by_cases h : d.pos = c.pos
  · rw [if_pos h]
    simp only [counter, bumpBy]
    rw [Fin.getElem_fin, Vector.getElem_set]
    simp [h]
  · rw [if_neg h]
    simp only [counter, bumpBy]
    rw [Fin.getElem_fin, Vector.getElem_set, if_neg (fun e => h (Fin.ext e))]
    rfl

theorem counter_bump (c d : Ctr) (s : State) :
    counter (bump d s) c = if d.pos = c.pos then satAdd32 (counter s d) 1 else counter s c := counter_bumpBy c d 1 s

@[simp] theorem counter_report (c : Ctr) (k : ErrCode) (i : ErrInfo) (s : State) : counter (report k i s) c = counter s c := by
  simp [counter]

/-! ## A frame handed to a port -/

/-- All that handing a frame to a port can do: the frame joins a queue with room, or is counted and reported. -/
theorem handToPort_cases (port : Port) (f : Frame) (s : State) :
    ((s.prt.queue port).length < queueRoom port ∧
      handToPort port f s = { s with prt := s.prt.setQueue port (s.prt.queue port ++ [f]) }) ∨
    (queueRoom port ≤ (s.prt.queue port).length ∧
      handToPort port f s = report .prt1 (ErrInfo.ofPlace (portPlace port)) (bump (dropCounter port) s)) := by
  unfold handToPort
  split
  · rename_i h; exact .inl ⟨h, rfl⟩
  · rename_i h; exact .inr ⟨Nat.le_of_not_lt h, rfl⟩

/-- A frame handed to the P-port leaves alone what `PortKept` names. -/
theorem handToP_kept (f : Frame) (s : State) : PortKept [.pTxDrop] s (handToPort .p f s) := by
  have blocks := (handToPort_touches .p f s).mono (cs := noticeBlocks)
  rcases handToPort_cases .p f s with ⟨_, e⟩ | ⟨_, e⟩
  · rw [e] at blocks ⊢
    exact ⟨blocks, rfl, rfl, ⟨rfl, rfl, rfl⟩, rfl, List.prefix_append _ _, fun _ _ => rfl, ⟨rfl, rfl, rfl⟩, ⟨rfl, rfl, rfl⟩, rfl⟩
  · rw [e] at blocks ⊢
    refine ⟨blocks, rfl, rfl, ⟨rfl, rfl, rfl⟩, rfl, List.prefix_rfl, fun c h => ?_, ⟨rfl, rfl, rfl⟩, ⟨rfl, rfl, rfl⟩, ?_⟩
    · rw [counter_report, counter_bump, if_neg]
      intro e
      exact h .pTxDrop (by simp) e.symm
    · rw [report_flags, bump_flags]
      show s.flt.flags ||| Flag.errNote.bitmap ||| Flag.errNote.bitmap = _
      rw [BitVec.or_assoc, BitVec.or_self]

/-! ## Agreement up to the P-port, composed -/

end Sys2Proof.Machine

namespace Sys2Proof.Safety

open Sys2Proof.Machine

theorem PortKept.refl (cs : List Ctr) (s : State) : PortKept cs s s :=
  ⟨Touches.refl s, rfl, rfl, ⟨rfl, rfl, rfl⟩, rfl, List.prefix_rfl, fun _ _ => rfl, ⟨rfl, rfl, rfl⟩, ⟨rfl, rfl, rfl⟩, rfl⟩

theorem PortKept.trans {cs : List Ctr} {s t u : State} (a : PortKept cs s t) (b : PortKept cs t u) : PortKept cs s u where
  blocks := a.blocks.trans b.blocks
  wQueue := b.wQueue.trans a.wQueue
  sQueue := b.sQueue.trans a.sQueue
  sent := ⟨b.sent.1.trans a.sent.1, b.sent.2.1.trans a.sent.2.1, b.sent.2.2.trans a.sent.2.2⟩
  peer := b.peer.trans a.peer
  queue := a.queue.trans b.queue
  counts := fun c h => (b.counts c h).trans (a.counts c h)
  logs := ⟨b.logs.1.trans a.logs.1, b.logs.2.1.trans a.logs.2.1, b.logs.2.2.trans a.logs.2.2⟩
  kept := ⟨b.kept.1.trans a.kept.1, b.kept.2.1.trans a.kept.2.1, b.kept.2.2.trans a.kept.2.2⟩
  flags := b.flags.trans a.flags

theorem PortKept.mono {cs ds : List Ctr} {s t : State} (a : PortKept cs s t) (h : ∀ c ∈ cs, c ∈ ds) : PortKept ds s t :=
  { a with counts := fun c hc => a.counts c fun d hd => hc d (h d hd) }

end Sys2Proof.Safety

namespace Sys2Proof.Machine

open Sys2Proof.Safety

/-! ## A notice -/

/-- With no flag risen, an event ends as it stands. -/
theorem settle_self (s : State) : settle s.flt.flags s = s := by
  unfold settle
  rw [if_pos (by simp)]

/-- A change of the holdoff and the mark alone. -/
theorem marked_kept (s : State) (t : Timer) (b : Bool) :
    PortKept [.pTxDrop] s { s with flt := { s.flt with holdoff := t, noticeMark := b } } :=
  ⟨Touches.fields,
    rfl, rfl, ⟨rfl, rfl, rfl⟩, rfl, List.prefix_rfl, fun _ _ => rfl, ⟨rfl, rfl, rfl⟩, ⟨rfl, rfl, rfl⟩, rfl⟩

theorem sendNotice_noticed (s : State) : Noticed s (sendNotice s) := by
  have k := handToP_kept (noticeFrame s) { s with flt := { s.flt with holdoff := .running s.cfg.noticeHoldoff } }
  refine ⟨(marked_kept s (.running s.cfg.noticeHoldoff) s.flt.noticeMark).trans k, ?_, ?_⟩
  · unfold sendNotice handToPort
    split <;> simp [Prt.setQueue, Prt.queue]
  · intro room
    unfold sendNotice handToPort
    rw [if_pos (show (Prt.queue _ Port.p).length < queueRoom Port.p from room)]
    exact ⟨rfl, rfl, rfl⟩

/-- The end of an event brings at most one notice (R183, R184). -/
theorem settle_noticed (b : BitVec 9) (s : State) : Noticed s (settle b s) := by
  have same : Noticed s s := ⟨PortKept.refl _ s, Nat.le_succ _, fun _ => ⟨rfl, rfl, rfl⟩⟩
  unfold settle
  split
  · exact same
  · split
    · have n := sendNotice_noticed s
      simp only
      split
      · exact n
      · exact ⟨n.kept.trans (marked_kept (sendNotice s) (sendNotice s).flt.holdoff true), n.most, n.room⟩
    · exact ⟨marked_kept s s.flt.holdoff true, Nat.le_succ _, fun _ => ⟨rfl, rfl, rfl⟩⟩

/-! ## A response -/

/-- A request served: its effect, at most one notice, its response (R164). -/
theorem serve_replied (h : Handler) (r : Request) (rest : List Frame) (s : State) :
    Replied r (h r (dequeue rest s)).2 (h r (dequeue rest s)).1 (serve h r rest s) := by
  generalize e : h r (dequeue rest s) = out
  obtain ⟨u, a⟩ := out
  unfold serve
  simp only [e]
  have n := settle_noticed s.flt.flags u
  generalize settle s.flt.flags u = v at n
  have nk := n.kept.mono (ds := [.pTxDrop, .mgtRefused]) (by simp)
  -- the counted refusal
  have cnt : PortKept [.pTxDrop, .mgtRefused] v (if a.status.refuses then bump .mgtRefused v else v) := by
    split
    · refine ⟨(bump_touches .mgtRefused v).mono, rfl, rfl, ⟨rfl, rfl, rfl⟩, rfl, List.prefix_rfl, fun c hc => ?_,
        ⟨rfl, rfl, rfl⟩, ⟨rfl, rfl, rfl⟩, rfl⟩
      rw [counter_bump, if_neg]
      intro e
      exact hc .mgtRefused (by simp) e.symm
    · exact PortKept.refl _ v
  have frame : responseFrame r a v = responseFrame r a u := by
    have c : v.cfg = u.cfg := n.kept.blocks .cfg (by decide)
    simp [responseFrame, c]
  unfold respond
  rw [frame]
  generalize hw : (if a.status.refuses then bump .mgtRefused v else v) = w at cnt
  have hk := (handToP_kept (responseFrame r a u) w).mono (ds := [.pTxDrop, .mgtRefused]) (by simp)
  have fin := settle_noticed v.flt.flags (handToPort .p (responseFrame r a u) w)
  refine ⟨((nk.trans cnt).trans hk).trans (fin.kept.mono (by simp)), ?_, ?_⟩
  · rw [fin.kept.counts .mgtRefused (by decide), (handToP_kept _ w).counts .mgtRefused (by decide), ← hw]
    have cv := n.kept.counts .mgtRefused (by decide)
    split
    · rw [counter_bump, if_pos rfl, cv]
    · exact cv
  · intro room
    have pq : w.prt.pQueue = v.prt.pQueue := by rw [← hw]; split <;> rfl
    have fl : w.flt.flags = v.flt.flags := by rw [← hw]; split <;> rfl
    have lg : w.flt.logNote = v.flt.logNote := by rw [← hw]; split <;> rfl
    have len : v.prt.pQueue.length < Config.pQueueRoom := by have := n.most; omega
    have vr := n.room (by omega)
    have go : handToPort .p (responseFrame r a u) w =
        { w with prt := w.prt.setQueue .p (w.prt.queue .p ++ [responseFrame r a u]) } := by
      unfold handToPort
      rw [if_pos]
      show w.prt.pQueue.length < _
      rw [pq]; exact len
    rw [go]
    have st : settle v.flt.flags { w with prt := w.prt.setQueue .p (w.prt.queue .p ++ [responseFrame r a u]) } =
        { w with prt := w.prt.setQueue .p (w.prt.queue .p ++ [responseFrame r a u]) } := by
      rw [← fl]
      exact settle_self { w with prt := w.prt.setQueue .p (w.prt.queue .p ++ [responseFrame r a u]) }
    rw [st]
    exact ⟨by simp [Prt.setQueue, Prt.queue], fl.trans vr.2.1, lg.trans vr.2.2⟩

end Sys2Proof.Machine
end

