-- ==== Sys2Proof/Laws/Commands.lean ====
section
/-! SUPPORT. How a command reaches its effect: an event without a rise, a frame that passes the receive check, a request that
waits at the head of the agent's queue. -/

-- One proof at a time: proofs that wait for earlier checks would each take a thread.
set_option Elab.async false

namespace Sys2Proof.Machine

open Sys2Proof.Safety

/-! ## Events -/

/-- An event that raises no flag ends as its effect left it. -/
theorem event_quiet {f : State → State} {s : State} (h : (f s).flt.flags = s.flt.flags) : event f s = f s := by
  unfold event
  rw [← h]
  exact settle_self _

/-- An event ends as its effect left it, after at most one notice. -/
theorem event_noticed (f : State → State) (s : State) : Noticed (f s) (event f s) := settle_noticed _ _

/-- An expiry that is due acts; another does nothing. -/
theorem whenDue_true {b : Bool} (h : b = true) (f : State → State) (s : State) : whenDue b f s = f s := by
  unfold whenDue; rw [if_pos h]

theorem whenDue_false {b : Bool} (h : b = false) (f : State → State) (s : State) : whenDue b f s = s := by
  unfold whenDue; rw [if_neg (by rw [h]; decide)]

theorem due_running (t : Timer) (h : t = .running 0) : t.due = true := by subst h; rfl

/-! ## Frames that arrive -/

/-- A frame that passes the receive check is counted and goes on without its FCS (R1). -/
theorem receive_passes {port : Port} {f : RxFrame} {g : Frame} (p : Passes f g) (go : Frame → State → State) (s : State) :
    receive port f go s = go g (bump (rxCounter port) s) := by
  obtain ⟨a, b, c, rfl⟩ := p
  have l : lengthGood f = true := by
    unfold lengthGood
    rw [decide_eq_true (show Config.leastFrame ≤ _ from b), decide_eq_true (show _ ≤ Config.greatestFrame from c)]
    rfl
  unfold receive
  rw [if_neg (by rw [a]; simp), if_neg (by rw [l]; simp)]
  rfl

/-- A mirror frame of the primary path outside DETACHED goes to its consumer (R9). -/
theorem receive_mirror {f : RxFrame} {p : List Byte} {s : State} (b : BringsMirror s f p) (d : s.pai.role ≠ .detached) :
    receive .s f takeS s = mirrorDispatch .primary p (bump .sRx s) := by
  obtain ⟨g, h, n, e, rfl⟩ := b
  rw [receive_passes h]
  unfold takeS
  rw [if_neg (show ¬ (bump (rxCounter .s) s).pai.role = .detached from d), if_pos]
  · rfl
  · unfold isMirrorS
    rw [e] at n
    simp [n, e]

/-- A tunnelled mirror frame outside DETACHED goes to its consumer (R7, R9). -/
theorem receive_tunnelled {f : RxFrame} {g : Frame} {s : State} (h : Passes f g) (c : classW s g = .tunnelMirror)
    (d : s.pai.role ≠ .detached) :
    receive .w f takeW s = mirrorDispatch .secondary (g.drop (headerOf s g).off) (bump .wRx s) := by
  rw [receive_passes h]
  unfold takeW
  rw [if_neg (show ¬ (bump (rxCounter .w) s).pai.role = .detached from d)]
  unfold classedW
  rw [show classW (bump (rxCounter .w) s) g = classW s g from rfl, c]
  rfl

/-- A mirror frame of either path outside DETACHED: its command is the event of its dispatch (R9). -/
theorem arrives_event {path : PathId} {s : State} {c : Instr} {p : List Byte} (a : Arrives path s c p)
    (d : s.pai.role ≠ .detached) :
    ∃ f : State → State, f s = mirrorDispatch path p (arrived path s) ∧ exec c s = .next (event f s) := by
  cases path with
  | primary =>
    obtain ⟨f, rfl, b⟩ := a
    exact ⟨receive .s f takeS, receive_mirror b d, rfl⟩
  | secondary =>
    obtain ⟨f, g, rfl, h, k, rfl⟩ := a
    exact ⟨receive .w f takeW, receive_tunnelled h k d, rfl⟩

/-- A frame that enters the fast path (R7, R11). -/
theorem receive_enters {s : State} {f : RxFrame} {g : Frame} (e : Enters s f g) :
    receive .w f takeW s = fastPath g (bump .wRx s) := by
  obtain ⟨p, a, c⟩ := e
  rw [receive_passes p]
  unfold takeW
  rw [if_neg (by show s.pai.role ≠ _; intro x; rw [x] at a; cases a)]
  unfold classedW throughGate gateOpen
  rw [show classW (bump (rxCounter .w) s) g = classW s g from rfl, c]
  simp only
  rw [if_pos (show (bump (rxCounter .w) s).pai.role.isActive = true from a)]
  rfl

/-! ## Frames handed to a port with room -/

theorem handToP_room {f : Frame} {s : State} (h : s.prt.pQueue.length < 64) :
    handToPort .p f s = { s with prt := { s.prt with pQueue := s.prt.pQueue ++ [f] } } := by
  unfold handToPort
  exact if_pos h

theorem handToW_room {f : Frame} {s : State} (h : s.prt.wQueue.length < 128) :
    handToPort .w f s = { s with prt := { s.prt with wQueue := s.prt.wQueue ++ [f] } } := by
  unfold handToPort
  exact if_pos h

theorem handToS_room {f : Frame} {s : State} (h : s.prt.sQueue.length < 80) :
    handToPort .s f s = { s with prt := { s.prt with sQueue := s.prt.sQueue ++ [f] } } := by
  unfold handToPort
  exact if_pos h

/-! ## Requests -/

/-- The row of a request that waits whole, by its command. -/
theorem waiting_row {s : State} {r : Request} {rest : List Frame} (w : Waiting s r rest) :
    r.row = match r.command with
      | 1 => if r.object = 6 ∧ r.clear then .readCountersClear else .read
      | 2 => match r.object with
        | 1 => .writeConfig | 2 => .writeZones | 3 => .writeTimeouts | 5 => .writeStatus | 9 => .writeClock | _ => .write
      | 3 => .install
      | 4 => .find
      | 5 => .remove
      | 6 => match r.payload with
        | [] => .undefined
        | a :: _ => Row.ofAction a.toNat
      | 7 => .keepalive
      | _ => .undefined := by
  obtain ⟨f, _, _, l⟩ := w
  unfold Request.row
  exact if_neg (Nat.not_lt.2 l)

/-- The row of a CONTROL request, by its action. -/
theorem commanded_row {a : Byte} {s : State} {r : Request} {rest : List Frame} (w : Commanded a s r rest) :
    r.row = Row.ofAction a.toNat := by
  obtain ⟨w, c, _, p⟩ := w
  rw [waiting_row w, c]
  cases h : r.payload with
  | nil => rw [h] at p; cases p
  | cons b bs => rw [h] at p; cases p; rfl

/-- A row takes the request that waits at the head when it is of that row. -/
theorem takeRequest_waiting {row : Row} {s : State} {r : Request} {rest : List Frame} (w : Waiting s r rest) (hr : r.row = row)
    (h : Handler) : takeRequest row h s = serve h r rest s := by
  obtain ⟨f, q, rfl, _⟩ := w
  unfold takeRequest
  rw [q]
  simp only
  rw [if_pos hr]

/-- A CONTROL action whose payload is its 8 bytes acts. -/
theorem control_eight {act : Handler} {r : Request} (l : r.length = 8) (s : State) : control act r s = act r s := by
  unfold control
  rw [if_pos l]

/-- A row that takes its request replies as its handler answers. -/
theorem taken_replied {row : Row} {s : State} {r : Request} {rest : List Frame} (w : Waiting s r rest) (hr : r.row = row)
    (h : Handler) {u : State} {a : Answer} (e : h r (dequeue rest s) = (u, a)) : Replied r a u (takeRequest row h s) := by
  have x := serve_replied h r rest s
  rw [e] at x
  rw [takeRequest_waiting w hr]
  exact x

/-- The same for a CONTROL action. -/
theorem commanded_replied {row : Row} {c : Byte} {s : State} {r : Request} {rest : List Frame} (w : Commanded c s r rest)
    (hr : Row.ofAction c.toNat = row) (act : Handler) {u : State} {a : Answer} (e : act r (dequeue rest s) = (u, a)) :
    Replied r a u (takeRequest row (control act) s) :=
  taken_replied w.1 ((commanded_row w).trans hr) _ ((control_eight w.2.2.1 _).trans e)

/-- The payload of a request that waits whole is as long as it states. -/
theorem waiting_payload {s : State} {r : Request} {rest : List Frame} (w : Waiting s r rest) : r.payload.length = r.length := by
  obtain ⟨f, _, rfl, l⟩ := w
  unfold readRequest at l ⊢
  simp only [List.length_take] at l ⊢
  omega

end Sys2Proof.Machine
end

