-- ==== Sys2Proof/Laws/Access.lean ====
section
/-! SUPPORT. The checks of a WRITE (R165, R166): which status answers it, which places it visits, and which row takes it. -/

-- One proof at a time: proofs that wait for earlier checks would each take a thread.
set_option Elab.async false

namespace Sys2Proof.Machine

open Sys2Proof.Safety

/-- The index that entry k visits, but for a DECREMENT below 0 (R166). -/
def placeOf (m : StepMode) (i span k : Nat) : Nat :=
  match m with
  | .increment => i + k | .decrement => i - k | .fixed => i | .circulate => i + k % span

/-- The step mode that a code below 4 names, and the places that it visits (R166). -/
theorem mode_cases (r : Request) (h : r.stepMode < 4) : ∃ m, StepMode.ofCode r.stepMode = some m ∧
    (∀ k, entryPlace r k = placeOf m r.index r.span k) ∧ (m = .decrement ↔ r.stepMode = 1) ∧
    (m = .circulate ↔ r.stepMode = 3) := by
  have : r.stepMode = 0 ∨ r.stepMode = 1 ∨ r.stepMode = 2 ∨ r.stepMode = 3 := by omega
  rcases this with e | e | e | e <;> rw [e]
  · exact ⟨.increment, rfl, fun k => by unfold entryPlace; rw [e]; rfl, by decide, by decide⟩
  · exact ⟨.decrement, rfl, fun k => by unfold entryPlace; rw [e]; rfl, by decide, by decide⟩
  · exact ⟨.fixed, rfl, fun k => by unfold entryPlace; rw [e]; rfl, by decide, by decide⟩
  · exact ⟨.circulate, rfl, fun k => by unfold entryPlace; rw [e]; rfl, by decide, by decide⟩

/-- The indices that a request visits, when each lies within the object (R165 check 4). -/
theorem visits_within (o : Object) (m : StepMode) (r : Request) (hm : ∀ k, entryPlace r k = placeOf m r.index r.span k)
    (hd : m = .decrement ↔ r.stepMode = 1) :
    (placesWithin r o.indices → visits o m r = some ((List.range r.count).map (entryPlace r))) ∧
    (¬ placesWithin r o.indices → visits o m r = none) := by
  have key : ∀ k, visit m r.index r.span k = if m = .decrement ∧ r.index < k then none else some (entryPlace r k) := by
    intro k
    rw [hm]
    cases m <;> simp [visit, placeOf]
    by_cases x : k ≤ r.index
    · rw [if_pos x, if_neg (by omega)]
    · rw [if_neg x, if_pos (by omega)]
  have all : (((List.range r.count).map (visit m r.index r.span)).all (fun v => v.any fun i => decide (i < o.indices)) = true) ↔
      placesWithin r o.indices := by
    simp only [List.all_map, List.all_eq_true, List.mem_range, Function.comp, key]
    unfold placesWithin
    constructor
    · intro h
      refine ⟨fun e => ?_, fun k hk => ?_⟩
      · apply Classical.byContradiction
        intro c
        have := h (r.index + 1) (by omega)
        rw [if_pos ⟨hd.2 e, by omega⟩] at this
        simp at this
      · have := h k hk
        split at this
        · simp at this
        · simpa using this
    · rintro ⟨a, b⟩ k hk
      rw [if_neg]
      · simpa using b k hk
      · rintro ⟨e, l⟩
        have := a (hd.1 e)
        omega
  refine ⟨fun h => ?_, fun h => ?_⟩
  · unfold visits
    simp only
    rw [if_pos (all.2 h)]
    congr 1
    have : (List.range r.count).map (visit m r.index r.span) = (List.range r.count).map fun k => some (entryPlace r k) := by
      apply List.map_congr_left
      intro k hk
      rw [key, if_neg]
      rintro ⟨e, l⟩
      have := h.1 (hd.1 e)
      have := List.mem_range.1 hk
      omega
    rw [this]
    simp [List.filterMap_map]
  · unfold visits
    simp only
    rw [if_neg (fun x => h (all.1 x))]

/-- Check 3 of a WRITE (R165). -/
theorem fieldsGood_iff (o : Object) (m : StepMode) (r : Request) (h4 : r.stepMode < 4) (hc : m = .circulate ↔ r.stepMode = 3) :
    fieldsGood o m false r = true ↔ fieldsAllowed r ∧ r.clear = false := by
  unfold fieldsGood fieldsAllowed
  cases m <;> cases r.clear <;> simp_all

/-- Checks 3 to 5 of a WRITE of an object, in order, and the places of one that meets them (R165, R166). -/
theorem checkAccess_write (o : Object) (r : Request) (ho : Object.ofCode r.object = some o) :
    (¬ (fieldsAllowed r ∧ r.clear = false) → checkAccess false r = .error .badCommand) ∧
    (fieldsAllowed r ∧ r.clear = false → ¬ placesWithin r o.indices → checkAccess false r = .error .badIndex) ∧
    (fieldsAllowed r ∧ r.clear = false → placesWithin r o.indices →
      ¬ (r.count * o.entrySize ≤ 1408 ∧ r.length = r.count * o.entrySize) → checkAccess false r = .error .badLength) ∧
    (fieldsAllowed r ∧ r.clear = false → placesWithin r o.indices →
      (r.count * o.entrySize ≤ 1408 ∧ r.length = r.count * o.entrySize) →
      checkAccess false r = .ok (o, (List.range r.count).map (entryPlace r))) := by
  have fits : lengthFits o false r = true ↔ (r.count * o.entrySize ≤ 1408 ∧ r.length = r.count * o.entrySize) := by
    unfold lengthFits
    show (decide (r.count * o.entrySize ≤ 1408) && (false || r.length == r.count * o.entrySize)) = true ↔ _
    rw [Bool.and_eq_true, decide_eq_true_iff, Bool.false_or, beq_iff_eq]
  by_cases h4 : r.stepMode < 4
  · obtain ⟨m, e, p, d, c⟩ := mode_cases r h4
    have f := fieldsGood_iff o m r h4 c
    obtain ⟨v1, v2⟩ := visits_within o m r p d
    unfold checkAccess
    simp only [ho, e]
    refine ⟨fun n => ?_, fun y n => ?_, fun y w n => ?_, fun y w n => ?_⟩
    · rw [if_pos (fun x => n (f.1 x))]
    · rw [if_neg (by rw [f.2 y]; simp)]; simp only [v2 n]
    · rw [if_neg (by rw [f.2 y]; simp)]; simp only [v1 w]; rw [if_neg (fun x => n (fits.1 x))]
    · rw [if_neg (by rw [f.2 y]; simp)]; simp only [v1 w]; rw [if_pos (fits.2 n)]
  · have e : StepMode.ofCode r.stepMode = none := by
      unfold StepMode.ofCode
      split <;> first | omega | rfl
    unfold checkAccess
    simp only [ho, e]
    exact ⟨fun _ => trivial, fun y => absurd y.1.2.1 h4, fun y => absurd y.1.2.1 h4, fun y => absurd y.1.2.1 h4⟩

/-- A WRITE of an object is answered by its own row. -/
theorem write_replied {s : State} {r : Request} {rest : List Frame} (w : Waiting s r rest) (c : r.command = 2) (o : Object)
    (ho : Object.ofCode r.object = some o) {a : Answer} {u : State} (e : answerWrite r (dequeue rest s) = (u, a)) :
    ∃ t, exec (writeCommand o) s = .next t ∧ Replied r a u t := by
  have row := waiting_row w
  rw [c] at row
  simp only at row
  have : r.object = 1 ∨ r.object = 2 ∨ r.object = 3 ∨ r.object = 4 ∨ r.object = 5 ∨ r.object = 6 ∨ r.object = 7 ∨ r.object = 8 ∨
      r.object = 9 := by
    revert ho; unfold Object.ofCode; split <;> simp_all
  rcases this with x | x | x | x | x | x | x | x | x <;> rw [x] at ho row <;> cases ho <;>
    exact ⟨_, rfl, taken_replied w row _ e⟩

end Sys2Proof.Machine
end

