-- ==== Sys2Proof/Laws/Bytes.lean ====
section
/-! SUPPORT. Fields read back from the bytes that were written for them. -/

-- One proof at a time: proofs that wait for earlier checks would each take a thread.
set_option Elab.async false

namespace Sys2Proof.Machine

/-- Two neighbouring parts of a word, put together. -/
theorem extract_append {w : Nat} (v : BitVec w) (i a b : Nat) :
    v.extractLsb' (i + b) a ++ v.extractLsb' i b = v.extractLsb' i (a + b) := by
  apply BitVec.eq_of_getLsbD_eq
  intro k hk
  rw [BitVec.getLsbD_append]
  simp only [BitVec.getLsbD_extractLsb']
  split
  · rename_i h
    rw [decide_eq_true h, decide_eq_true hk]
  · rename_i h
    rw [decide_eq_true (show k - b < a by omega), decide_eq_true hk]
    simp only [Bool.true_and]
    congr 1
    omega

theorem extract_whole {w : Nat} (v : BitVec w) : v.extractLsb' 0 w = v := by
  apply BitVec.eq_of_getLsbD_eq
  intro k hk
  simp [hk]

theorem join16 (v : BitVec 16) : v.extractLsb' 8 8 ++ v.extractLsb' 0 8 = v :=
  (extract_append v 0 8 8).trans (extract_whole v)

theorem join32 (v : BitVec 32) :
    (v.extractLsb' 24 8 ++ v.extractLsb' 16 8) ++ (v.extractLsb' 8 8 ++ v.extractLsb' 0 8) = v := by
  rw [show v.extractLsb' 24 8 ++ v.extractLsb' 16 8 = v.extractLsb' 16 16 from extract_append v 16 8 8,
    show v.extractLsb' 8 8 ++ v.extractLsb' 0 8 = v.extractLsb' 0 16 from extract_append v 0 8 8]
  exact (extract_append v 0 16 16).trans (extract_whole v)

theorem join48 (v : BitVec 48) :
    (v.extractLsb' 40 8 ++ v.extractLsb' 32 8) ++
      ((v.extractLsb' 24 8 ++ v.extractLsb' 16 8) ++ (v.extractLsb' 8 8 ++ v.extractLsb' 0 8)) = v := by
  rw [show v.extractLsb' 40 8 ++ v.extractLsb' 32 8 = v.extractLsb' 32 16 from extract_append v 32 8 8,
    show v.extractLsb' 24 8 ++ v.extractLsb' 16 8 = v.extractLsb' 16 16 from extract_append v 16 8 8,
    show v.extractLsb' 8 8 ++ v.extractLsb' 0 8 = v.extractLsb' 0 16 from extract_append v 0 8 8,
    show v.extractLsb' 16 16 ++ v.extractLsb' 0 16 = v.extractLsb' 0 32 from extract_append v 0 16 16]
  exact (extract_append v 0 16 32).trans (extract_whole v)

/-! ## Reading behind what stands before -/

theorem byteAt_append (a b : List Byte) (i : Nat) : byteAt (a ++ b) (a.length + i) = byteAt b i := by
  unfold byteAt
  rw [List.getD_eq_getElem?_getD, List.getD_eq_getElem?_getD, List.getElem?_append_right (by omega)]
  congr 2
  omega

theorem word16At_append (a b : List Byte) (i : Nat) : word16At (a ++ b) (a.length + i) = word16At b i := by
  unfold word16At
  rw [Nat.add_assoc, byteAt_append, byteAt_append]

theorem word32At_append (a b : List Byte) (i : Nat) : word32At (a ++ b) (a.length + i) = word32At b i := by
  unfold word32At
  rw [Nat.add_assoc, word16At_append, word16At_append]

theorem macAt_append (a b : List Byte) (i : Nat) : macAt (a ++ b) (a.length + i) = macAt b i := by
  unfold macAt
  rw [Nat.add_assoc, word16At_append, word32At_append]

theorem word16At_bytes16 (v : Word16) (l : List Byte) : word16At (bytes16 v ++ l) 0 = v := join16 v

theorem word32At_bytes32 (v : Word32) (l : List Byte) : word32At (bytes32 v ++ l) 0 = v := join32 v

theorem macAt_bytes48 (v : Mac) (l : List Byte) : macAt (bytes48 v ++ l) 0 = v := join48 v

end Sys2Proof.Machine
end

