-- ==== Sys2Proof/Laws/RoleFrames.lean ====
section
/-! SUPPORT. What a role change, a parity check, a lookup, a frame of the traffic path, a DATA frame and a hello can touch. -/

-- One proof at a time: proofs that wait for earlier checks would each take a thread.
set_option Elab.async false

namespace Sys2Proof.Machine

open Sys2Proof.Safety

/-! ## Roles -/

theorem replayExpired_touches (s : State) : Touches (.pai :: streamBlocks) s (replayExpired s) := by
  refine Touches.trans ?_ (atReplayLimit_touches _)
  refine Touches.trans ?_ ((restartReplayTimer_touches _).mono)
  refine Touches.trans ((retransmitOn_touches s.mir.dataPath s).mono) ?_
  exact Touches.fields

theorem gapRetransmit_touches (n : Word16) (s : State) : Touches (.pai :: streamBlocks) s (gapRetransmit n s) := by
  refine Touches.trans ?_ (atReplayLimit_touches _)
  refine Touches.trans ?_ ((restartReplayTimer_touches _).mono)
  refine Touches.trans ((retransmitOn_touches s.mir.dataPath s).mono) ?_
  exact Touches.fields

theorem takeAck_touches (k : Nat) (s : State) : Touches streamBlocks s (takeAck k s) := by
  unfold takeAck
  simp only
  refine Touches.trans ?_ ((restartReplayTimer_touches _).mono)
  refine Touches.trans ?_ ((releaseWhere_touches _ _ _).mono)
  exact Touches.fields

theorem receiveAck_touches (g : Word32) (n : Word16) (gap : Bool) (s : State) :
    Touches (.pai :: streamBlocks) s (receiveAck g n gap s) := by
  unfold receiveAck
  have ignored : ∀ u, Touches (.pai :: streamBlocks) u (bump .ackIgnored u) := fun u => (bump_touches _ u).mono
  split
  · exact ignored s
  · split
    · exact ignored s
    · simp only
      split
      · split
        · exact gapRetransmit_touches n s
        · exact ignored s
      · split
        · have taken := (takeAck_touches (n - oldestSeq s.mir).toNat s).mono (cs := .pai :: streamBlocks)
          split
          · exact taken.trans (gapRetransmit_touches n _)
          · exact taken
        · exact ((report_touches _ _ s).mono).trans (ignored _)

theorem watchPeer_touches (before s : State) : Touches [.flt] s (watchPeer before s) := by
  unfold watchPeer
  split
  · exact Touches.refl s
  · exact raise_touches _ s

theorem addHistory_touches (a b : Role) (c : Cause) (s : State) : Touches [.pai] s (addHistory a b c s) :=
  Touches.fields

theorem standbyAtChange_touches (a b : Role) (c : Cause) (s : State) :
    Touches [.tbl, .shd, .pai] s (standbyAtChange a b c s) := by
  unfold standbyAtChange
  split
  · exact Touches.fields
  · split
    · exact Touches.fields
    · exact Touches.refl s

theorem streamAtChange_touches (r : Role) (s : State) : Touches streamBlocks s (streamAtChange r s) := by
  unfold streamAtChange
  split
  · exact Touches.refl s
  · exact closeStream_touches r s

theorem listenAtChange_touches (r : Role) (s : State) : Touches [.pai] s (listenAtChange r s) :=
  Touches.fields

theorem yieldAtChange_touches (r : Role) (s : State) : Touches [.pai] s (yieldAtChange r s) :=
  Touches.fields

theorem enterTakeover_touches (a : Role) (s : State) : Touches [.pai, .tko, .flt] s (enterTakeover a s) := by
  unfold enterTakeover
  simp only
  split
  · refine Touches.trans ?_ ((bump_touches _ _).mono)
    refine Touches.trans ?_ ((report_touches _ _ _).mono)
    exact Touches.fields
  · exact Touches.fields

theorem takeoverAtChange_touches (a b : Role) (s : State) : Touches [.pai, .tko, .flt] s (takeoverAtChange a b s) := by
  unfold takeoverAtChange
  split
  · exact enterTakeover_touches a s
  · exact Touches.fields

theorem burstAtChange_touches (a b : Role) (s : State) : Touches [.prt, .flt, .tko] s (burstAtChange a b s) := by
  unfold burstAtChange
  split
  · exact startBurst_touches s
  · split
    · exact Touches.refl s
    · exact (endBurst_touches s).mono

theorem keepaliveAtChange_touches (r : Role) (s : State) : Touches [.flt] s (keepaliveAtChange r s) := by
  unfold keepaliveAtChange
  split
  · exact Touches.refl s
  · exact Touches.fields

theorem patrolAtChange_touches (r : Role) (s : State) : Touches [.tim] s (patrolAtChange r s) := by
  unfold patrolAtChange
  split
  · exact Touches.refl s
  · exact Touches.fields

theorem detachAtChange_touches (r : Role) (s : State) : Touches [.pai, .flt] s (detachAtChange r s) := by
  unfold detachAtChange
  split
  · simp only
    refine Touches.trans ?_ ((watchPeer_touches _ _).mono)
    split <;> exact Touches.fields
  · exact Touches.refl s

theorem changeRole_touches (r : Role) (c : Cause) (s : State) : Touches roleBlocks s (changeRole r c s) := by
  unfold changeRole
  simp only
  refine Touches.trans ?_ ((sendHello_touches _).mono)
  refine Touches.trans ?_ ((detachAtChange_touches r _).mono)
  refine Touches.trans ?_ ((patrolAtChange_touches r _).mono)
  refine Touches.trans ?_ ((keepaliveAtChange_touches r _).mono)
  refine Touches.trans ?_ ((burstAtChange_touches _ r _).mono)
  refine Touches.trans ?_ ((takeoverAtChange_touches _ r _).mono)
  refine Touches.trans ?_ ((yieldAtChange_touches r _).mono)
  refine Touches.trans ?_ ((listenAtChange_touches r _).mono)
  refine Touches.trans ?_ ((streamAtChange_touches r _).mono)
  refine Touches.trans ?_ ((standbyAtChange_touches _ r c _).mono)
  exact Touches.fields

theorem raiseFault_touches (c : ErrCode) (i : ErrInfo) (s : State) : Touches roleBlocks s (raiseFault c i s) := by
  unfold raiseFault
  simp only
  split
  · exact (report_touches _ _ s).mono
  · exact ((report_touches _ _ s).mono).trans (changeRole_touches _ _ _)

theorem tableFault_touches (i : ErrInfo) (c : Ctr) (s : State) : Touches roleBlocks s (tableFault i c s) := by
  refine Touches.trans ?_ ((clearTable_touches _).mono)
  exact ((bump_touches c s).mono).trans (raiseFault_touches _ i _)

/-! ## Parity and lookups -/

theorem removeParity_touches (h : Nat) (g : Bool) (s : State) : Touches roleBlocks s (removeParity h g s) := by
  unfold removeParity
  simp only
  split
  · exact (removeSession_touches h .parity g s).then (joinRefresh_touches h _)
  · exact (removeSession_touches h .parity g s).mono

theorem checkSlot_touches (pos : Nat) (s : State) : Touches roleBlocks s (checkSlot pos s).1 := by
  unfold checkSlot
  split
  · exact Touches.refl s
  · split
    · exact Touches.refl s
    · split
      · refine Touches.trans ?_ (removeParity_touches _ _ _)
        exact (report_touches _ _ s).then (bump_touches _ _)
      · exact tableFault_touches _ _ s

theorem checkRecord_touches (h : Nat) (s : State) : Touches roleBlocks s (checkRecord h s).1 := by
  unfold checkRecord
  simp only
  split
  · exact tableFault_touches _ _ s
  · split
    · refine Touches.trans ?_ (removeParity_touches _ _ _)
      exact (report_touches _ _ s).then (bump_touches _ _)
    · exact Touches.refl s

theorem checkSlots_touches (ps : List Nat) (s : State) : Touches roleBlocks s (checkSlots ps s).1 := by
  induction ps generalizing s with
  | nil => exact Touches.refl s
  | cons p ps ih =>
    unfold checkSlots
    have one := checkSlot_touches p s
    split
    · rename_i s1 heq; rw [heq] at one; exact one
    · rename_i s1 c _ heq; rw [heq] at one; exact one.trans (ih s1)

theorem lookup_touches (k : Key) (s : State) : Touches roleBlocks s (lookup k s).1 := by
  unfold lookup
  have slots := checkSlots_touches (keyPositions s.cfg.hashSeed k) s
  split
  · rename_i s1 heq; rw [heq] at slots; exact slots
  · rename_i s1 heq
    rw [heq] at slots
    split
    · exact slots
    · rename_i sl _
      have chk := checkRecord_touches sl.handle s1
      split
      · rename_i s2 heq2; rw [heq2] at chk; exact slots.trans chk
      · rename_i s2 c _ heq2; rw [heq2] at chk; exact slots.trans chk

/-! ## The traffic path -/

theorem markAfter_touches (h : Nat) (old new : Body) (s : State) : Touches [.tbl, .mir, .flt] s (markAfter h old new s) := by
  unfold markAfter
  split
  · exact (markDirty_touches _ h s).then (bump_touches _ _)
  · exact Touches.refl s

theorem writeBack_touches (h : Nat) (old new : Body) (ns : List ErrCode) (s : State) :
    Touches [.tbl, .mir, .flt] s (writeBack h old new ns s) := by
  unfold writeBack
  simp only
  refine Touches.trans ?_ (markAfter_touches h old new _)
  exact (setRecord_touches h _ s).then (Touches.foldl (fun s c => report_touches c _ s) ns _)

theorem sendException_touches (r : Reason) (z h : Option Nat) (f : Frame) (s : State) :
    Touches reports s (sendException r z h f s) := (handToPort_touches _ _ s).then (bump_touches _ _)

theorem refuseFrame_touches (c : Ctr) (z h : Nat) (f : Frame) (s : State) : Touches reports s (refuseFrame c z h f s) := by
  unfold refuseFrame
  simp only
  split
  · exact (bump_touches c s).then (sendException_touches _ _ _ _ _)
  · exact (bump_touches c s).then (bump_touches _ _)

theorem trackHit_touches (z h : Nat) (d : Dir) (f : Frame) (s : State) : Touches streamBlocks s (trackHit z h d f s) := by
  unfold trackHit
  simp only
  split
  · rename_i b' notes _
    exact ((writeBack_touches h (recordOf s h).body b' notes s).mono).trans
      (((handToPort_touches _ _ _).mono).trans ((bump_touches _ _).mono))
  · exact (refuseFrame_touches _ _ _ _ s).mono
  · exact ((removeSession_touches h .reopen false s).mono).trans ((handToPort_touches _ _ _).mono)

theorem fastPath_touches (f : Frame) (s : State) : Touches roleBlocks s (fastPath f s) := by
  unfold fastPath
  split
  · exact (sendException_touches _ _ _ _ s).mono
  · rename_i z k _
    have look := lookup_touches k s
    split
    · rename_i s1 heq; rw [heq] at look; exact look.trans ((sendException_touches _ _ _ _ s1).mono)
    · rename_i s1 h d heq
      rw [heq] at look
      split
      · exact look.trans ((bump_touches _ s1).mono)
      · exact look.trans ((trackHit_touches _ _ _ _ s1).mono)

theorem classP_touches (f : Frame) (s : State) : Touches (.mgtQueue :: reports) s (classP f s) := by
  unfold classP enqueueRequest processorOut
  split
  · split
    · exact Touches.fields
    · exact (bump_touches _ s).then (report_touches _ _ _)
  · split
    · exact (handToPort_touches _ _ s).mono
    · exact (bump_touches _ s).mono

/-- A received frame touches what its consumer touches, the reports, and for the S-port the mirror transmitter. -/
theorem receive_touches {bs : List Block} (port : Port) (f : RxFrame) (go : Frame → State → State) (s : State)
    (h : ∀ g t, Touches bs t (go g t)) (hf : ∀ b, b ∈ [Block.flt] → b ∈ bs := by decide)
    (hs : port = .s → ∀ b, b ∈ [Block.mir, .prt, .flt] → b ∈ bs) : Touches bs s (receive port f go s) := by
  unfold receive
  simp only
  split
  · split
    · rename_i hp
      exact ((bump_touches _ s).mono hf).trans ((countFcs_touches _).mono (hs hp))
    · exact (bump_touches _ s).mono hf
  · split
    · exact (bump_touches _ s).mono hf
    · exact ((bump_touches _ s).mono hf).trans (h _ _)

/-! ## The shadow receiver -/

theorem whileStandby_touches {bs : List Block} {f : State → State} {s : State} (h : Touches bs s (f s)) :
    Touches bs s (whileStandby f s) := by
  unfold whileStandby
  split
  · exact h
  · exact Touches.refl s

theorem removeCollision_touches (h : Nat) (k : Key) (s : State) : Touches roleBlocks s (removeCollision h k s) := by
  unfold removeCollision
  have look := lookup_touches k s
  split
  · rename_i s1 h' d heq
    rw [heq] at look
    split
    · exact look
    · exact look.trans ((removeSession_touches h' .stale false s1).mono)
  · rename_i s1 heq; rw [heq] at look; exact look

theorem leaveRefresh_touches (h : Nat) (s : State) : Touches [.shd] s (leaveRefresh h s) :=
  Touches.fields

theorem placeRecord_touches (h : Nat) (e : Word16) (w : Whole) (s : State) :
    Touches [.tbl, .shd, .prt, .flt, .pai] s (placeRecord h e w s) := by
  unfold placeRecord
  split
  · exact (report_touches _ _ s).then (joinRefresh_touches h _)
  · refine Touches.trans ?_ ((leaveRefresh_touches h _).mono)
    refine Touches.trans ?_ ((bumpBy_touches _ _ _).mono)
    exact Touches.fields

theorem placeDelta_touches (h : Nat) (e : Word16) (w : Whole) (s : State) : Touches roleBlocks s (placeDelta h e w s) := by
  unfold placeDelta
  refine (checkRecord_touches h s).trans (whileStandby_touches ?_)
  simp only
  split
  · exact (setRecord_touches h _ _).then (leaveRefresh_touches h _)
  · refine Touches.trans ?_ (whileStandby_touches ((placeRecord_touches h e w _).mono))
    refine Touches.trans ?_ (whileStandby_touches (removeCollision_touches h w.replyKey _))
    exact ((removeSession_touches h .stale false _).mono).trans (removeCollision_touches h w.origKey _)

theorem purgeOne_touches (s : State) (h : Nat) : Touches roleBlocks s (purgeOne s h) := by
  unfold purgeOne
  refine whileStandby_touches ?_
  refine (checkRecord_touches h s).trans (whileStandby_touches ?_)
  split
  · exact (removeSession_touches h .purge false _).mono
  · exact Touches.refl _

theorem compareDigest_touches (k : CompareKind) (g : Word32) (q : Word16) (n m : Word32) (s : State) :
    Touches [.shd, .prt, .flt, .pai] s (compareDigest k g q n m s) := by
  have base : Touches [.shd, .prt, .flt, .pai] s
      { s with shd := { s.shd with lastCompare := some (comparison k g q n m s) } } := by
    exact Touches.fields
  unfold compareDigest
  simp only
  split
  · exact base.trans ((bump_touches _ _).mono)
  · refine base.trans (Touches.trans ?_ ((setBulkWanted_touches _).mono))
    exact (bump_touches _ _).then (report_touches _ _ _)

theorem beginBulk_touches (n : Word32) (s : State) : Touches roleBlocks s (beginBulk n s) := by
  have base : Touches roleBlocks s
      (raise .bulk { s with shd := { s.shd with bulkWanted := false, refresh := [], bulkStart := n.toNat } }) := by
    exact Touches.fields
  unfold beginBulk
  simp only
  split
  · exact base.trans (changeRole_touches _ _ _)
  · exact base

theorem endBulk_touches (g : Word32) (q : Word16) (n m : Word32) (s : State) : Touches roleBlocks s (endBulk g q n m s) := by
  unfold endBulk
  refine (Touches.foldl purgeOne_touches _ s).trans (whileStandby_touches ?_)
  have base : Touches roleBlocks (purge s) (raise .bulk (compareDigest .bulkEnd g q n m (purge s))) :=
    (compareDigest_touches _ g q n m _).then (raise_touches _ _)
  simp only
  split
  · exact base.trans (changeRole_touches _ _ _)
  · exact base

theorem updateRecord_touches (h : Nat) (e : Word16) (i : Image) (s : State) : Touches roleBlocks s (updateRecord h e i s) := by
  unfold updateRecord
  split
  · exact (setRecord_touches h _ s).mono
  · exact (bump_touches _ s).then (joinRefresh_touches h _)

theorem removeRecord_touches (h : Nat) (e : Word16) (s : State) : Touches roleBlocks s (removeRecord h e s) := by
  unfold removeRecord
  refine Touches.trans ?_ ((leaveRefresh_touches h _).mono)
  split
  · exact (removeSession_touches h .remote false s).mono
  · exact (bump_touches _ s).mono

theorem checkNamed_touches (h : Nat) (e : Word16) (s : State) : Touches roleBlocks s (checkNamed h e s) := by
  unfold checkNamed
  split
  · exact checkRecord_touches h s
  · exact Touches.refl s

theorem applyDelta_touches (id : FrameId) (first : Bool) (d : Delta) (s t : State) (h : applyDelta id first d s = some t) :
    Touches roleBlocks s t := by
  cases d with
  | place h' e w =>
    simp only [applyDelta] at h
    split at h
    · cases h; exact placeDelta_touches h' e w s
    · cases h
  | update h' e i =>
    simp only [applyDelta] at h
    split at h
    · cases h
    · cases h; exact (checkNamed_touches h' e s).trans (whileStandby_touches (updateRecord_touches h' e i _))
  | remove h' e =>
    simp only [applyDelta] at h
    cases h
    exact (checkNamed_touches h' e s).trans (whileStandby_touches (removeRecord_touches h' e _))
  | bulkBegin n =>
    simp only [applyDelta] at h
    split at h
    · cases h; exact beginBulk_touches n s
    · cases h
  | compare k n m =>
    cases k <;> (simp only [applyDelta] at h; cases h)
    · exact endBulk_touches _ _ n m s
    · exact (compareDigest_touches _ _ _ n m s).mono

theorem malformed_touches (id : FrameId) (s : State) : Touches roleBlocks s (malformed id s) :=
  (report_touches _ _ s).then (setBulkWanted_touches _)

theorem applyDeltas_touches (id : FrameId) (fuel : Nat) (first : Bool) (bs : List Byte) (s : State) :
    Touches roleBlocks s (applyDeltas id fuel first bs s) := by
  induction fuel generalizing first bs s with
  | zero => exact Touches.refl s
  | succ n ih =>
    cases bs with
    | nil => exact Touches.refl s
    | cons b bs =>
      unfold applyDeltas
      split
      · exact malformed_touches id s
      · split
        · exact malformed_touches id s
        · rename_i s1 heq
          have one := applyDelta_touches _ _ _ _ _ heq
          split
          · exact one.trans (ih _ _ _)
          · exact one

theorem sendAck_touches (p : PathId) (g : Bool) (s : State) : Touches [.shd, .prt, .flt] s (sendAck p g s) := by
  unfold sendAck
  refine Touches.trans ?_ ((bump_touches _ _).mono)
  refine Touches.trans ?_ ((sendMirror_touches p _ _).mono)
  exact Touches.fields

theorem countAccepted_touches (s : State) : Touches [.shd, .prt, .flt] s (countAccepted s) := by
  unfold countAccepted
  simp only
  split
  · exact sendAck_touches _ _ s
  · exact Touches.fields

theorem acceptFrame_touches (p : PathId) (id : FrameId) (ds : List Byte) (s : State) :
    Touches roleBlocks s (acceptFrame p id ds s) := by
  unfold acceptFrame
  refine Touches.trans ?_ (whileStandby_touches ((countAccepted_touches _).mono))
  refine Touches.trans ?_ (applyDeltas_touches id _ true ds _)
  exact Touches.fields

theorem receiveData_touches (p : PathId) (bs : List Byte) (s : State) : Touches roleBlocks s (receiveData p bs s) := by
  unfold receiveData
  simp only
  split
  · exact (bump_touches _ s).mono
  · split
    · split
      · refine Touches.trans ?_ (acceptFrame_touches p _ _ _)
        exact Touches.fields
      · exact (bump_touches _ s).mono
    · split
      · unfold takeCurrent
        simp only
        split
        · exact acceptFrame_touches p _ _ s
        · split
          · exact (bump_touches _ s).then (sendAck_touches p _ _)
          · exact (bump_touches _ s).then (sendAck_touches p _ _)
      · exact (bump_touches _ s).mono

/-! ## The pairing controller -/

theorem latchJudgment_touches (p : PathId) (j : Judgment) (s : State) : Touches [.pai, .flt] s (latchJudgment p j s) := by
  have base : Touches [.pai, .flt] s (raise .peer { s with pai := s.pai.setPath p { s.pai.path p with judgment := j } }) := by
    exact Touches.fields
  unfold latchJudgment
  simp only
  split
  · exact Touches.refl s
  · split
    · exact base
    · exact base.trans ((report_touches _ _ _).mono)

theorem helloOnPath_touches (p : PathId) (s : State) : Touches [.pai, .mir, .prt, .flt] s (helloOnPath p s) := by
  unfold helloOnPath
  simp only
  split
  · exact Touches.fields
  · refine Touches.trans ?_ ((rechoose_touches _).mono)
    refine Touches.trans ?_ ((raise_touches _ _).mono)
    split <;> exact Touches.fields

theorem takeRefresh_touches (h : Hello) (s : State) : Touches [.tbl, .mir] s (takeRefresh h s) := by
  unfold takeRefresh
  split
  · refine Touches.foldl ?_ _ s
    intro u k
    unfold markRefresh
    split
    · exact markDirty_touches _ _ u
    · exact Touches.refl u
  · exact Touches.refl s

theorem openStream_touches (h : Hello) (s : State) : Touches (.pai :: streamBlocks) s (openStream h s) := by
  unfold openStream
  simp only
  split
  · exact beginStream_touches _ s
  · exact ((report_touches _ _ s).mono).trans (beginStream_touches _ _)

theorem mirrorHello_touches (r : Role) (h : Hello) (s : State) : Touches (.pai :: streamBlocks) s (mirrorHello r h s) := by
  unfold mirrorHello
  split
  · exact (closeStream_touches r s).mono
  · refine Touches.trans ?_ ((takeRefresh_touches h _).mono)
    split
    · exact openStream_touches h s
    · exact Touches.refl s

theorem reportRule_touches (p : PathId) (c : Cause) (s : State) : Touches [.flt] s (reportRule p c s) := by
  unfold reportRule
  split
  · exact report_touches _ _ s
  · exact report_touches _ _ s
  · exact Touches.refl s

theorem latchActive_touches (h : Hello) (s : State) : Touches [.pai] s (latchActive h s) := by
  unfold latchActive
  split
  · exact Touches.fields
  · exact Touches.refl s

theorem governHello_touches (p : PathId) (h : Hello) (s : State) : Touches roleBlocks s (governHello p h s) := by
  unfold governHello
  split
  · exact (mirrorHello_touches _ h s).then (latchActive_touches h _)
  · rename_i r c _
    refine Touches.trans ?_ (changeRole_touches r c _)
    refine Touches.trans ?_ ((reportRule_touches p c _).mono)
    exact (mirrorHello_touches r h s).then (latchActive_touches h _)

theorem receiveHello_touches (p : PathId) (bs : List Byte) (s : State) : Touches roleBlocks s (receiveHello p bs s) := by
  unfold receiveHello
  simp only
  have judged := (latchJudgment_touches p (judgeHello s (readHello bs) (bs.length - 38)) s).mono (cs := roleBlocks)
  split
  · refine judged.trans ?_
    generalize latchJudgment p _ s = t
    unfold takeHello
    simp only
    have up : Touches roleBlocks t (helloOnPath p (noteHello (readHello bs) t)) := by
      refine Touches.trans ?_ ((helloOnPath_touches p _).mono)
      exact Touches.fields
    split
    · refine Touches.trans ?_ (governHello_touches p _ _)
      refine Touches.trans ?_ ((watchPeer_touches t _).mono)
      refine up.trans ?_
      exact Touches.fields
    · exact up.trans ((watchPeer_touches t _).mono)
  · exact judged

theorem losePeer_touches (s : State) : Touches roleBlocks s (losePeer s) := by
  unfold losePeer
  split
  · exact (closeStream_touches _ s).mono
  · exact ((closeStream_touches _ s).mono).trans (changeRole_touches _ _ _)

theorem pathDown_touches (p : PathId) (s : State) : Touches roleBlocks s (pathDown p s) := by
  unfold pathDown
  simp only
  have base : Touches roleBlocks s (watchPeer s (rechoose (raise .path (report .pai4 (ErrInfo.ofPlace (pathPlace p))
      { s with pai := s.pai.setPath p { s.pai.path p with up := false, deadTimer := .stopped } })))) := by
    refine Touches.trans ?_ ((watchPeer_touches s _).mono)
    refine Touches.trans ?_ ((rechoose_touches _).mono)
    exact Touches.fields
  split
  · exact base.trans (losePeer_touches _)
  · exact base

theorem mirrorDispatch_touches (p : PathId) (bs : List Byte) (s : State) : Touches roleBlocks s (mirrorDispatch p bs s) := by
  unfold mirrorDispatch
  split
  · exact receiveHello_touches p bs s
  · exact receiveData_touches p bs s
  · exact (receiveAck_touches _ _ _ s).mono
  · exact (bump_touches _ s).then (report_touches _ _ _)

end Sys2Proof.Machine
end

