-- ==== Sys2Proof/Laws/CommandFrames.lean ====
section
/-! SUPPORT. What the operations of the single rows can touch: ports, timers, the agent's requests, sessions, control
actions. -/

-- One proof at a time: proofs that wait for earlier checks would each take a thread.
set_option Elab.async false

namespace Sys2Proof.Machine

open Sys2Proof.Safety

variable {bs : List Block}

/-! ## Ports -/

theorem throughGate_touches (go : State → State) (s : State) (h : Touches bs s (go s))
    (hf : ∀ b, b ∈ [Block.flt] → b ∈ bs := by decide) : Touches bs s (throughGate go s) := by
  unfold throughGate
  split
  · exact h
  · exact (bump_touches _ s).mono hf

theorem takeW_touches (f : Frame) (s : State) : Touches roleBlocks s (takeW f s) := by
  unfold takeW classedW
  split
  · exact (handToPort_touches _ _ s).mono
  · split
    · exact mirrorDispatch_touches _ _ s
    · exact throughGate_touches _ s (fastPath_touches f s)
    · exact throughGate_touches _ s ((handToPort_touches _ _ s).mono)
    · exact (handToPort_touches _ _ s).mono

theorem takeS_touches (f : Frame) (s : State) : Touches roleBlocks s (takeS f s) := by
  unfold takeS
  split
  · exact (bump_touches _ s).mono
  · split
    · exact mirrorDispatch_touches _ _ s
    · exact (bump_touches _ s).then (report_touches _ _ _)

theorem transmitted_touches (port : Port) (s : State) : Touches (.pFrames :: reports) s (transmitted port s) := by
  unfold transmitted
  split
  · exact Touches.refl s
  · refine Touches.trans ?_ ((bump_touches _ _).mono)
    exact Touches.fields

/-! ## Timers -/

theorem whenDue_touches (d : Bool) (f : State → State) (s : State) (h : Touches bs s (f s)) : Touches bs s (whenDue d f s) := by
  unfold whenDue
  split
  · exact h
  · exact Touches.refl s

/-- What a tick has made due touches what its effect touches, and what its notice touches. -/
theorem atTick_touches {cs : List Block} (d : State → Bool) (f : State → State) (s : State) (h : Touches bs s (f s))
    (hb : ∀ b, b ∈ bs → b ∈ cs := by decide) (hr : ∀ b, b ∈ noticeBlocks → b ∈ cs := by decide) :
    Touches cs s (atTick d f s) :=
  event_touches (whenDue_touches _ f s (h.mono hb)) hr

theorem tick_touches (s : State) : Touches [.tim, .clock, .mir, .hold, .shd, .pai, .tko, .flt, .notice] s (tick s) :=
  Touches.fields

theorem visitSlot_touches (pos : Nat) (go : State → State) (s : State) (h : ∀ t, Touches roleBlocks t (go t)) :
    Touches roleBlocks s (visitSlot pos go s) := by
  have c := checkSlot_touches pos s
  unfold visitSlot
  split
  · rename_i s1 e; rw [e] at c; exact c.trans (h s1)
  · rename_i s1 k _ e; rw [e] at c; exact c

theorem visitExpiry_touches (h : Nat) (s : State) : Touches roleBlocks s (visitExpiry h s) := by
  unfold visitExpiry
  split
  · exact (removeSession_touches h .expired false s).mono
  · exact Touches.refl s

theorem visitHandle_touches (s : State) (h : Nat) : Touches roleBlocks s (visitHandle s h) := by
  have c := checkRecord_touches h s
  unfold visitHandle
  split
  · rename_i s1 e
    rw [e] at c
    simp only
    split
    · exact c.trans (visitSlot_touches _ _ s1 fun t => visitSlot_touches _ _ t (visitExpiry_touches h))
    · exact c
  · rename_i s1 k _ e; rw [e] at c; exact c

theorem patrolStep_touches (s : State) : Touches roleBlocks s (patrolStep s) := by
  unfold patrolStep
  simp only
  have v := Touches.foldl (f := visitHandle) visitHandle_touches (patrolHandles s.tim.cursor s.cfg.patrolRate) s
  have w : ∀ u : State, ∀ n : Nat, Touches roleBlocks u { u with tim := { u.tim with cursor := n, patrolDue := false } } :=
    fun u n => Touches.fields
  split
  · exact (v.trans (w _ _)).trans ((bump_touches _ _).mono)
  · exact v.trans (w _ _)

theorem holdExpired_touches (s : State) : Touches [.hold, .tbl, .prt, .flt] s (holdExpired s) := by
  unfold holdExpired
  split
  · exact Touches.refl s
  · rename_i e es _
    refine Touches.trans ?_ ((report_touches _ _ _).mono)
    refine Touches.trans ?_ ((releaseHeld_touches _ _ e).mono)
    exact Touches.fields

theorem revertExpired_touches (s : State) : Touches [.mir, .prt, .flt] s (revertExpired s) :=
  ((report_touches _ _ s).mono).trans (((endSuspensions_touches _).mono).trans (rechoose_touches _))

theorem setYieldFlag_touches (s : State) : Touches [.pai, .prt, .flt] s (setYieldFlag s) := by
  unfold setYieldFlag
  refine Touches.trans ?_ ((sendHello_touches _).mono)
  exact Touches.fields

theorem drainExpired_touches (s : State) : Touches [.pai, .prt, .flt] s (drainExpired s) :=
  ((report_touches _ _ s).mono).trans (setYieldFlag_touches _)

theorem nextRound_touches (s : State) : Touches [.tko, .prt, .flt] s (nextRound s) := by
  unfold nextRound
  refine Touches.trans ((sendRound_touches s).mono) ?_
  exact Touches.fields

theorem keepaliveExpired_touches (s : State) : Touches roleBlocks s (keepaliveExpired s) := by
  unfold keepaliveExpired
  refine Touches.trans ?_ (raiseFault_touches _ _ _)
  exact Touches.fields

theorem holdoffExpired_touches (s : State) : Touches noticeBlocks s (holdoffExpired s) := by
  unfold holdoffExpired
  split
  · refine Touches.trans ?_ (sendNotice_touches _)
    exact Touches.fields
  · exact Touches.fields

/-! ## Requests -/

theorem dequeue_touches (rest : List Frame) (s : State) : Touches [.mgtQueue, .flt] s (dequeue rest s) := by
  unfold dequeue
  refine Touches.trans ?_ ((bump_touches _ _).mono)
  exact Touches.fields

theorem respond_touches (r : Request) (a : Answer) (s : State) : Touches reports s (respond r a s) := by
  unfold respond
  refine Touches.trans (t := if a.status.refuses then bump .mgtRefused s else s) ?_ (handToPort_touches _ _ _)
  split
  · exact (bump_touches _ s).mono
  · exact Touches.refl s

/-- A request served touches the request's blocks and those of its handler. -/
theorem serve_touches (h : Handler) (r : Request) (rest : List Frame) (s : State) (hh : ∀ t, Touches bs t (h r t).1)
    (hb : ∀ b, b ∈ requestBlocks → b ∈ bs := by decide) : Touches bs s (serve h r rest s) := by
  unfold serve
  simp only
  have req : ∀ b, b ∈ noticeBlocks → b ∈ bs := fun b hr => hb b (by cases b <;> revert hr <;> decide)
  refine Touches.trans (((dequeue_touches rest s).mono (fun b h => hb b (by cases b <;> revert h <;> decide))).trans (hh _)) ?_
  refine Touches.trans ((settle_touches s.flt.flags _).mono req) ?_
  exact Touches.trans ((respond_touches r _ _).mono (fun b h => req b (.tail _ h))) ((settle_touches _ _).mono req)

/-- A management row touches the request's blocks and those that its handler touches for a request of the row. -/
theorem takeRequest_touches (row : Row) (h : Handler) (s : State)
    (hh : ∀ r : Request, r.row = row → ∀ t, Touches bs t (h r t).1)
    (hb : ∀ b, b ∈ requestBlocks → b ∈ bs := by decide) : Touches bs s (takeRequest row h s) := by
  unfold takeRequest
  split
  · exact Touches.refl s
  · split
    · rename_i f rest _ e
      exact serve_touches h _ rest s (hh _ e) hb
    · exact Touches.refl s

theorem takeRunt_touches (s : State) : Touches requestBlocks s (takeRunt s) := by
  unfold takeRunt
  split
  · exact Touches.refl s
  · split
    · refine event_touches (bs := requestBlocks) ?_
      refine Touches.trans ?_ ((report_touches _ _ _).mono)
      refine Touches.trans ?_ ((bump_touches _ _).mono)
      exact Touches.fields
    · exact Touches.refl s

/-- A CONTROL action touches what it touches with its 8 bytes there. -/
theorem control_touches (act : Handler) (r : Request) (s : State) (h : Touches bs s (act r s).1) :
    Touches bs s (control act r s).1 := by
  unfold control
  split
  · exact h
  · exact Touches.refl s

/-! ### READ and WRITE -/

theorem capture_touches (o : Object) (i : Nat) (s : State) : Touches roleBlocks s (capture o i s).1 := by
  cases o <;> first | exact Touches.refl s | exact checkRecord_touches i s

theorem captureAll_touches (c : Nat → State → State × List Byte) (hc : ∀ i t, Touches bs t (c i t).1) (is : List Nat)
    (s : State) : Touches bs s (captureAll c is s).1 := by
  induction is generalizing s with
  | nil => exact Touches.refl s
  | cons i is ih => exact (hc i s).trans (ih (c i s).1)

theorem answerRead_touches (r : Request) (s : State) : Touches roleBlocks s (answerRead r s).1 := by
  unfold answerRead
  split
  · exact Touches.refl s
  · exact captureAll_touches _ (fun i t => capture_touches _ i t) _ s

theorem captureClear_touches (i : Nat) (s : State) : Touches [.flt] s (captureClear i s).1 :=
  Touches.fields

theorem answerReadClear_touches (r : Request) (s : State) : Touches [.flt] s (answerReadClear r s).1 := by
  unfold answerReadClear
  split
  · exact Touches.refl s
  · exact captureAll_touches _ captureClear_touches _ s

/-- The block that a WRITE of an object writes, beside the keepalive timer. -/
def Object.block : Object → List Block
  | .config => [.cfg, .flt] | .zones => [.zones] | .timeouts => [.timeouts] | .status => [.flt] | .clock => [.tim, .clock]
  | .session | .counters | .errlog | .pairing => []

theorem applyEntry_touches (o : Object) (s : State) (e : Nat × List Byte) : Touches o.block s (applyEntry o s e) := by
  cases o <;> exact Touches.fields

theorem applyEntry_cfg (o : Object) (h : o ≠ .config) (s : State) (e : Nat × List Byte) : (applyEntry o s e).cfg = s.cfg := by
  cases o <;> first | rfl | exact absurd rfl h

theorem applyEntries_touches (o : Object) (is : List Nat) (es : List (List Byte)) (s : State) :
    Touches o.block s (applyEntries o is es s) := by
  unfold applyEntries
  have v := Touches.foldl (f := applyEntry o) (applyEntry_touches o) (is.zip es) s
  by_cases h : o = .config
  · subst h
    refine v.trans ?_
    unfold keepaliveAfterWrite
    simp only
    split
    · exact Touches.refl _
    · split
      · exact Touches.fields
      · split
        · exact Touches.fields
        · exact Touches.refl _
  · have c : ((is.zip es).foldl (applyEntry o) s).cfg = s.cfg := by
      clear v
      generalize is.zip es = l
      induction l generalizing s with
      | nil => rfl
      | cons a l ih => exact (ih (applyEntry o s a)).trans (applyEntry_cfg o h s a)
    unfold keepaliveAfterWrite
    simp only
    rw [if_pos (by rw [c])]
    exact v

/-- An action row is none of the WRITE rows. -/
theorem ofAction_ne (n : Nat) (w : Row) (h : w ∈ [Row.write, .writeConfig, .writeZones, .writeTimeouts, .writeStatus, .writeClock]) :
    Row.ofAction n ≠ w := by
  intro e
  subst e
  revert h
  unfold Row.ofAction
  split <;> decide

/-- The object of a request by its WRITE row. -/
theorem object_of_row (r : Request) (w : Row)
    (h : w ∈ [Row.write, .writeConfig, .writeZones, .writeTimeouts, .writeStatus, .writeClock]) (e : r.row = w) :
    w = (match r.object with
      | 1 => .writeConfig | 2 => .writeZones | 3 => .writeTimeouts | 5 => .writeStatus | 9 => .writeClock | _ => .write) := by
  unfold Request.row at e
  split at e
  · subst e; exact absurd h (by decide)
  · split at e
    · split at e <;> (subst e; exact absurd h (by decide))
    · exact e.symm
    · subst e; exact absurd h (by decide)
    · subst e; exact absurd h (by decide)
    · subst e; exact absurd h (by decide)
    · split at e
      · subst e; exact absurd h (by decide)
      · exact absurd e (ofAction_ne _ w h)
    · subst e; exact absurd h (by decide)
    · subst e; exact absurd h (by decide)

/-- What a WRITE touches, for the object of its request. -/
theorem answerWrite_touches (r : Request) (s : State) (h : ∀ o, Object.ofCode r.object = some o → o.writable → ∀ b, b ∈ o.block → b ∈ bs) :
    Touches bs s (answerWrite r s).1 := by
  unfold answerWrite
  split
  · exact Touches.refl s
  · rename_i o is e
    have ho : Object.ofCode r.object = some o := by
      unfold checkAccess at e
      split at e
      · cases e
      · rename_i o' eo
        split at e
        · cases e
        · split at e
          · cases e
          · split at e
            · cases e
            · split at e
              · cases e; exact eo
              · cases e
    simp only
    split
    · exact Touches.refl s
    · rename_i w
      split
      · exact Touches.refl s
      · split
        · exact Touches.refl s
        · exact (applyEntries_touches o is _ s).mono (h o ho (by simpa using w))

/-! ### Sessions -/

theorem refuseInstall_touches (st : Status) (p : List Byte) (s : State) : Touches [.flt] s (refuseInstall st p s).1 :=
  bump_touches _ s

theorem sendAtOnce_touches (f : Frame) (s : State) : Touches reports s (sendAtOnce f s) :=
  (handToPort_touches _ _ s).then (bump_touches _ _)

theorem offerHold_touches (hold : Bool) (h : Nat) (f : Frame) (s : State) : Touches [.prt, .flt, .hold] s (offerHold hold h f s) := by
  unfold offerHold
  split
  · exact (sendAtOnce_touches f s).mono
  · split
    · exact ((bump_touches _ s).mono).trans (((report_touches _ _ _).mono).trans ((sendAtOnce_touches f _).mono))
    · refine Touches.trans ?_ ((bump_touches _ _).mono)
      exact Touches.fields

theorem passEnclosed_touches (i : Install) (h : Nat) (f : Frame) (s : State) : Touches streamBlocks s (passEnclosed i h f s) := by
  unfold passEnclosed
  simp only
  split
  · exact (offerHold_touches _ _ _ s).mono
  · split
    · exact ((writeBack_touches h _ _ _ s).mono).trans ((offerHold_touches _ _ _ _).mono)
    · exact (refuseFrame_touches _ _ _ _ s).mono
    · exact Touches.refl s

theorem makeSession_touches (i : Install) (h : Nat) (t : Tbl) (p q : Nat) (s : State) :
    Touches [.tbl, .mir, .flt] s (makeSession i h t p q s) := by
  unfold makeSession
  simp only
  refine Touches.trans ?_ ((markDirty_touches _ h _).mono)
  refine Touches.trans ?_ (Touches.mono (bs := [.flt]) (Touches.foldl (fun s c => report_touches c _ s) _ _))
  refine Touches.trans ?_ ((bump_touches _ _).mono)
  refine Touches.trans ?_ ((bumpBy_touches _ _ _).mono)
  exact Touches.fields

theorem installFree_touches (i : Install) (s : State) : Touches streamBlocks s (installFree i s).1 := by
  unfold installFree
  split
  · exact (refuseInstall_touches _ _ s).mono
  · split
    · exact (refuseInstall_touches _ _ s).mono
    · rename_i h _ _ t p q _
      have m := (makeSession_touches i h t p q s).mono (cs := streamBlocks)
      generalize makeSession i h t p q s = u at m
      simp only
      split
      · exact m
      · exact m.trans (passEnclosed_touches i h _ u)

theorem installUnlessFound_touches (k : Key) (go : State → State × Answer) (s : State) (h : ∀ t, Touches roleBlocks t (go t).1) :
    Touches roleBlocks s (installUnlessFound k go s).1 := by
  unfold installUnlessFound
  simp only
  have l := lookup_touches k s
  split
  · exact l.trans ((refuseInstall_touches _ _ _).mono)
  · exact l.trans (h _)

theorem answerInstall_touches (r : Request) (s : State) : Touches roleBlocks s (answerInstall r s).1 := by
  unfold answerInstall install
  split
  · split
    · exact (refuseInstall_touches _ _ s).mono
    · split
      · exact (refuseInstall_touches _ _ s).mono
      · exact installUnlessFound_touches _ _ s fun t => installUnlessFound_touches _ _ t fun u => (installFree_touches _ u).mono
  · exact Touches.refl s

theorem answerFind_touches (r : Request) (s : State) : Touches roleBlocks s (answerFind r s).1 := by
  unfold answerFind
  split
  · exact Touches.refl s
  · exact lookup_touches _ s

theorem answerRemove_touches (r : Request) (s : State) : Touches roleBlocks s (answerRemove r s).1 := by
  unfold answerRemove removeByHandle removeByKey
  split
  · exact Touches.refl s
  · split
    · exact Touches.refl s
    · split
      · simp only
        split
        · exact Touches.refl s
        · split
          · exact (removeSession_touches _ .management false s).mono
          · exact Touches.refl s
      · split
        · simp only
          have l := lookup_touches (readKey r.payload 4) s
          split
          · exact l
          · exact l.trans ((removeSession_touches _ .management false _).mono)
        · exact Touches.refl s

/-! ### Control actions -/

theorem startKeepalive_touches (s : State) : Touches [.flt] s (startKeepalive s) := by
  unfold startKeepalive
  split
  · exact Touches.refl s
  · exact Touches.fields

theorem clearPairing_touches (s : State) : Touches [.pai, .prt, .flt] s (clearPairing s) := by
  unfold clearPairing
  simp only
  split
  · exact Touches.fields
  · refine Touches.trans ?_ ((raise_touches _ _).mono)
    exact Touches.fields

theorem reportEnds_touches (s : State) : Touches [.flt] s (reportEnds s) := by
  unfold reportEnds
  simp only
  split <;> split <;>
    first
      | exact Touches.refl s
      | exact report_touches _ _ _
      | exact (report_touches _ _ _).trans (report_touches _ _ _)

theorem answerStart_touches (r : Request) (s : State) : Touches roleBlocks s (answerStart r s).1 := by
  unfold answerStart
  split
  · exact Touches.refl s
  · split
    · exact Touches.refl s
    · exact ((clearPairing_touches s).mono).trans (((startKeepalive_touches _).mono).trans (changeRole_touches _ _ _))

theorem answerStop_touches (r : Request) (s : State) : Touches roleBlocks s (answerStop r s).1 := by
  unfold answerStop
  split
  · exact Touches.refl s
  · exact (changeRole_touches _ _ s).trans ((clearTable_touches _).mono)

theorem answerTake_touches (r : Request) (s : State) : Touches roleBlocks s (answerTake r s).1 := by
  unfold answerTake
  split
  · exact changeRole_touches _ _ s
  · exact Touches.refl s

theorem answerYield_touches (r : Request) (s : State) : Touches roleBlocks s (answerYield r s).1 := by
  unfold answerYield
  split
  · exact changeRole_touches _ _ s
  · exact Touches.refl s

theorem answerResume_touches (r : Request) (s : State) : Touches roleBlocks s (answerResume r s).1 := by
  unfold answerResume
  split
  · exact ((clearTable_touches s).mono).trans (((startKeepalive_touches _).mono).trans (changeRole_touches _ _ _))
  · exact Touches.refl s

theorem answerResumePath_touches (r : Request) (s : State) : Touches [.mir, .prt, .flt] s (answerResumePath r s).1 := by
  unfold answerResumePath
  split
  · exact Touches.refl s
  · exact ((reportEnds_touches s).mono).trans (((endSuspensions_touches _).mono).trans (rechoose_touches _))

theorem answerForceFault_touches (r : Request) (s : State) : Touches roleBlocks s (answerForceFault r s).1 := by
  unfold answerForceFault
  split
  · exact Touches.refl s
  · exact raiseFault_touches _ _ s

theorem answerKeepalive_touches (r : Request) (s : State) : Touches [.flt] s (answerKeepalive r s).1 := by
  unfold answerKeepalive
  split
  · exact startKeepalive_touches s
  · exact Touches.refl s

theorem answerClearErrors_touches (r : Request) (s : State) : Touches [.flt] s (answerClearErrors r s).1 := by
  unfold answerClearErrors
  split
  · exact Touches.refl s
  · exact setErrRecord_touches _ _ s

theorem answerClearStatus_touches (r : Request) (s : State) : Touches [.pai] s (answerClearStatus r s).1 := by
  unfold answerClearStatus
  split
  · exact Touches.refl s
  · exact Touches.fields

theorem answerClockSet_touches (r : Request) (s : State) : Touches [.tim, .clock, .mir] s (answerClockSet r s).1 := by
  unfold answerClockSet
  split
  · exact Touches.refl s
  · exact Touches.fields

end Sys2Proof.Machine
end

