-- ==== Sys2Proof/Laws/Store.lean ====
section
/-! SUPPORT. The laws of the sparse stores: what a place reads as after each operation, and that each keeps the canonical
form. -/

-- One proof at a time: proofs that wait for earlier checks would each take a thread.
set_option Elab.async false

namespace Sys2Proof.Machine

variable {α : Type}

/-! ## The canonical form -/

theorem sparseSorted_cons (j : Nat) (v : α) (m : List (Nat × α)) :
    sparseSorted ((j, v) :: m) = true ↔ (∀ p ∈ m, j < p.1) ∧ sparseSorted m = true := by
  induction m generalizing j v with
  | nil => simp [sparseSorted]
  | cons q m ih =>
    obtain ⟨k, w⟩ := q
    simp only [sparseSorted, Bool.and_eq_true, decide_eq_true_eq, List.mem_cons, forall_eq_or_imp]
    constructor
    · rintro ⟨h, hs⟩
      exact ⟨⟨h, fun p hp => Nat.lt_trans h (((ih k w).1 hs).1 p hp)⟩, hs⟩
    · rintro ⟨⟨h, _⟩, hs⟩
      exact ⟨h, hs⟩

/-- Below every place of a store nothing is found. -/
theorem sparseFind_below (m : List (Nat × α)) (k : Nat) (h : ∀ p ∈ m, k < p.1) : sparseFind m k = none := by
  cases m with
  | nil => rfl
  | cons q m =>
    obtain ⟨j, w⟩ := q
    have := h (j, w) (by simp)
    simp only [sparseFind]
    rw [if_neg (by dsimp at this; omega), if_pos this]

/-- In canonical form a value is found at a place exactly when it is listed there. -/
theorem sparseFind_iff {m : List (Nat × α)} (hs : sparseSorted m = true) (k : Nat) (v : α) :
    sparseFind m k = some v ↔ (k, v) ∈ m := by
  induction m with
  | nil => simp [sparseFind]
  | cons q m ih =>
    obtain ⟨j, w⟩ := q
    obtain ⟨lo, hs'⟩ := (sparseSorted_cons j w m).1 hs
    simp only [sparseFind, List.mem_cons, Prod.mk.injEq]
    by_cases e : k = j
    · subst e
      rw [if_pos rfl]
      constructor
      · intro h; exact .inl ⟨rfl, (Option.some.inj h).symm⟩
      · rintro (⟨_, rfl⟩ | h)
        · rfl
        · exact absurd (lo _ h) (Nat.lt_irrefl _)
    · rw [if_neg e]
      by_cases l : k < j
      · rw [if_pos l]
        constructor
        · intro h; cases h
        · rintro (⟨rfl, _⟩ | h)
          · exact absurd rfl e
          · exact absurd (lo _ h) (by dsimp; omega)
      · rw [if_neg l, ih hs']
        constructor
        · exact .inr
        · rintro (⟨rfl, _⟩ | h)
          · exact absurd rfl e
          · exact h

/-! ## A value put, a place emptied -/

theorem sparseFind_put (m : List (Nat × α)) (k : Nat) (v : α) (i : Nat) :
    sparseFind (sparsePut m k v) i = if i = k then some v else sparseFind m i := by
  induction m with
  | nil =>
    simp only [sparsePut, sparseFind]
    split
    · rfl
    · split <;> rfl
  | cons q m ih =>
    obtain ⟨j, w⟩ := q
    simp only [sparsePut]
    by_cases e : k = j
    · subst e
      rw [if_pos rfl]
      simp only [sparseFind]
      by_cases h : i = k
      · simp [h]
      · simp [h]
    · rw [if_neg e]
      by_cases l : k < j
      · rw [if_pos l]
        by_cases h : i = k
        · simp [h, sparseFind]
        · rw [if_neg h]
          rw [sparseFind, if_neg h]
          by_cases h2 : i < k
          · rw [if_pos h2, sparseFind, if_neg (by omega), if_pos (by omega)]
          · rw [if_neg h2]
      · rw [if_neg l]
        simp only [sparseFind]
        by_cases h : i = j
        · subst h
          rw [if_pos rfl, if_neg (fun x => e x.symm), if_pos rfl]
        · rw [if_neg h, if_neg h]
          by_cases h2 : i < j
          · rw [if_pos h2, if_pos h2, if_neg (by omega)]
          · rw [if_neg h2, if_neg h2, ih]

theorem sparsePut_places (m : List (Nat × α)) (k : Nat) (v : α) (p : Nat × α) (h : p ∈ sparsePut m k v) :
    p = (k, v) ∨ p ∈ m := by
  induction m with
  | nil => exact .inl (by simpa [sparsePut] using h)
  | cons q m ih =>
    obtain ⟨j, w⟩ := q
    simp only [sparsePut] at h
    split at h
    · rcases List.mem_cons.1 h with h | h
      · exact .inl h
      · exact .inr (List.mem_cons_of_mem _ h)
    · split at h
      · rcases List.mem_cons.1 h with h | h
        · exact .inl h
        · exact .inr h
      · rcases List.mem_cons.1 h with h | h
        · exact .inr (by simp [h])
        · rcases ih h with h | h
          · exact .inl h
          · exact .inr (List.mem_cons_of_mem _ h)

theorem sparsePut_sorted {m : List (Nat × α)} (hs : sparseSorted m = true) (k : Nat) (v : α) :
    sparseSorted (sparsePut m k v) = true := by
  induction m with
  | nil => rfl
  | cons q m ih =>
    obtain ⟨j, w⟩ := q
    obtain ⟨lo, hs'⟩ := (sparseSorted_cons j w m).1 hs
    simp only [sparsePut]
    split
    · rename_i e; subst e; exact (sparseSorted_cons _ _ _).2 ⟨lo, hs'⟩
    · split
      · rename_i l
        refine (sparseSorted_cons _ _ _).2 ⟨fun p hp => ?_, hs⟩
        rcases List.mem_cons.1 hp with rfl | hp
        · exact l
        · exact Nat.lt_trans l (lo p hp)
      · refine (sparseSorted_cons _ _ _).2 ⟨fun p hp => ?_, ih hs'⟩
        rcases sparsePut_places m k v p hp with rfl | hp
        · dsimp; omega
        · exact lo p hp

theorem sparseDrop_places (m : List (Nat × α)) (k : Nat) (p : Nat × α) (h : p ∈ sparseDrop m k) : p ∈ m := by
  induction m with
  | nil => exact h
  | cons q m ih =>
    obtain ⟨j, w⟩ := q
    simp only [sparseDrop] at h
    split at h
    · exact List.mem_cons_of_mem _ h
    · split at h
      · exact h
      · rcases List.mem_cons.1 h with h | h
        · simp [h]
        · exact List.mem_cons_of_mem _ (ih h)

theorem sparseDrop_sorted {m : List (Nat × α)} (hs : sparseSorted m = true) (k : Nat) : sparseSorted (sparseDrop m k) = true := by
  induction m with
  | nil => rfl
  | cons q m ih =>
    obtain ⟨j, w⟩ := q
    obtain ⟨lo, hs'⟩ := (sparseSorted_cons j w m).1 hs
    simp only [sparseDrop]
    split
    · exact hs'
    · split
      · exact hs
      · exact (sparseSorted_cons _ _ _).2 ⟨fun p hp => lo p (sparseDrop_places m k p hp), ih hs'⟩

theorem sparseFind_drop {m : List (Nat × α)} (hs : sparseSorted m = true) (k i : Nat) :
    sparseFind (sparseDrop m k) i = if i = k then none else sparseFind m i := by
  induction m with
  | nil => simp [sparseDrop, sparseFind]
  | cons q m ih =>
    obtain ⟨j, w⟩ := q
    obtain ⟨lo, hs'⟩ := (sparseSorted_cons j w m).1 hs
    simp only [sparseDrop]
    by_cases e : k = j
    · subst e
      rw [if_pos rfl]
      by_cases h : i = k
      · subst h; rw [if_pos rfl, sparseFind_below m i (fun p hp => lo p hp)]
      · rw [if_neg h, sparseFind, if_neg h]
        by_cases h2 : i < k
        · rw [if_pos h2, sparseFind_below m i (fun p hp => Nat.lt_trans h2 (lo p hp))]
        · rw [if_neg h2]
    · rw [if_neg e]
      by_cases l : k < j
      · rw [if_pos l]
        by_cases h : i = k
        · subst h; rw [if_pos rfl, sparseFind, if_neg e, if_pos l]
        · rw [if_neg h]
      · rw [if_neg l]
        simp only [sparseFind]
        by_cases h : i = j
        · subst h; rw [if_pos rfl, if_neg (fun x => e x.symm), if_pos rfl]
        · rw [if_neg h, if_neg h]
          by_cases h2 : i < j
          · rw [if_pos h2, if_pos h2]; split <;> rfl
          · rw [if_neg h2, if_neg h2, ih hs']

/-! ## The record store -/

theorem putRecord_sorted {m : List (Nat × Record)} (hs : sparseSorted m = true) (h : Nat) (r : Record) :
    sparseSorted (putRecord m h r) = true := by
  unfold putRecord
  split
  · exact sparseDrop_sorted hs h
  · exact sparsePut_sorted hs h r

/-- A record written reads back, and every other reads as before. -/
theorem record_setRecord {t : Tbl} (hs : sparseSorted t.records = true) (h : Nat) (r : Record) (k : Nat) :
    (t.setRecord h r).record k = if k = h then r else t.record k := by
  simp only [Tbl.record, Tbl.setRecord, putRecord]
  by_cases f : r = Record.fresh
  · rw [if_pos f, sparseFind_drop hs]
    split
    · exact f.symm
    · rfl
  · rw [if_neg f, sparseFind_put]
    split <;> rfl

theorem recordOf_setRecord {s : State} (hs : sparseSorted s.tbl.records = true) (h : Nat) (r : Record) (k : Nat) :
    recordOf (setRecord h r s) k = if k = h then r else recordOf s k := record_setRecord hs h r k

theorem mapRecords_places (f : Record → Record) (m : List (Nat × Record)) (p : Nat × Record) (h : p ∈ mapRecords f m) :
    ∃ r, (p.1, r) ∈ m ∧ p.2 = f r := by
  simp only [mapRecords, List.mem_filterMap] at h
  obtain ⟨q, hq, e⟩ := h
  split at e
  · cases e
  · cases e; exact ⟨q.2, hq, rfl⟩

theorem mapRecords_sorted (f : Record → Record) {m : List (Nat × Record)} (hs : sparseSorted m = true) :
    sparseSorted (mapRecords f m) = true := by
  induction m with
  | nil => rfl
  | cons q m ih =>
    obtain ⟨j, w⟩ := q
    obtain ⟨lo, hs'⟩ := (sparseSorted_cons j w m).1 hs
    have e : mapRecords f ((j, w) :: m) = if f w = Record.fresh then mapRecords f m else (j, f w) :: mapRecords f m := by
      simp only [mapRecords, List.filterMap_cons]
      split <;> rename_i h <;> split at h <;> simp_all
    rw [e]
    split
    · exact ih hs'
    · refine (sparseSorted_cons _ _ _).2 ⟨fun p hp => ?_, ih hs'⟩
      obtain ⟨r, hr, _⟩ := mapRecords_places f m p hp
      exact lo (p.1, r) hr

/-- Every record changed by a function that keeps a record as after clearing reads as that function says. -/
theorem sparse_mapRecords (f : Record → Record) (keep : f Record.fresh = Record.fresh) {m : List (Nat × Record)}
    (hs : sparseSorted m = true) (h : Nat) :
    (sparseFind (mapRecords f m) h).getD Record.fresh = f ((sparseFind m h).getD Record.fresh) := by
  induction m with
  | nil => exact keep.symm
  | cons q m ih =>
    obtain ⟨j, w⟩ := q
    obtain ⟨lo, hs'⟩ := (sparseSorted_cons j w m).1 hs
    have e : mapRecords f ((j, w) :: m) = if f w = Record.fresh then mapRecords f m else (j, f w) :: mapRecords f m := by
      simp only [mapRecords, List.filterMap_cons]
      split <;> rename_i h <;> split at h <;> simp_all
    rw [e]
    have above : ∀ p ∈ mapRecords f m, j < p.1 := fun p hp => by
      obtain ⟨r, hr, _⟩ := mapRecords_places f m p hp
      exact lo (p.1, r) hr
    by_cases fr : f w = Record.fresh
    · rw [if_pos fr]
      by_cases e : h = j
      · subst e
        rw [sparseFind_below _ h above, sparseFind, if_pos rfl]
        exact fr.symm
      · by_cases l : h < j
        · rw [sparseFind_below _ h (fun p hp => Nat.lt_trans l (above p hp)), sparseFind, if_neg e, if_pos l]
          exact keep.symm
        · rw [ih hs', sparseFind, if_neg e, if_neg l]
    · rw [if_neg fr, sparseFind]
      by_cases e : h = j
      · subst e; rw [if_pos rfl, sparseFind, if_pos rfl]; rfl
      · rw [if_neg e]
        by_cases l : h < j
        · rw [if_pos l, sparseFind, if_neg e, if_pos l]; exact keep.symm
        · rw [if_neg l, sparseFind, if_neg e, if_neg l, ih hs']

/-! ## The key slots -/

theorem slot_putSlot (t : Tbl) (pos : Nat) (sl : Slot) (q : Nat) :
    (t.putSlot pos sl).slot q = if q = pos then some sl else t.slot q := sparseFind_put t.slots pos sl q

theorem slot_dropSlot {t : Tbl} (hs : sparseSorted t.slots = true) (pos q : Nat) :
    (t.dropSlot pos).slot q = if q = pos then none else t.slot q := sparseFind_drop hs pos q

/-! ## Handles -/

/-- The record of a handle is one that is listed, or as after clearing. -/
theorem record_listed {t : Tbl} (hs : sparseSorted t.records = true) (h : Nat) :
    (h, t.record h) ∈ t.records ∨ t.record h = Record.fresh := by
  unfold Tbl.record
  cases e : sparseFind t.records h with
  | none => exact .inr rfl
  | some r => exact .inl ((sparseFind_iff hs h r).1 e)

theorem mem_liveHandles {t : Tbl} (hs : sparseSorted t.records = true) (h : Nat) :
    h ∈ t.liveHandles ↔ (t.record h).handleState = .live := by
  simp only [Tbl.liveHandles, List.mem_map, List.mem_filter, beq_iff_eq]
  constructor
  · rintro ⟨p, ⟨hp, hl⟩, rfl⟩
    have : sparseFind t.records p.1 = some p.2 := (sparseFind_iff hs p.1 p.2).2 hp
    rw [Tbl.record, this]; exact hl
  · intro hl
    rcases record_listed hs h with m | m
    · exact ⟨_, ⟨m, hl⟩, rfl⟩
    · rw [m] at hl; cases hl

theorem mem_retiredHandles {t : Tbl} (hs : sparseSorted t.records = true) (h : Nat) :
    h ∈ t.retiredHandles ↔ (t.record h).handleState = .retired := by
  simp only [Tbl.retiredHandles, List.mem_map, List.mem_filter, beq_iff_eq]
  constructor
  · rintro ⟨p, ⟨hp, hl⟩, rfl⟩
    have : sparseFind t.records p.1 = some p.2 := (sparseFind_iff hs p.1 p.2).2 hp
    rw [Tbl.record, this]; exact hl
  · intro hl
    rcases record_listed hs h with m | m
    · exact ⟨_, ⟨m, hl⟩, rfl⟩
    · rw [m] at hl; cases hl

theorem releaseRetired_sorted {t : Tbl} (hs : sparseSorted t.records = true) (h : Nat) :
    sparseSorted (t.releaseRetired h).records = true := by
  unfold Tbl.releaseRetired
  split
  · exact putRecord_sorted hs h _
  · exact hs

/-- A RETIRED handle released is FREE with its epoch, and every other record stands. -/
theorem record_releaseRetired {t : Tbl} (hs : sparseSorted t.records = true) (h k : Nat) :
    (t.releaseRetired h).record k =
      if k = h ∧ (t.record k).handleState = .retired then freedRecord (t.record k).epoch else t.record k := by
  unfold Tbl.releaseRetired
  split
  · rename_i r
    show (t.setRecord h _).record k = _
    rw [record_setRecord hs]
    by_cases e : k = h
    · subst e; rw [if_pos rfl, if_pos ⟨rfl, r⟩]
    · rw [if_neg e, if_neg fun x => e x.1]
  · rename_i r
    rw [if_neg]
    rintro ⟨rfl, x⟩
    exact r x

/-- Handles released in turn: those that were RETIRED are FREE, and every other record stands. -/
theorem record_releaseAll (l : List Nat) {t : Tbl} (hs : sparseSorted t.records = true) (k : Nat) :
    sparseSorted (l.foldl Tbl.releaseRetired t).records = true ∧
    (l.foldl Tbl.releaseRetired t).record k =
      if k ∈ l ∧ (t.record k).handleState = .retired then freedRecord (t.record k).epoch else t.record k := by
  induction l generalizing t with
  | nil => exact ⟨hs, by simp⟩
  | cons h l ih =>
    have hs' := releaseRetired_sorted hs h
    obtain ⟨a, b⟩ := ih hs'
    refine ⟨a, b.trans ?_⟩
    rw [record_releaseRetired hs]
    by_cases r : (t.record k).handleState = .retired
    · by_cases e : k = h
      · subst e
        simp [r, freedRecord, Record.fresh]
      · simp [r, e]
    · simp [r]

theorem releaseAll_slots (l : List Nat) (t : Tbl) :
    (l.foldl Tbl.releaseRetired t).slots = t.slots ∧ (l.foldl Tbl.releaseRetired t).liveCount = t.liveCount ∧
      (l.foldl Tbl.releaseRetired t).digestSum = t.digestSum := by
  induction l generalizing t with
  | nil => exact ⟨rfl, rfl, rfl⟩
  | cons h l ih =>
    obtain ⟨a, b, c⟩ := ih (t.releaseRetired h)
    have e : (t.releaseRetired h).slots = t.slots ∧ (t.releaseRetired h).liveCount = t.liveCount ∧
        (t.releaseRetired h).digestSum = t.digestSum := by
      unfold Tbl.releaseRetired; split <;> exact ⟨rfl, rfl, rfl⟩
    exact ⟨a.trans e.1, b.trans e.2.1, c.trans e.2.2⟩

/-- Every RETIRED handle freed (R39): what each record is then. -/
theorem recordOf_freeAllRetired {s : State} (hs : sparseSorted s.tbl.records = true) (k : Nat) :
    recordOf (freeAllRetired s) k =
      if (recordOf s k).handleState = .retired then freedRecord (recordOf s k).epoch else recordOf s k := by
  refine (record_releaseAll s.tbl.retiredHandles hs k).2.trans ?_
  by_cases r : (s.tbl.record k).handleState = .retired
  · rw [if_pos ⟨(mem_retiredHandles hs k).2 r, r⟩]; exact (if_pos r).symm
  · rw [if_neg fun x => r x.2]; exact (if_neg r).symm

end Sys2Proof.Machine
end

