-- ==== Sys2Proof/Laws/Lookup.lean ====
section
/-! SUPPORT. Lookups that read nothing damaged. -/

-- One proof at a time: proofs that wait for earlier checks would each take a thread.
set_option Elab.async false

namespace Sys2Proof.Machine

open Sys2Proof.Safety

theorem checkSlot_intact {pos : Nat} {s : State} (h : ∀ sl, s.tbl.slot pos = some sl → sl.keyGood = true ∧ sl.refGood = true) :
    checkSlot pos s = (s, .good) := by
  unfold checkSlot
  split
  · rfl
  · rename_i sl e
    obtain ⟨k, r⟩ := h sl e
    rw [if_pos ⟨r, k⟩]

theorem checkSlots_intact (ps : List Nat) (s : State)
    (h : ∀ pos ∈ ps, ∀ sl, s.tbl.slot pos = some sl → sl.keyGood = true ∧ sl.refGood = true) :
    checkSlots ps s = (s, false) := by
  induction ps with
  | nil => rfl
  | cons p ps ih =>
    unfold checkSlots
    rw [checkSlot_intact (h p (by simp))]
    exact ih fun q hq => h q (by simp [hq])

theorem checkRecord_intact {h : Nat} {s : State} (i : recordIntact s h) : checkRecord h s = (s, .good) := by
  unfold checkRecord
  simp only
  rw [if_neg (by rw [i.1]; decide), if_neg (by rw [i.2]; simp)]

theorem lookup_finds {s : State} {k : Key} {h : Nat} {d : Dir} (f : Finds s k h d) : lookup k s = (s, some (h, d)) := by
  obtain ⟨a, b, sl, c, rfl, rfl⟩ := f
  unfold lookup
  rw [checkSlots_intact _ s a]
  simp only [c]
  rw [checkRecord_intact b]

theorem lookup_misses {s : State} {k : Key} (f : Misses s k) : lookup k s = (s, none) := by
  unfold lookup
  rw [checkSlots_intact _ s f.1]
  simp only [f.2]

end Sys2Proof.Machine
end

