-- ==== Sys2Proof/Laws/Notices.lean ====
section
/-! SUPPORT. How the rises of an event are taken: the ends of an event one by one, and `RisesTaken` for an event and for a
request. -/

-- One proof at a time: proofs that wait for earlier checks would each take a thread.
set_option Elab.async false

namespace Sys2Proof.Machine

open Sys2Proof.Safety

/-- A rise, read off the bits. -/
theorem rises_iff (s t : State) : Rises s t ↔ t.flt.flags &&& ~~~s.flt.flags &&& t.flt.mask ≠ 0#9 := by
  unfold Rises
  generalize t.flt.flags = a
  generalize s.flt.flags = b
  generalize t.flt.mask = m
  constructor
  · rintro ⟨g, ha, hb, hm⟩ e
    have := congrArg (fun x : BitVec 9 => x.getLsbD g.bit) e
    have hg : g.bit < 9 := by cases g <;> decide
    simp only [BitVec.getLsbD_and, BitVec.getLsbD_not, ha, hb, hm, hg, BitVec.getLsbD_zero] at this
    simp at this
  · intro h
    apply Classical.byContradiction
    intro n
    apply h
    apply BitVec.eq_of_getLsbD_eq
    intro i hi
    obtain ⟨g, rfl⟩ : ∃ g : Flag, g.bit = i := by
      match i, hi with
      | 0, _ => exact ⟨.ready, rfl⟩
      | 1, _ => exact ⟨.role, rfl⟩
      | 2, _ => exact ⟨.peer, rfl⟩
      | 3, _ => exact ⟨.path, rfl⟩
      | 4, _ => exact ⟨.bulk, rfl⟩
      | 5, _ => exact ⟨.errNote, rfl⟩
      | 6, _ => exact ⟨.errDegraded, rfl⟩
      | 7, _ => exact ⟨.errLoss, rfl⟩
      | 8, _ => exact ⟨.errFault, rfl⟩
    have k := fun x y z => n ⟨g, x, y, z⟩
    cases ha : a.getLsbD g.bit <;> cases hb : b.getLsbD g.bit <;> cases hm : m.getLsbD g.bit <;> simp_all

/-- The notice frame, byte for byte. -/
theorem noticeFrame_eq (s : State) : noticeFrame s = noticeBytes s := by
  unfold noticeFrame noticeBytes etherFrame nat8
  simp

/-- The three ends of an event: no rise; a rise while the holdoff runs; a rise that sends a notice, with room for it or
without. -/
theorem settle_cases (before : BitVec 9) (u : State) :
    (u.flt.flags &&& ~~~before &&& u.flt.mask = 0#9 ∧ settle before u = u) ∨
    (u.flt.flags &&& ~~~before &&& u.flt.mask ≠ 0#9 ∧
      ((∃ n, u.flt.holdoff = .running n) ∧ settle before u = { u with flt := { u.flt with noticeMark := true } } ∨
       u.flt.holdoff = .stopped ∧
        (u.prt.pQueue.length < 64 ∧ settle before u = { u with
            prt := { u.prt with pQueue := u.prt.pQueue ++ [noticeFrame u] }
            flt := { u.flt with holdoff := .running u.cfg.noticeHoldoff } } ∨
          64 ≤ u.prt.pQueue.length ∧ (settle before u).prt = u.prt))) := by
  unfold settle
  by_cases h : u.flt.flags &&& ~~~before &&& u.flt.mask = 0#9
  · rw [if_pos h]; exact .inl ⟨h, rfl⟩
  · rw [if_neg h]
    refine .inr ⟨h, ?_⟩
    cases e : u.flt.holdoff with
    | running n => exact .inl ⟨⟨n, rfl⟩, rfl⟩
    | stopped =>
      refine .inr ⟨rfl, ?_⟩
      simp only
      rcases handToPort_cases .p (noticeFrame u) { u with flt := { u.flt with holdoff := .running u.cfg.noticeHoldoff } }
        with ⟨r, q⟩ | ⟨r, q⟩
      · refine .inl ⟨r, ?_⟩
        unfold sendNotice
        rw [q]
        exact if_pos (by simp)
      · refine .inr ⟨r, ?_⟩
        unfold sendNotice
        rw [q]
        split <;> rfl

/-- An event whose effect leaves the notice's items and the frames at the P-port takes its rises. -/
theorem settle_taken {s u : State} (n : noticeItems u.flt = noticeItems s.flt) (p : s.prt.pQueue <+: u.prt.pQueue) :
    RisesTaken 0 s (settle s.flt.flags u) := by
  simp only [noticeItems, Prod.mk.injEq] at n
  rcases settle_cases s.flt.flags u with ⟨z, e⟩ | ⟨z, ⟨⟨m, hm⟩, e⟩ | ⟨hs, ⟨room, e⟩ | ⟨full, e⟩⟩⟩
  · have q : ¬ Rises s u := fun h => (rises_iff s u).1 h z
    rw [e]
    exact ⟨fun n' h => ⟨n.1.trans h, fun r => (q r).elim⟩, fun _ _ => by simp [noticeItems, n], fun _ r => (q r).elim⟩
  · rw [e]
    have hm' := n.1.symm.trans hm
    refine ⟨fun k h => ⟨hm.trans (hm'.symm.trans h), fun _ => rfl⟩,
      fun _ r => (r ((rises_iff _ _).2 z)).elim, fun _ _ h => ?_⟩
    rw [hm'] at h; cases h
  · rw [e]
    have hs' := n.1.symm.trans hs
    refine ⟨fun k h => (by rw [hs'] at h; cases h), fun _ r => (r ((rises_iff _ _).2 z)).elim, fun _ _ _ => ⟨?_, ?_⟩⟩
    · simp [noticeItems, n]
    · exact ⟨u.prt.pQueue, [], by rw [noticeFrame_eq]; rfl, p, Nat.zero_le _⟩
  · have hs' := n.1.symm.trans hs
    have f : ¬ (settle s.flt.flags u).prt.pQueue.length < 64 := by rw [e]; omega
    exact ⟨fun k h => (by rw [hs'] at h; cases h), fun h => (f h).elim, fun h => (f h).elim⟩

/-- The same for a request, whose response follows. -/
theorem serve_taken {h : Handler} {r : Request} {rest : List Frame} {s : State}
    (n : noticeItems (h r (dequeue rest s)).1.flt = noticeItems s.flt)
    (p : s.prt.pQueue <+: (h r (dequeue rest s)).1.prt.pQueue) : RisesTaken 1 s (serve h r rest s) := by
  generalize ho : h r (dequeue rest s) = out at n p
  obtain ⟨u, a⟩ := out
  have k := settle_taken n p
  unfold serve
  simp only [ho]
  generalize settle s.flt.flags u = v at k ⊢
  -- the response
  unfold respond
  have bf : ∀ c : Bool, (if c = true then bump .mgtRefused v else v).flt.flags = v.flt.flags ∧
      (if c = true then bump .mgtRefused v else v).flt.mask = v.flt.mask ∧
      noticeItems (if c = true then bump .mgtRefused v else v).flt = noticeItems v.flt ∧
      (if c = true then bump .mgtRefused v else v).cfg = v.cfg ∧
      (if c = true then bump .mgtRefused v else v).pai = v.pai ∧
      (if c = true then bump .mgtRefused v else v).flt.resetRecord = v.flt.resetRecord ∧
      (if c = true then bump .mgtRefused v else v).prt = v.prt := by
    intro c; cases c <;> exact ⟨rfl, rfl, rfl, rfl, rfl, rfl, rfl⟩
  obtain ⟨b1, b2, b3, b4, b5, b6, b7⟩ := bf a.status.refuses
  generalize (if a.status.refuses = true then bump .mgtRefused v else v) = w at *
  have hw : ∀ q : Frame, w.prt.pQueue.length < 64 →
      RisesTaken 1 s { w with prt := { w.prt with pQueue := w.prt.pQueue ++ [q] } } := by
    intro q room
    have rr : Rises s { w with prt := { w.prt with pQueue := w.prt.pQueue ++ [q] } } ↔ Rises s v := by
      rw [rises_iff, rises_iff]
      simp only [b1, b2]
    have room' : v.prt.pQueue.length < 64 := b7 ▸ room
    simp only [noticeItems, Prod.mk.injEq] at b3
    refine ⟨fun m hm => ⟨b3.1.trans (k.marked m hm).1, fun r => b3.2.trans ((k.marked m hm).2 (rr.1 r))⟩,
      fun _ r => ?_, fun _ r hs => ?_⟩
    · have := k.quiet room' (fun x => r (rr.2 x))
      simpa [noticeItems, b3] using this
    · obtain ⟨x, pre, post, e, hp, hl⟩ := k.sent room' (rr.1 r) hs
      refine ⟨?_, ?_⟩
      · simp only [noticeItems, b3, b4]
        exact x
      · have hl' : post = [] := List.eq_nil_of_length_eq_zero (Nat.le_zero.1 hl)
        subst hl'
        refine ⟨pre, [q], ?_, hp, Nat.le_refl _⟩
        rw [b7, e]
        simp only [List.append_assoc, List.cons_append, List.nil_append]
        unfold noticeBytes
        simp only [b1, b4, b5, b6]
  rcases handToPort_cases .p (responseFrame r a v) w with ⟨room, q⟩ | ⟨full, q⟩
  · rw [q]
    rw [show settle v.flt.flags { w with prt := w.prt.setQueue .p (w.prt.queue .p ++ [responseFrame r a v]) } =
      { w with prt := w.prt.setQueue .p (w.prt.queue .p ++ [responseFrame r a v]) } from b1 ▸ settle_self _]
    exact hw _ room
  · rw [q]
    generalize hx : report .prt1 (ErrInfo.ofPlace (portPlace .p)) (bump (dropCounter .p) w) = x
    have xf : x.flt.mask = v.flt.mask := by rw [← hx]; simp [b2]
    have xn : noticeItems x.flt = noticeItems v.flt := by rw [← hx]; exact b3
    have xp : x.prt = w.prt := by rw [← hx]; rfl
    have long : ¬ (settle v.flt.flags x).prt.pQueue.length < 64 := by
      have := (settle_touches v.flt.flags x .pFrames (by decide)).length_le
      rw [xp] at this
      have f64 : 64 ≤ w.prt.pQueue.length := full
      omega
    refine ⟨fun m hm => ?_, fun h => (long h).elim, fun h => (long h).elim⟩
    simp only [noticeItems, Prod.mk.injEq] at xn
    obtain ⟨k1, k2⟩ := k.marked m hm
    rcases settle_cases v.flt.flags x with ⟨z, e⟩ | ⟨z, ⟨_, e⟩ | ⟨hs, _⟩⟩
    · rw [e]
      refine ⟨xn.1.trans k1, fun ⟨g, ha, hb, hm⟩ => xn.2.trans (k2 ?_)⟩
      by_cases hv : v.flt.flags.getLsbD g.bit = true
      · exact ⟨g, hv, hb, xf ▸ hm⟩
      · exact ((rises_iff v x).1 ⟨g, ha, by simpa using hv, hm⟩ z).elim
    · rw [e]
      exact ⟨xn.1.trans k1, fun _ => rfl⟩
    · rw [xn.1.trans k1] at hs
      cases hs

/-- An event whose effect touches neither the notice's items nor the frames at the P-port takes its rises. -/
theorem event_taken {bs : List Block} {f : State → State} {s : State} (h : Touches bs s (f s))
    (n : Block.notice ∉ bs := by decide) (p : Block.pFrames ∉ bs := by decide) : RisesTaken 0 s (event f s) :=
  settle_taken (h .notice n) (h .pFrames p)

end Sys2Proof.Machine

namespace Sys2Proof.Safety

open Sys2Proof.Machine

/-- More frames may stand behind the notice. -/
theorem RisesTaken.mono {a b : Nat} {s t : State} (h : RisesTaken a s t) (l : a ≤ b) : RisesTaken b s t :=
  { h with sent := fun r q k => let ⟨x, pre, post, e, p, m⟩ := h.sent r q k; ⟨x, pre, post, e, p, m.trans l⟩ }

/-- A command that changes nothing. -/
theorem RisesTaken.refl {a : Nat} (s : State) : RisesTaken a s s := by
  have h := (settle_taken (s := s) (u := s) rfl List.prefix_rfl).mono (Nat.zero_le a)
  rwa [settle_self] at h

end Sys2Proof.Safety

namespace Sys2Proof.Machine

open Sys2Proof.Safety

/-- A management row takes the rises of the request it takes. -/
theorem takeRequest_taken {bs : List Block} (row : Row) (h : Handler) (s : State)
    (hh : ∀ r : Request, r.row = row → ∀ t, Touches bs t (h r t).1)
    (n : Block.notice ∉ bs := by decide) (p : Block.pFrames ∉ bs := by decide) : RisesTaken 1 s (takeRequest row h s) := by
  unfold takeRequest
  split
  · exact RisesTaken.refl s
  · split
    · rename_i f rest _ e
      have a := (dequeue_touches rest s)
      have b := hh _ e (dequeue rest s)
      exact serve_taken ((b .notice n).trans (a .notice (by decide)))
        (List.IsPrefix.trans (a .pFrames (by decide)) (b .pFrames p))
    · exact RisesTaken.refl s
end Sys2Proof.Machine
end

