-- ==== Sys2Proof/Laws/Patrol.lean ====
section
/-! SUPPORT. A visit of the patrol (R161), and what a removal leaves for the visits after it. -/

-- One proof at a time: proofs that wait for earlier checks would each take a thread.
set_option Elab.async false

namespace Sys2Proof.Machine

open Sys2Proof.Safety

/-- The fate of a removed handle keeps the record store in order and the slots as they were. -/
theorem settleHandle_sorted {s : State} (hs : sparseSorted s.tbl.records = true) (h : Nat) (r : Record) (q : RemovalReason)
    (g : Bool) :
    sparseSorted (settleHandle h r q g s).tbl.records = true ∧ (settleHandle h r q g s).tbl.slots = s.tbl.slots := by
  unfold settleHandle
  split
  · exact ⟨putRecord_sorted hs _ _, rfl⟩
  · simp only
    have x : sparseSorted (setRecord h (retiredRecord r.epoch q) s).tbl.records = true := by
      exact (putRecord_sorted hs h (retiredRecord r.epoch q) :)
    split <;> exact ⟨x, rfl⟩

/-- A removal keeps both stores in order. -/
theorem removeSession_sorted {s : State} (hr : sparseSorted s.tbl.records = true) (hs : sparseSorted s.tbl.slots = true)
    (h : Nat) (q : RemovalReason) (b : Bool) :
    sparseSorted (removeSession h q b s).tbl.records = true ∧ sparseSorted (removeSession h q b s).tbl.slots = true := by
  unfold removeSession
  simp only
  split
  · have base : ∀ v : State, (discardHeld h v).tbl = v.tbl := by
      intro v; unfold discardHeld; split <;> rfl
    obtain ⟨a, c⟩ := settleHandle_sorted (s := discardHeld h (bump (removalCounter q) { s with
      tbl := ((s.tbl.dropSlot (recordOf s h).slotOrig).dropSlot (recordOf s h).slotReply).digestDrop h (recordOf s h).epoch }))
      (by rw [base]; exact hr) h (recordOf s h) q (b || (recordOf s h).body.mirrored.isSome)
    refine ⟨a, ?_⟩
    rw [c, base]
    exact sparseDrop_sorted (sparseDrop_sorted hs _) _
  · exact ⟨hr, hs⟩

/-- A removal raises no flag. -/
theorem removeSession_flags (h : Nat) (q : RemovalReason) (b : Bool) (s : State) :
    (removeSession h q b s).flt.flags = s.flt.flags := by
  unfold removeSession settleHandle discardHeld
  simp only
  repeat' split
  all_goals rfl

/-- A removal damages nothing. -/
theorem removed_intact {h : Nat} {q : RemovalReason} {g : Bool} {s u : State} (r : Removed h q g s u) (k : Nat)
    (i : visitIntact s k) : visitIntact u k := by
  by_cases e : k = h
  · subst e
    have e1 := r.record
    have good : (recordOf u k).anchorGood = true ∧ (recordOf u k).bodyGood = true ∧ (recordOf u k).handleState ≠ .live := by
      rw [e1]; split <;> exact ⟨rfl, rfl, fun x => by cases x⟩
    exact ⟨⟨good.1, good.2.1⟩, fun l => (good.2.2 l).elim⟩
  · have e1 := r.others k e
    unfold visitIntact recordIntact at *
    rw [e1]
    refine ⟨i.1, fun l sl o => i.2 l sl ?_⟩
    rw [r.slots, r.slots] at o
    rcases o with o | o
    · split at o
      · cases o
      · exact .inl o
    · split at o
      · cases o
      · exact .inr o

/-- The visit's check of the age (R161). -/
theorem expired_iff (s : State) (h : Nat) : expired s (recordOf s h).body = true ↔ isOld s h := by
  refine decide_eq_true_iff.trans (Iff.of_eq (congrArg (fun n => timeoutAt s n ≤ (s.tim.seconds - _).toNat) ?_))
  unfold timeoutClass
  cases (recordOf s h).body.state <;> exact rfl

/-- A visit that finds nothing damaged removes the session or does nothing (R161). -/
theorem visitHandle_intact {s : State} {h : Nat} (i : visitIntact s h) :
    visitHandle s h = if (recordOf s h).handleState = .live ∧ expired s (recordOf s h).body = true
      then removeSession h .expired false s else s := by
  unfold visitHandle
  rw [checkRecord_intact i.1]
  simp only
  by_cases l : (recordOf s h).handleState = .live
  · rw [if_pos l]
    unfold visitSlot
    rw [checkSlot_intact (fun sl e => i.2 l sl (.inl e))]
    simp only
    rw [checkSlot_intact (fun sl e => i.2 l sl (.inr e))]
    simp only [visitExpiry, l, true_and]
  · rw [if_neg l, if_neg (fun x => l x.1)]

end Sys2Proof.Machine
end

