-- ==== Sys2Proof/Laws/PerInstr.lean ====
section
/-! SUPPORT. The family `Accounted` of statements made per command: each command as syntax, its operands and its blocks. -/

-- One proof at a time: proofs that wait for earlier checks would each take a thread.
set_option Elab.async false

namespace Sys2Proof.Laws.Accounted

open Sys2Proof.Safety

/-- The frame that a command carries as its operand. -/
def frameOf : Instr → Option RxFrame
  | .pPortFrameReceive f | .wPortFrameReceive f | .sPortFrameReceive f => some f
  | _ => none

/-- A command is well formed exactly when the frame it carries is; it never reaches the queue of waiting commands; and only a
reset reaches the free values, or the configuration together with the zones. -/
def Statement (i : Instr) : Prop :=
  (i.wf = true ↔ ∀ f, frameOf i = some f → f.wf = true) ∧ Block.pending ∉ blocksOf i ∧
    (Block.freeCount ∈ blocksOf i ∨ (Block.cfg ∈ blocksOf i ∧ Block.zones ∈ blocksOf i) →
      i = .powerOn ∨ i = .pinReset ∨ i = .softReset)

/-- A command without a frame whose blocks leave out the queue and the free values, and hold at most one of the configuration
and the zones. -/
theorem of_plain (i : Instr) (hw : i.wf = true) (hf : frameOf i = none)
    (hb : Block.pending ∉ blocksOf i ∧ Block.freeCount ∉ blocksOf i ∧ ¬ (Block.cfg ∈ blocksOf i ∧ Block.zones ∈ blocksOf i)) :
    Statement i :=
  ⟨⟨fun _ f hf' => (by rw [hf] at hf'; cases hf'), fun _ => hw⟩, hb.1,
    fun h => (h.elim hb.2.1 hb.2.2).elim⟩

/-- A command with a frame, with such blocks. -/
theorem of_frame (i : Instr) (f : RxFrame) (hw : i.wf = f.wf) (hf : frameOf i = some f)
    (hb : Block.pending ∉ blocksOf i ∧ Block.freeCount ∉ blocksOf i ∧ ¬ (Block.cfg ∈ blocksOf i ∧ Block.zones ∈ blocksOf i)) :
    Statement i :=
  ⟨⟨fun h g hg => by rw [hf] at hg; cases hg; rw [← hw]; exact h, fun h => by rw [hw]; exact h f hf⟩, hb.1,
    fun h => (h.elim hb.2.1 hb.2.2).elim⟩

/-- A reset. -/
theorem of_reset (i : Instr) (hi : i = .powerOn ∨ i = .pinReset ∨ i = .softReset) (hw : i.wf = true) (hf : frameOf i = none)
    (hb : Block.pending ∉ blocksOf i) : Statement i :=
  ⟨⟨fun _ f hf' => (by rw [hf] at hf'; cases hf'), fun _ => hw⟩, hb, fun _ => hi⟩

theorem powerOn : Statement .powerOn := of_reset _ (by decide) rfl rfl (by decide)
theorem pinReset : Statement .pinReset := of_reset _ (by decide) rfl rfl (by decide)
theorem softReset : Statement .softReset := of_reset _ (by decide) rfl rfl (by decide)
theorem pPortFrameReceive (f : RxFrame) : Statement (.pPortFrameReceive f) := of_frame _ f rfl rfl (by simp only [blocksOf]; decide)
theorem wPortFrameReceive (f : RxFrame) : Statement (.wPortFrameReceive f) := of_frame _ f rfl rfl (by simp only [blocksOf]; decide)
theorem sPortFrameReceive (f : RxFrame) : Statement (.sPortFrameReceive f) := of_frame _ f rfl rfl (by simp only [blocksOf]; decide)
theorem frameTransmitComplete (port : Port) : Statement (.frameTransmitComplete port) := of_plain _ rfl rfl (by simp only [blocksOf]; decide)
theorem clockTick : Statement .clockTick := of_plain _ rfl rfl (by decide)
theorem patrolStep : Statement .patrolStep := of_plain _ rfl rfl (by decide)
theorem holdTimeout : Statement .holdTimeout := of_plain _ rfl rfl (by decide)
theorem coalesceTimerExpiry : Statement .coalesceTimerExpiry := of_plain _ rfl rfl (by decide)
theorem replayTimerExpiry : Statement .replayTimerExpiry := of_plain _ rfl rfl (by decide)
theorem revertTimerExpiry : Statement .revertTimerExpiry := of_plain _ rfl rfl (by decide)
theorem ackTimerExpiry : Statement .ackTimerExpiry := of_plain _ rfl rfl (by decide)
theorem helloTimerExpiry : Statement .helloTimerExpiry := of_plain _ rfl rfl (by decide)
theorem deadTimerExpiry (path : PathId) : Statement (.deadTimerExpiry path) := of_plain _ rfl rfl (by simp only [blocksOf]; decide)
theorem listenTimerExpiry : Statement .listenTimerExpiry := of_plain _ rfl rfl (by decide)
theorem drainTimerExpiry : Statement .drainTimerExpiry := of_plain _ rfl rfl (by decide)
theorem graceTimerExpiry : Statement .graceTimerExpiry := of_plain _ rfl rfl (by decide)
theorem announceSpacingExpiry : Statement .announceSpacingExpiry := of_plain _ rfl rfl (by decide)
theorem keepaliveTimerExpiry : Statement .keepaliveTimerExpiry := of_plain _ rfl rfl (by decide)
theorem noticeHoldoffExpiry : Statement .noticeHoldoffExpiry := of_plain _ rfl rfl (by decide)
theorem drained : Statement .drained := of_plain _ rfl rfl (by decide)
theorem deltaBuild : Statement .deltaBuild := of_plain _ rfl rfl (by decide)
theorem read : Statement .read := of_plain _ rfl rfl (by decide)
theorem readCountersClear : Statement .readCountersClear := of_plain _ rfl rfl (by decide)
theorem write : Statement .write := of_plain _ rfl rfl (by decide)
theorem writeConfig : Statement .writeConfig := of_plain _ rfl rfl (by decide)
theorem writeZones : Statement .writeZones := of_plain _ rfl rfl (by decide)
theorem writeTimeouts : Statement .writeTimeouts := of_plain _ rfl rfl (by decide)
theorem writeStatus : Statement .writeStatus := of_plain _ rfl rfl (by decide)
theorem writeClock : Statement .writeClock := of_plain _ rfl rfl (by decide)
theorem install : Statement .install := of_plain _ rfl rfl (by decide)
theorem find : Statement .find := of_plain _ rfl rfl (by decide)
theorem remove : Statement .remove := of_plain _ rfl rfl (by decide)
theorem keepalive : Statement .keepalive := of_plain _ rfl rfl (by decide)
theorem start : Statement .start := of_plain _ rfl rfl (by decide)
theorem stop : Statement .stop := of_plain _ rfl rfl (by decide)
theorem take : Statement .take := of_plain _ rfl rfl (by decide)
theorem yield : Statement .yield := of_plain _ rfl rfl (by decide)
theorem resume : Statement .resume := of_plain _ rfl rfl (by decide)
theorem resumePath : Statement .resumePath := of_plain _ rfl rfl (by decide)
theorem forceFault : Statement .forceFault := of_plain _ rfl rfl (by decide)
theorem clearErrors : Statement .clearErrors := of_plain _ rfl rfl (by decide)
theorem clearStatus : Statement .clearStatus := of_plain _ rfl rfl (by decide)
theorem clockRun : Statement .clockRun := of_plain _ rfl rfl (by decide)
theorem clockHalt : Statement .clockHalt := of_plain _ rfl rfl (by decide)
theorem clockSet : Statement .clockSet := of_plain _ rfl rfl (by decide)
theorem runtRequest : Statement .runtRequest := of_plain _ rfl rfl (by decide)
theorem undefinedCommand : Statement .undefinedCommand := of_plain _ rfl rfl (by decide)

end Sys2Proof.Laws.Accounted
end

