-- ==== Sys2Proof/Laws/Reports.lean ====
section
/-! SUPPORT. What an event hands to the W-port and the S-port and reports, added up: `Adds`, one lemma for each operation that
hands over, counts or reports, and their sum. -/

-- One proof at a time: proofs that wait for earlier checks would each take a thread.
set_option Elab.async false

namespace Sys2Proof.Machine

open Sys2Proof.Safety

/-! ## Sums -/

theorem satAdd32_zero (x : Word32) : satAdd32 x 0 = x := by
  unfold satAdd32
  have := x.isLt
  rw [Nat.add_zero, Nat.min_eq_left (by omega)]
  simp

theorem satAdd32_add (x : Word32) (a b : Nat) : satAdd32 (satAdd32 x a) b = satAdd32 x (a + b) := by
  unfold satAdd32
  apply BitVec.eq_of_toNat_eq
  simp only [BitVec.toNat_ofNat]
  omega

/-- The flag of a class rises with its errors. -/
def flagOf (es : List (ErrCode × ErrInfo)) (f : Flag) : BitVec 9 := if es = [] then 0#9 else f.bitmap

theorem flagOf_append (a b : List (ErrCode × ErrInfo)) (f : Flag) : flagOf (a ++ b) f = flagOf a f ||| flagOf b f := by
  unfold flagOf
  cases a <;> cases b <;> simp

theorem loggedAfter_append {s t : State} (hc : t.tim.seconds = s.tim.seconds ∧ t.tim.ms = s.tim.ms) (r : ErrRecord)
    (a b : List (ErrCode × ErrInfo)) : loggedAfter t (loggedAfter s r a) b = loggedAfter s r (a ++ b) := by
  simp only [loggedAfter, List.foldl_append, hc.1, hc.2]

/-- What of some frames finds room behind what is there, and what of more frames then does. -/
theorem take_then {α : Type} (a b : List α) (q n : Nat) :
    a.take (n - q) ++ b.take (n - (q + (a.take (n - q)).length)) = (a ++ b).take (n - q) := by
  rw [List.take_append, List.length_take]
  congr 2
  omega

theorem drop_then {α : Type} (a b : List α) (q n : Nat) :
    a.drop (n - q) ++ b.drop (n - (q + (a.take (n - q)).length)) = (a ++ b).drop (n - q) := by
  rw [List.drop_append, List.length_take]
  congr 2
  omega

/-! ## What an event adds up to -/

/-- From s to t the frames ws join the W-port's queue and ss the S-port's, the NOTE and LOSS errors listed are filed, the flags
`ups` rise beside theirs, and the counters rise by `cs`; the path and the report unit are otherwise as they were. -/
structure Adds (ws ss : List Frame) (notes losses : List (ErrCode × ErrInfo)) (ups : BitVec 9) (cs : Ctr → Nat)
    (s t : State) : Prop where
  prt   : t.prt = { s.prt with wQueue := s.prt.wQueue ++ ws, sQueue := s.prt.sQueue ++ ss }
  note  : t.flt.logNote = loggedAfter s s.flt.logNote notes
  loss  : t.flt.logLoss = loggedAfter s s.flt.logLoss losses
  flags : t.flt.flags = s.flt.flags ||| ups ||| flagOf notes .errNote ||| flagOf losses .errLoss
  count : ∀ c, counter t c = satAdd32 (counter s c) (cs c)
  rest  : t.flt = { s.flt with
    logNote := t.flt.logNote, logLoss := t.flt.logLoss, flags := t.flt.flags, counters := t.flt.counters }
  clock : t.tim.seconds = s.tim.seconds ∧ t.tim.ms = s.tim.ms

/-- Nothing. -/
abbrev AddsNothing (s t : State) : Prop := Adds [] [] [] [] 0#9 (fun _ => 0) s t

theorem Adds.none {s t : State} (hp : t.prt = s.prt) (hf : t.flt = s.flt)
    (hc : t.tim.seconds = s.tim.seconds ∧ t.tim.ms = s.tim.ms) : AddsNothing s t where
  prt := by rw [hp]; simp
  note := by rw [hf]; rfl
  loss := by rw [hf]; rfl
  flags := by rw [hf]; simp [flagOf]
  count := fun c => by rw [satAdd32_zero]; simp only [counter, hf]
  rest := by rw [hf]
  clock := hc

theorem Adds.refl (s : State) : AddsNothing s s := Adds.none rfl rfl ⟨rfl, rfl⟩

/-- A step that touches neither the path nor the report unit nor the clock. -/
theorem Adds.touching {s t : State} {bs : List Block} (h : Touches bs s t) (hp : Block.prt ∉ bs := by decide)
    (hf : Block.flt ∉ bs := by decide) (hc : Block.clock ∉ bs := by decide) : AddsNothing s t := by
  refine Adds.none (h .prt hp) (h .flt hf) ?_
  have c : clockOf t.tim = clockOf s.tim := h .clock hc
  simp only [clockOf, Prod.mk.injEq] at c
  exact ⟨c.2.2.2.2, c.2.2.2.1⟩

theorem Adds.trans {s t u : State} {ws ss ws' ss' : List Frame} {n l n' l' : List (ErrCode × ErrInfo)} {f f' : BitVec 9}
    {cs cs' : Ctr → Nat} (a : Adds ws ss n l f cs s t) (b : Adds ws' ss' n' l' f' cs' t u) :
    Adds (ws ++ ws') (ss ++ ss') (n ++ n') (l ++ l') (f ||| f') (fun c => cs c + cs' c) s u where
  prt := by rw [b.prt, a.prt]; simp
  note := by rw [b.note, a.note, loggedAfter_append a.clock]
  loss := by rw [b.loss, a.loss, loggedAfter_append a.clock]
  flags := by
    rw [b.flags, a.flags, flagOf_append, flagOf_append]
    ac_rfl
  count := fun c => by rw [b.count, a.count, satAdd32_add]
  rest := by
    have e := b.rest
    rw [a.rest] at e
    exact e
  clock := ⟨b.clock.1.trans a.clock.1, b.clock.2.trans a.clock.2⟩

/-- The same sum, written otherwise. -/
theorem Adds.as {s t : State} {ws ss ws' ss' : List Frame} {n l n' l' : List (ErrCode × ErrInfo)} {f f' : BitVec 9}
    {cs cs' : Ctr → Nat} (a : Adds ws ss n l f cs s t) (hw : ws = ws' := by simp) (hs : ss = ss' := by simp)
    (hn : n = n' := by simp) (hl : l = l' := by simp) (hf : f = f' := by simp) (hc : ∀ c, cs c = cs' c := by simp) :
    Adds ws' ss' n' l' f' cs' s t := by
  obtain rfl : cs = cs' := funext hc
  subst hw hs hn hl hf
  exact a

/-- Before and after a sum, steps that add nothing. -/
theorem Adds.after {s t u : State} {ws ss : List Frame} {n l : List (ErrCode × ErrInfo)} {f : BitVec 9} {cs : Ctr → Nat}
    (b : Adds ws ss n l f cs t u) (a : AddsNothing s t) : Adds ws ss n l f cs s u := (a.trans b).as

theorem Adds.before {s t u : State} {ws ss : List Frame} {n l : List (ErrCode × ErrInfo)} {f : BitVec 9} {cs : Ctr → Nat}
    (a : Adds ws ss n l f cs s t) (b : AddsNothing t u) : Adds ws ss n l f cs s u := (a.trans b).as

/-! ## The operations -/

/-- What one counter that rises by n adds, to itself and to the counter that shares its position. -/
def only (d : Ctr) (n : Nat) : Ctr → Nat := fun c => if d.pos = c.pos then n else 0

theorem only_zero (d c : Ctr) : only d 0 c = 0 := by unfold only; split <;> rfl

theorem only_add (d c : Ctr) (a b : Nat) : only d a c + only d b c = only d (a + b) c := by
  unfold only; split <;> rfl

theorem bumpBy_adds (d : Ctr) (n : Nat) (s : State) : Adds [] [] [] [] 0#9 (only d n) s (bumpBy d n s) :=
  { Adds.refl s with
    count := fun c => by
      rw [counter_bumpBy]
      unfold only
      split
      · rename_i h
        simp only [counter, h]
      · rw [satAdd32_zero]
    rest := rfl }

theorem bump_adds (d : Ctr) (s : State) : Adds [] [] [] [] 0#9 (only d 1) s (bump d s) := bumpBy_adds d 1 s

theorem raise_adds (f : Flag) (s : State) : Adds [] [] [] [] f.bitmap (fun _ => 0) s (raise f s) :=
  { Adds.refl s with flags := by simp [flagOf], rest := rfl }

theorem report_note_adds (k : ErrCode) (i : ErrInfo) (s : State) (h : k.cls = .note := by rfl) :
    Adds [] [] [(k, i)] [] 0#9 (fun _ => 0) s (report k i s) where
  prt := by simp
  note := by simp only [report, raise, h, Flt.setRecord, Flt.record]; rfl
  loss := by simp only [report, raise, h, Flt.setRecord]; rfl
  flags := by rw [report_flags, h]; simp [flagOf, ErrClass.flag]
  count := fun c => by rw [satAdd32_zero]; exact counter_report c k i s
  rest := by simp only [report, raise, h, Flt.setRecord]
  clock := ⟨rfl, rfl⟩

theorem report_loss_adds (k : ErrCode) (i : ErrInfo) (s : State) (h : k.cls = .loss := by rfl) :
    Adds [] [] [] [(k, i)] 0#9 (fun _ => 0) s (report k i s) where
  prt := by simp
  note := by simp only [report, raise, h, Flt.setRecord]; rfl
  loss := by simp only [report, raise, h, Flt.setRecord, Flt.record]; rfl
  flags := by rw [report_flags, h]; simp [flagOf, ErrClass.flag]
  count := fun c => by rw [satAdd32_zero]; exact counter_report c k i s
  rest := by simp only [report, raise, h, Flt.setRecord]
  clock := ⟨rfl, rfl⟩

/-- PRT1 with a port's code, for each frame that finds no room. -/
def portErrors (place : Nat) (fs : List Frame) : List (ErrCode × ErrInfo) := fs.map fun _ => (.prt1, ErrInfo.ofPlace place)

theorem joined_adds (ws ss : List Frame) (s : State) : Adds ws ss [] [] 0#9 (fun _ => 0) s
    { s with prt := { s.prt with wQueue := s.prt.wQueue ++ ws, sQueue := s.prt.sQueue ++ ss } } :=
  { Adds.refl s with prt := rfl }

/-- A frame handed to the W-port: it joins a queue with room, and a full one drops and reports it (R2). -/
theorem handToW_adds (f : Frame) (s : State) :
    Adds ([f].take (128 - s.prt.wQueue.length)) [] (portErrors 2 ([f].drop (128 - s.prt.wQueue.length))) [] 0#9
      (only .wTxDrop ([f].drop (128 - s.prt.wQueue.length)).length) s (handToPort .w f s) := by
  rcases handToPort_cases .w f s with ⟨h, e⟩ | ⟨h, e⟩
  · obtain ⟨k, hk⟩ : ∃ k, 128 - s.prt.wQueue.length = k + 1 := ⟨127 - s.prt.wQueue.length, by
      simp only [queueRoom, Prt.queue, Config.wQueueRoom] at h; omega⟩
    rw [e, hk]
    have j := joined_adds [f] [] s
    rw [List.append_nil] at j
    exact j.as (hn := by simp [portErrors]) (hc := fun c => by simp [only])
  · have hk : 128 - s.prt.wQueue.length = 0 := by
      simp only [queueRoom, Prt.queue, Config.wQueueRoom] at h; omega
    rw [e, hk]
    exact ((bump_adds .wTxDrop s).trans (report_note_adds .prt1 (ErrInfo.ofPlace 2) _)).as (hn := by simp [portErrors])

/-- A frame handed to the S-port. -/
theorem handToS_adds (f : Frame) (s : State) :
    Adds [] ([f].take (80 - s.prt.sQueue.length)) (portErrors 3 ([f].drop (80 - s.prt.sQueue.length))) [] 0#9
      (only .sTxDrop ([f].drop (80 - s.prt.sQueue.length)).length) s (handToPort .s f s) := by
  rcases handToPort_cases .s f s with ⟨h, e⟩ | ⟨h, e⟩
  · obtain ⟨k, hk⟩ : ∃ k, 80 - s.prt.sQueue.length = k + 1 := ⟨79 - s.prt.sQueue.length, by
      simp only [queueRoom, Prt.queue, Config.sQueueRoom] at h; omega⟩
    rw [e, hk]
    have j := joined_adds [] [f] s
    rw [List.append_nil] at j
    exact j.as (hn := by simp [portErrors]) (hc := fun c => by simp [only])
  · have hk : 80 - s.prt.sQueue.length = 0 := by
      simp only [queueRoom, Prt.queue, Config.sQueueRoom] at h; omega
    rw [e, hk]
    exact ((bump_adds .sTxDrop s).trans (report_note_adds .prt1 (ErrInfo.ofPlace 3) _)).as (hn := by simp [portErrors])

/-- A run of steps of which each hands a frame to the W-port and raises counters by `cs`; `P` holds before each of them. -/
theorem Adds.handing {α : Type} {f : State → α → State} {g : α → Frame} {cs : Ctr → Nat} {P : State → Prop}
    (step : ∀ s a, P s → Adds ([g a].take (128 - s.prt.wQueue.length)) []
      (portErrors 2 ([g a].drop (128 - s.prt.wQueue.length))) [] 0#9
      (fun c => only .wTxDrop ([g a].drop (128 - s.prt.wQueue.length)).length c + cs c) s (f s a))
    (keep : ∀ s a, P s → P (f s a)) (l : List α) (s : State) (hp : P s) :
    Adds ((l.map g).take (128 - s.prt.wQueue.length)) [] (portErrors 2 ((l.map g).drop (128 - s.prt.wQueue.length))) [] 0#9
      (fun c => only .wTxDrop ((l.map g).drop (128 - s.prt.wQueue.length)).length c + l.length * cs c) s (l.foldl f s) := by
  induction l generalizing s with
  | nil => exact (Adds.refl s).as (hn := by simp [portErrors]) (hc := fun c => by simp [only_zero])
  | cons a l ih =>
    have st := step s a hp
    have q : (f s a).prt.wQueue.length = s.prt.wQueue.length + ([g a].take (128 - s.prt.wQueue.length)).length := by
      rw [st.prt]; simp
    have r := ih (f s a) (keep s a hp)
    rw [q] at r
    refine (st.trans r).as (take_then [g a] (l.map g) _ 128) rfl ?_ rfl (by simp) fun c => ?_
    · simp only [portErrors, ← List.map_append]
      rw [drop_then [g a] (l.map g)]
      rfl
    · have d := congrArg List.length (drop_then [g a] (l.map g) s.prt.wQueue.length 128)
      rw [List.length_append] at d
      show only .wTxDrop _ c + cs c + (only .wTxDrop _ c + l.length * cs c) = only .wTxDrop _ c + (l.length + 1) * cs c
      rw [show (List.map g (a :: l)) = [g a] ++ l.map g from rfl, ← d, ← only_add, Nat.add_mul]
      omega

/-- The keepalive timer written. -/
def withKeepalive (k : Timer) (s : State) : State := { s with flt := { s.flt with keepalive := k } }

/-- A sum leaves the keepalive timer alone, whatever it reads. -/
theorem Adds.keepalive {s t : State} {ws ss : List Frame} {n l : List (ErrCode × ErrInfo)} {f : BitVec 9} {cs : Ctr → Nat}
    (a : Adds ws ss n l f cs s t) (k : Timer) : Adds ws ss n l f cs (withKeepalive k s) (withKeepalive k t) :=
  { prt := a.prt, note := a.note, loss := a.loss, flags := a.flags, count := a.count, clock := a.clock
    rest := congrArg (fun x : Flt => { x with keepalive := k }) a.rest }

end Sys2Proof.Machine
end

