-- ==== Sys2Proof/Laws/Rewrite.lean ====
section
/-! SUPPORT. The rewrite unit's pieces: bytes overwritten, the words of an address, and a checksum adjusted for several words
at once (R20). -/

-- One proof at a time: proofs that wait for earlier checks would each take a thread.
set_option Elab.async false

namespace Sys2Proof.Machine

/-- Overwriting within a frame keeps its length. -/
theorem overwrite_length {f : List Byte} {off : Nat} {new : List Byte} (h : off + new.length ≤ f.length) :
    (overwrite f off new).length = f.length := by
  unfold overwrite
  simp only [List.length_append, List.length_take, List.length_drop]
  omega

/-- A byte after an overwrite: the new one within its range, the old one outside. -/
theorem byteAt_overwrite {f : List Byte} {off : Nat} {new : List Byte} (h : off + new.length ≤ f.length) (i : Nat) :
    byteAt (overwrite f off new) i = if i < off ∨ off + new.length ≤ i then byteAt f i else byteAt new (i - off) := by
  unfold overwrite byteAt
  simp only [List.getD_eq_getElem?_getD, List.getElem?_append, List.length_append, List.length_take, List.getElem?_take,
    List.getElem?_drop, Nat.min_eq_left (Nat.le_trans (Nat.le_add_right _ _) h)]
  split_ifs <;> first | rfl | omega | (congr 2; omega)

/-- The two words of a doubleword. -/
theorem extract_high (a b : Word16) : (a ++ b).extractLsb' 16 16 = a := by
  apply BitVec.eq_of_getLsbD_eq
  intro i hi
  rw [BitVec.getLsbD_extractLsb', BitVec.getLsbD_append, decide_eq_true hi, if_neg (by omega), Nat.add_sub_cancel_left]
  rfl

theorem extract_low (a b : Word16) : (a ++ b).extractLsb' 0 16 = b := by
  apply BitVec.eq_of_getLsbD_eq
  intro i hi
  rw [BitVec.getLsbD_extractLsb', BitVec.getLsbD_append, decide_eq_true hi, if_pos (by omega), Nat.zero_add]
  rfl

/-- The address words of a packet, written out. -/
theorem addressWords_eq (p : List Byte) (t : Translation) : addressWords p t =
    [(word16At p 12, t.srcAddr.extractLsb' 16 16), (word16At p 14, t.srcAddr.extractLsb' 0 16),
     (word16At p 16, t.dstAddr.extractLsb' 16 16), (word16At p 18, t.dstAddr.extractLsb' 0 16)] := by
  unfold addressWords addrWords word32At
  simp only [extract_high, extract_low]
  rfl

theorem onesAdd_zero (x : Word16) : onesAdd 0#16 x = x := by
  apply BitVec.eq_of_toNat_eq
  have := x.isLt
  simp only [onesAdd, BitVec.toNat_ofNat]
  omega

/-- Adjusting for several words is one complement of one sum over those that change (R20). -/
theorem adjustWords_sum (hc : Word16) (ws : List (Word16 × Word16)) :
    adjustWords hc ws = ~~~ onesSum (~~~ hc :: (ws.filter fun w => w.1 != w.2).flatMap fun w => [~~~ w.1, w.2]) := by
  unfold onesSum
  rw [List.foldl_cons, onesAdd_zero]
  induction ws generalizing hc with
  | nil => exact (BitVec.not_not).symm
  | cons w ws ih =>
    refine (ih (adjustWord hc w.1 w.2)).trans ?_
    by_cases e : w.1 = w.2 <;> simp [adjustWord, e]

end Sys2Proof.Machine
end

