-- ==== Sys2Proof/Laws/StreamClose.lean ====
section
/-! SUPPORT. What a close of the stream does, said once: `closeStream_closed` (R39, R81, R86). -/

-- One proof at a time: proofs that wait for earlier checks would each take a thread.
set_option Elab.async false

namespace Sys2Proof.Machine

open Sys2Proof.Safety

/-! ## The hold queue -/

theorem disposeHold_mir (r : Role) (s : State) : (disposeHold r s).mir = s.mir := disposeHold_touches r s .mir (by decide)

theorem clearReleaseSeq_hold (e : HoldEntry) (s : State) : (clearReleaseSeq e s).hold = s.hold :=
  clearReleaseSeq_touches e s .hold (by decide)

theorem releaseHeld_hold (c : Ctr) (s : State) (e : HoldEntry) : (releaseHeld c s e).hold = s.hold :=
  releaseHeld_touches c s e .hold (by decide)

theorem foldl_same {α β : Type} {f : State → α → State} {g : State → β} (h : ∀ s a, g (f s a) = g s) (l : List α) (s : State) :
    g (l.foldl f s) = g s := by
  induction l generalizing s with
  | nil => rfl
  | cons a l ih => exact (ih (f s a)).trans (h s a)

theorem releaseAll_hold (c : Ctr) (s : State) : (releaseWhere (fun _ => true) c s).hold = [] := by
  unfold releaseWhere
  rw [foldl_same (g := State.hold) (fun s e => releaseHeld_hold c s e)]
  simp

theorem disposeHold_hold (r : Role) (s : State) : (disposeHold r s).hold = [] := by
  unfold disposeHold
  split
  · assumption
  · split
    · exact releaseAll_hold _ s
    · have e : ∀ n, (bumpBy .holdDropRole n (s.hold.foldl (fun t e => clearReleaseSeq e t) { s with hold := [] })).hold = [] :=
        fun _ => foldl_same (g := State.hold) (fun s e => clearReleaseSeq_hold e s) s.hold { s with hold := [] }
      simp only
      split
      · exact e s.hold.length
      · exact e s.hold.length

/-! ## The table -/

/-- What keeps the table but for the mirrored groups and release sequences. -/
structure SameTbl (s t : State) : Prop where
  sorted : sparseSorted t.tbl.records = true
  slots  : t.tbl.slots = s.tbl.slots
  digest : t.tbl.liveCount = s.tbl.liveCount ∧ t.tbl.digestSum = s.tbl.digestSum
  free   : t.tbl.free = s.tbl.free
  record : ∀ h, recordOf t h = { recordOf s h with body := { (recordOf s h).body with
    mirrored := (recordOf t h).body.mirrored, releaseSeq := (recordOf t h).body.releaseSeq } }

theorem SameTbl.of_eq {s t : State} (hs : sparseSorted s.tbl.records = true) (h : t.tbl = s.tbl) : SameTbl s t :=
  ⟨by rw [h]; exact hs, by rw [h], by rw [h]; exact ⟨rfl, rfl⟩, by rw [h], fun k => by simp only [recordOf, h]⟩

theorem SameTbl.trans {s t u : State} (a : SameTbl s t) (b : SameTbl t u) : SameTbl s u where
  sorted := b.sorted
  slots := b.slots.trans a.slots
  digest := ⟨b.digest.1.trans a.digest.1, b.digest.2.trans a.digest.2⟩
  free := b.free.trans a.free
  record := fun h => by rw [b.record h, a.record h]

theorem SameTbl.foldl {α : Type} {f : State → α → State} (h : ∀ s a, sparseSorted s.tbl.records = true → SameTbl s (f s a))
    (l : List α) (s : State) (hs : sparseSorted s.tbl.records = true) : SameTbl s (l.foldl f s) := by
  induction l generalizing s with
  | nil => exact SameTbl.of_eq hs rfl
  | cons a l ih => exact (h s a hs).trans (ih (f s a) (h s a hs).sorted)

theorem clearReleaseSeq_sameTbl (e : HoldEntry) (s : State) (hs : sparseSorted s.tbl.records = true) :
    SameTbl s (clearReleaseSeq e s) := by
  unfold clearReleaseSeq
  simp only
  split
  · refine ⟨putRecord_sorted hs _ _, rfl, ⟨rfl, rfl⟩, rfl, fun h => ?_⟩
    rw [recordOf_setRecord hs]
    split
    · rename_i x; subst x; rfl
    · rfl
  · exact SameTbl.of_eq hs rfl

theorem releaseHeld_sameTbl (c : Ctr) (s : State) (e : HoldEntry) (hs : sparseSorted s.tbl.records = true) :
    SameTbl s (releaseHeld c s e) :=
  have a := clearReleaseSeq_sameTbl e s hs
  a.trans (SameTbl.of_eq a.sorted (by
    unfold releaseHeld
    rw [bump_tbl, bump_tbl]
    exact handToPort_touches .w e.frame (clearReleaseSeq e s) .tbl (by decide)))

theorem disposeHold_sameTbl (r : Role) (s : State) (hs : sparseSorted s.tbl.records = true) : SameTbl s (disposeHold r s) := by
  unfold disposeHold
  split
  · exact SameTbl.of_eq hs rfl
  · split
    · unfold releaseWhere
      exact SameTbl.trans (t := { s with hold := s.hold.filter fun _ => false }) (SameTbl.of_eq hs rfl)
        (SameTbl.foldl (f := releaseHeld .holdRelFlush) (fun s e h => releaseHeld_sameTbl .holdRelFlush s e h) _ _ hs)
    · have a : SameTbl s (s.hold.foldl (fun t e => clearReleaseSeq e t) { s with hold := [] }) :=
        SameTbl.trans (t := { s with hold := [] }) (SameTbl.of_eq hs rfl)
          (SameTbl.foldl (f := fun t e => clearReleaseSeq e t) (fun s e h => clearReleaseSeq_sameTbl e s h) _ _ hs)
      simp only
      split
      · exact a.trans (SameTbl.of_eq a.sorted rfl)
      · exact a.trans (SameTbl.of_eq a.sorted rfl)

theorem recordOf_map (f : Record → Record) (keep : f Record.fresh = Record.fresh) {s t : State}
    (hs : sparseSorted s.tbl.records = true) (e : t.tbl.records = mapRecords f s.tbl.records) (h : Nat) :
    recordOf t h = f (recordOf s h) := by
  simp only [recordOf, Tbl.record, e]
  exact sparse_mapRecords f keep hs h

theorem dropStandbyFields_sorted (s : State) (hs : sparseSorted s.tbl.records = true) :
    sparseSorted (dropStandbyFields s).tbl.records = true := by
  exact mapRecords_sorted (fun r =>
    if r.handleState = .live then { r with body := { r.body with mirrored := none, releaseSeq := none } } else r) hs

theorem clearDirty_sorted (s : State) (hs : sparseSorted s.tbl.records = true) :
    sparseSorted (clearDirty s).tbl.records = true := by
  exact mapRecords_sorted (fun r => { r with pending := .none }) hs

theorem recordOf_clearDirty {s : State} (hs : sparseSorted s.tbl.records = true) (h : Nat) :
    recordOf (clearDirty s) h = { recordOf s h with pending := .none } :=
  recordOf_map (fun r => { r with pending := .none }) rfl hs (by unfold clearDirty; rfl) h

theorem dropStandbyFields_sameTbl (s : State) (hs : sparseSorted s.tbl.records = true) : SameTbl s (dropStandbyFields s) := by
  refine ⟨dropStandbyFields_sorted s hs, rfl, ⟨rfl, rfl⟩, rfl, fun h => ?_⟩
  rw [recordOf_map
    (fun r => if r.handleState = .live then { r with body := { r.body with mirrored := none, releaseSeq := none } } else r)
    (by decide) hs (by unfold dropStandbyFields; rfl) h]
  split <;> rfl


/-- The record of a handle once the release_seq of each of some entries' sessions has become absent. -/
def withoutSeq (es : List HoldEntry) (h : Nat) (r : Record) : Record :=
  { r with body := { r.body with
      releaseSeq := if r.handleState = .live ∧ (∃ e ∈ es, e.handle = h ∧ e.epoch = r.epoch) then none else r.body.releaseSeq } }

theorem withoutSeq_nil (h : Nat) (r : Record) : withoutSeq [] h r = r := by simp [withoutSeq]

theorem withoutSeq_cons (e : HoldEntry) (es : List HoldEntry) (h : Nat) (r : Record) :
    withoutSeq es h (withoutSeq [e] h r) = withoutSeq (e :: es) h r := by
  unfold withoutSeq
  by_cases live : r.handleState = .live <;> by_cases a : e.handle = h ∧ e.epoch = r.epoch <;>
    by_cases b : ∃ x ∈ es, x.handle = h ∧ x.epoch = r.epoch <;> simp [live, a, b]

theorem recordOf_clearReleaseSeq {s : State} (hs : sparseSorted s.tbl.records = true) (e : HoldEntry) (h : Nat) :
    recordOf (clearReleaseSeq e s) h = withoutSeq [e] h (recordOf s h) := by
  unfold clearReleaseSeq withoutSeq
  simp only
  split
  · rename_i c
    rw [recordOf_setRecord hs]
    split
    · rename_i x
      subst x
      simp [c]
    · rename_i x
      simp [show ¬ e.handle = h from fun y => x y.symm]
  · rename_i c
    by_cases x : e.handle = h
    · subst x
      simp only [List.mem_singleton, exists_eq_left, true_and]
      rw [if_neg (fun y => c ⟨y.1, y.2.symm⟩)]
    · simp [x]

/-- Steps of which each takes the release_seq of an entry's session, and does nothing else to the table. -/
theorem recordOf_clearing {f : State → HoldEntry → State} (hf : ∀ s e, (f s e).tbl = (clearReleaseSeq e s).tbl)
    (es : List HoldEntry) {s : State} (hs : sparseSorted s.tbl.records = true) (h : Nat) :
    recordOf (es.foldl f s) h = withoutSeq es h (recordOf s h) := by
  induction es generalizing s with
  | nil => exact (withoutSeq_nil h _).symm
  | cons e es ih =>
    have t : sparseSorted (f s e).tbl.records = true := by rw [hf]; exact (clearReleaseSeq_sameTbl e s hs).sorted
    have r : recordOf (f s e) h = withoutSeq [e] h (recordOf s h) := by
      rw [← recordOf_clearReleaseSeq hs]
      simp only [recordOf, hf]
    rw [List.foldl_cons, ih t, r, withoutSeq_cons]

theorem releaseHeld_tbl (c : Ctr) (s : State) (e : HoldEntry) : (releaseHeld c s e).tbl = (clearReleaseSeq e s).tbl := by
  unfold releaseHeld
  rw [bump_tbl, bump_tbl]
  exact handToPort_touches .w e.frame (clearReleaseSeq e s) .tbl (by decide)

theorem recordOf_disposeHold (r : Role) {s : State} (hs : sparseSorted s.tbl.records = true) (h : Nat) :
    recordOf (disposeHold r s) h = withoutSeq s.hold h (recordOf s h) := by
  unfold disposeHold
  split
  · rename_i e
    rw [e, withoutSeq_nil]
  · split
    · unfold releaseWhere
      rw [List.filter_true]
      exact recordOf_clearing (releaseHeld_tbl _) _ (s := { s with hold := s.hold.filter fun _ => !true }) hs h
    · have a := recordOf_clearing (f := fun t e => clearReleaseSeq e t) (fun _ _ => rfl) s.hold
        (s := { s with hold := [] }) hs h
      simp only
      split
      · exact a
      · exact a

/-! ## What a disposal hands over and reports -/

theorem releaseHeld_adds (s : State) (e : HoldEntry) :
    Adds ([e.frame].take (128 - s.prt.wQueue.length)) [] (portErrors 2 ([e.frame].drop (128 - s.prt.wQueue.length))) [] 0#9
      (fun c => only .wTxDrop ([e.frame].drop (128 - s.prt.wQueue.length)).length c + (only .holdRelFlush 1 c + only .hitFwd 1 c))
      s (releaseHeld .holdRelFlush s e) := by
  have q : (clearReleaseSeq e s).prt = s.prt := clearReleaseSeq_touches e s .prt (by decide)
  have a := handToW_adds e.frame (clearReleaseSeq e s)
  rw [q] at a
  exact (((a.after (Adds.touching (clearReleaseSeq_touches e s))).trans (bump_adds .holdRelFlush _)).trans
    (bump_adds .hitFwd _)).as (hc := fun c => Nat.add_assoc _ _ _)

/-- A release of every entry: the frames go to the W-port in order. -/
theorem disposeHold_released (r : Role) (s : State) (ha : r.isActive = true) :
    Adds ((s.hold.map HoldEntry.frame).take (128 - s.prt.wQueue.length)) []
      (portErrors 2 ((s.hold.map HoldEntry.frame).drop (128 - s.prt.wQueue.length))) [] 0#9
      (fun c => only .wTxDrop ((s.hold.map HoldEntry.frame).drop (128 - s.prt.wQueue.length)).length c +
        s.hold.length * (only .holdRelFlush 1 c + only .hitFwd 1 c)) s (disposeHold r s) := by
  unfold disposeHold
  split
  · rename_i e
    rw [e]
    exact (Adds.refl s).as (hn := by simp [portErrors]) (hc := fun c => by simp [only])
  · rw [if_pos ha]
    unfold releaseWhere
    rw [List.filter_true]
    exact (Adds.handing (g := HoldEntry.frame) (P := fun _ => True) (fun u e _ => releaseHeld_adds u e) (fun _ _ _ => trivial)
      s.hold { s with hold := s.hold.filter fun _ => !true } trivial).after
      (Adds.none rfl rfl ⟨rfl, rfl⟩)

/-- The error of a discard: HLD3 with the first handle, but for DETACHED (R81). -/
def discardErrors (r : Role) (es : List HoldEntry) : List (ErrCode × ErrInfo) :=
  match es with
  | [] => []
  | e :: _ => if r = .detached then [] else [(.hld3, ErrInfo.ofHandle e.handle)]

/-- A discard of every entry. -/
theorem disposeHold_dropped (r : Role) (s : State) (ha : r.isActive = false) :
    Adds [] [] [] (discardErrors r s.hold) 0#9 (only .holdDropRole s.hold.length) s (disposeHold r s) := by
  unfold disposeHold
  split
  · rename_i e
    rw [e]
    exact (Adds.refl s).as (hl := by simp [discardErrors]) (hc := fun c => by simp [only])
  · rename_i e es hold
    rw [if_neg (by rw [ha]; decide)]
    have quiet : ∀ (l : List HoldEntry) (u : State), AddsNothing u (l.foldl (fun t e => clearReleaseSeq e t) u) := by
      intro l
      induction l with
      | nil => exact Adds.refl
      | cons e l ih => exact fun u => (ih (clearReleaseSeq e u)).after (Adds.touching (clearReleaseSeq_touches e u))
    have b := (bumpBy_adds .holdDropRole s.hold.length _).after
      ((quiet s.hold { s with hold := [] }).after (Adds.none (s := s) rfl rfl ⟨rfl, rfl⟩))
    simp only
    split
    · rename_i d
      exact b.as (hl := by rw [hold]; simp [discardErrors, d])
    · rename_i d
      exact (b.trans (report_loss_adds .hld3 (ErrInfo.ofHandle e.handle) _)).as (hl := by rw [hold]; simp [discardErrors, d])

/-! ## The handles freed -/

theorem freeHandles_joinRun (r : Run) (f : List Run) :
    freeHandles (joinRun r f) = List.range' r.first r.count ++ freeHandles f := by
  unfold joinRun
  split
  · rename_i z; simp [z]
  · split
    · simp [freeHandles]
    · split
      · rename_i q rest e
        simp only [freeHandles, List.flatMap_cons, ← List.append_assoc]
        rw [← e, List.range'_append_1]
      · simp [freeHandles]

theorem freeHandles_freePush (f : List Run) (h : Nat) : freeHandles (freePush f h) = freeHandles f ++ [h] := by
  induction f with
  | nil => simp [freePush, freeHandles]
  | cons r f ih =>
    cases f with
    | nil =>
      rw [freePush, freeHandles_joinRun]
      simp [freeHandles]
    | cons q f =>
      simp only [freePush, freeHandles, List.flatMap_cons] at ih ⊢
      rw [ih]
      simp

theorem freeHandles_releaseAll (l : List Nat) {t : Tbl} (hs : sparseSorted t.records = true) (nd : l.Nodup)
    (hr : ∀ h ∈ l, (t.record h).handleState = .retired) :
    freeHandles (l.foldl Tbl.releaseRetired t).free = freeHandles t.free ++ l := by
  induction l generalizing t with
  | nil => simp
  | cons h l ih =>
    obtain ⟨hn, nd⟩ := List.nodup_cons.1 nd
    rw [List.foldl_cons, ih (releaseRetired_sorted hs h) nd]
    · unfold Tbl.releaseRetired
      rw [if_pos (hr h (by simp))]
      simp only [Tbl.release, Tbl.setRecord, freeHandles_freePush]
      simp
    · intro k hk
      have ne : k ≠ h := fun e => hn (e ▸ hk)
      rw [record_releaseRetired hs, if_neg (fun x => ne x.1)]
      exact hr k (by simp [hk])

theorem sparseSorted_nodup {α : Type} (m : List (Nat × α)) (hs : sparseSorted m = true) (p : Nat × α → Bool) :
    ((m.filter p).map Prod.fst).Nodup := by
  induction m with
  | nil => simp
  | cons q m ih =>
    obtain ⟨below, hs⟩ := (sparseSorted_cons q.1 q.2 m).1 hs
    rw [List.filter_cons]
    split
    · rw [List.map_cons, List.nodup_cons]
      refine ⟨fun x => ?_, ih hs⟩
      obtain ⟨y, hy, e⟩ := List.mem_map.1 x
      have := below y (List.mem_filter.1 hy).1
      omega
    · exact ih hs

theorem freeHandles_freeAllRetired {s : State} (hs : sparseSorted s.tbl.records = true) :
    freeHandles (freeAllRetired s).tbl.free = freeHandles s.tbl.free ++ s.tbl.retiredHandles :=
  freeHandles_releaseAll _ hs (sparseSorted_nodup _ hs _) fun h m => (mem_retiredHandles hs h).1 m

/-- A change of the records that keeps what each handle is keeps the RETIRED handles. -/
theorem retiredHandles_map (f : Record → Record) (keep : ∀ r, (f r).handleState = r.handleState) {s t : Tbl}
    (e : t.records = mapRecords f s.records) : t.retiredHandles = s.retiredHandles := by
  unfold Tbl.retiredHandles
  rw [e]
  generalize s.records = m
  induction m with
  | nil => rfl
  | cons p m ih =>
    simp only [mapRecords, List.filterMap_cons] at ih ⊢
    by_cases fresh : f p.2 = Record.fresh
    · have nr : ¬ p.2.handleState = .retired := by rw [← keep, fresh]; decide
      simp only [fresh, if_true, List.filter_cons, beq_iff_eq, if_neg nr]
      exact ih
    · simp only [fresh, if_false, List.filter_cons, keep]
      split
      · simp only [List.map_cons]; rw [ih]
      · exact ih

theorem retiredHandles_clearDirty (s : State) : (clearDirty s).tbl.retiredHandles = s.tbl.retiredHandles :=
  retiredHandles_map (fun r => { r with pending := .none }) (fun _ => rfl) rfl

/-! ## The whole -/

/-- What a close has settled before the hold queue is disposed of: the table is that of `freeAllRetired`, and nothing has been
handed over or reported. -/
theorem closeStream_eq (r : Role) (s : State) (ho : s.mir.stream ≠ .closed) :
    ∃ w, closeStream r s = disposeHold r w ∧ w = { s with mir := mirClosed s.mir, tbl := w.tbl } ∧
      w.tbl = (freeAllRetired (clearDirty s)).tbl := by
  refine ⟨{ s with mir := mirClosed s.mir, tbl := (freeAllRetired (clearDirty s)).tbl }, ?_, rfl, rfl⟩
  unfold closeStream
  rw [if_neg ho]
  rfl

/-- A step that keeps the slots and the digest. -/
abbrev SameSlots (s t : State) : Prop :=
  t.tbl.slots = s.tbl.slots ∧ t.tbl.liveCount = s.tbl.liveCount ∧ t.tbl.digestSum = s.tbl.digestSum

theorem clearReleaseSeq_slots (e : HoldEntry) (s : State) : SameSlots s (clearReleaseSeq e s) := by
  unfold clearReleaseSeq
  simp only
  split <;> exact ⟨rfl, rfl, rfl⟩

theorem clearing_slots {f : State → HoldEntry → State} (hf : ∀ s e, (f s e).tbl = (clearReleaseSeq e s).tbl)
    (es : List HoldEntry) (s : State) : SameSlots s (es.foldl f s) := by
  induction es generalizing s with
  | nil => exact ⟨rfl, rfl, rfl⟩
  | cons e es ih =>
    have a := clearReleaseSeq_slots e s
    unfold SameSlots at a
    rw [← hf] at a
    have b := ih (f s e)
    exact ⟨b.1.trans a.1, b.2.1.trans a.2.1, b.2.2.trans a.2.2⟩

theorem disposeHold_slots (r : Role) (s : State) : SameSlots s (disposeHold r s) := by
  unfold disposeHold
  split
  · exact ⟨rfl, rfl, rfl⟩
  · split
    · exact clearing_slots (releaseHeld_tbl .holdRelFlush) _ { s with hold := s.hold.filter fun _ => !true }
    · have a := clearing_slots (f := fun t e => clearReleaseSeq e t) (fun _ _ => rfl) s.hold { s with hold := [] }
      simp only
      split <;> exact a

/-- A close keeps the slots and the digest. -/
theorem closeStream_slots (r : Role) (s : State) : SameSlots s (closeStream r s) := by
  by_cases c : s.mir.stream = .closed
  · unfold closeStream
    rw [if_pos c]
    exact ⟨rfl, rfl, rfl⟩
  · obtain ⟨w, e, -, tw⟩ := closeStream_eq r s c
    have sl := releaseAll_slots (clearDirty s).tbl.retiredHandles (clearDirty s).tbl
    have d := disposeHold_slots r w
    unfold SameSlots at d ⊢
    rw [tw] at d
    rw [e]
    exact ⟨d.1.trans sl.1, d.2.1.trans sl.2.1, d.2.2.trans sl.2.2⟩

/-- A close: the LIVE sessions stand with nothing pending and without the release_seq of a held frame, and what was RETIRED is
FREE (R39, R86). -/
theorem closeStream_records (r : Role) (s : State) (hs : sparseSorted s.tbl.records = true) (ho : s.mir.stream ≠ .closed) :
    freeHandles (closeStream r s).tbl.free = freeHandles s.tbl.free ++ s.tbl.retiredHandles ∧
    ∀ h, recordOf (closeStream r s) h =
      if (recordOf s h).handleState = .retired then { Record.fresh with epoch := (recordOf s h).epoch }
      else { recordOf s h with pending := .none, body := { (recordOf s h).body with
        releaseSeq := if (recordOf s h).handleState = .live ∧ (∃ e ∈ s.hold, e.handle = h ∧ e.epoch = (recordOf s h).epoch)
          then none else (recordOf s h).body.releaseSeq } } := by
  obtain ⟨w, e, ew, tw⟩ := closeStream_eq r s ho
  have hc : sparseSorted (clearDirty s).tbl.records = true := clearDirty_sorted s hs
  have hw : sparseSorted w.tbl.records = true := by
    rw [tw]; exact (record_releaseAll (clearDirty s).tbl.retiredHandles hc 0).1
  have d := disposeHold_sameTbl r w hw
  have hold : w.hold = s.hold := by rw [ew]
  rw [e]
  refine ⟨?_, fun h => ?_⟩
  · rw [d.free, tw, freeHandles_freeAllRetired hc, retiredHandles_clearDirty]
    rfl
  · have rw1 : recordOf w h = recordOf (freeAllRetired (clearDirty s)) h := by simp only [recordOf, tw]
    rw [recordOf_disposeHold r hw, hold, rw1, recordOf_freeAllRetired hc, recordOf_clearDirty hs]
    simp only
    by_cases ret : (recordOf s h).handleState = .retired
    · rw [if_pos ret, if_pos ret]
      simp [withoutSeq, freedRecord, Record.fresh]
    · rw [if_neg ret, if_neg ret]
      rfl

/-- What a close hands over and reports in an active role. -/
theorem closeStream_released (r : Role) (s : State) (ho : s.mir.stream ≠ .closed) (ha : r.isActive = true) :
    Adds ((s.hold.map HoldEntry.frame).take (128 - s.prt.wQueue.length)) []
      (portErrors 2 ((s.hold.map HoldEntry.frame).drop (128 - s.prt.wQueue.length))) [] 0#9
      (fun c => only .wTxDrop ((s.hold.map HoldEntry.frame).drop (128 - s.prt.wQueue.length)).length c +
        s.hold.length * (only .holdRelFlush 1 c + only .hitFwd 1 c)) s (closeStream r s) := by
  obtain ⟨w, e, ew, -⟩ := closeStream_eq r s ho
  have a := disposeHold_released r w ha
  rw [show w.hold = s.hold by rw [ew], show w.prt = s.prt by rw [ew]] at a
  rw [e]
  exact a.after (Adds.none (by rw [ew]) (by rw [ew]) (by rw [ew]; exact ⟨rfl, rfl⟩))

/-- What a close hands over and reports in another role. -/
theorem closeStream_dropped (r : Role) (s : State) (ho : s.mir.stream ≠ .closed) (ha : r.isActive = false) :
    Adds [] [] [] (discardErrors r s.hold) 0#9 (only .holdDropRole s.hold.length) s (closeStream r s) := by
  obtain ⟨w, e, ew, -⟩ := closeStream_eq r s ho
  have a := disposeHold_dropped r w ha
  rw [show w.hold = s.hold by rw [ew]] at a
  rw [e]
  exact a.after (Adds.none (by rw [ew]) (by rw [ew]) (by rw [ew]; exact ⟨rfl, rfl⟩))

theorem closeStream_mir (r : Role) (s : State) (ho : s.mir.stream ≠ .closed) :
    (closeStream r s).mir = mirClosed s.mir ∧ (closeStream r s).hold = [] := by
  obtain ⟨w, e, ew, -⟩ := closeStream_eq r s ho
  rw [e]
  exact ⟨(disposeHold_mir r w).trans (by rw [ew]), disposeHold_hold r w⟩

/-- All that a close of the OPEN stream does. -/
theorem closeStream_closed (r : Role) (s : State) (ho : s.mir.stream ≠ .closed) : StreamClosed r s (closeStream r s) where
  blocks := closeStream_touches r s
  mir := (closeStream_mir r s ho).1
  hold := (closeStream_mir r s ho).2
  slots := closeStream_slots r s
  free := fun hs => (closeStream_records r s hs ho).1
  records := fun hs h => (closeStream_records r s hs ho).2 h
  released := fun ha room => by
    have a := closeStream_released r s ho ha
    rw [List.take_of_length_le (by rw [List.length_map]; omega), List.drop_of_length_le (by rw [List.length_map]; omega)] at a
    refine ⟨by rw [a.prt]; simp, ?_, ?_, ?_⟩
    · rw [a.rest, a.note, a.loss, a.flags]
      simp [portErrors, loggedAfter, flagOf]
    · rw [a.count]; simp [only, Ctr.pos]
    · rw [a.count]; simp [only, Ctr.pos]
  dropped := fun ha => by
    have a := closeStream_dropped r s ho ha
    refine ⟨by rw [a.prt]; simp, ?_, ?_, ?_⟩
    · rw [a.count]; simp [only, Ctr.pos]
    · intro none
      have d : discardErrors r s.hold = [] := by
        unfold discardErrors
        rcases none with n | n
        · rw [n]
        · split
          · rfl
          · rw [if_pos n]
      rw [a.rest, a.note, a.loss, a.flags, d]
      simp [loggedAfter, flagOf]
    · intro e es hold nd
      rw [a.loss, a.flags, hold]
      simp [discardErrors, nd, loggedAfter, flagOf]
  counts := fun c hc => by
    have w := hc .wTxDrop (by decide)
    have x := hc .hitFwd (by decide)
    have y := hc .holdRelFlush (by decide)
    have z := hc .holdDropRole (by decide)
    cases ha : r.isActive
    · rw [(closeStream_dropped r s ho ha).count]
      simp [only, satAdd32_zero, Ne.symm z]
    · rw [(closeStream_released r s ho ha).count]
      simp [only, satAdd32_zero, Ne.symm w, Ne.symm x, Ne.symm y]

end Sys2Proof.Machine
end

