-- ==== Sys2Proof/Laws/RoleChange.lean ====
section
/-! SUPPORT. What a role change can do, said once: `changeRole_changed`. -/

-- One proof at a time: proofs that wait for earlier checks would each take a thread.
set_option Elab.async false

namespace Sys2Proof.Machine

open Sys2Proof.Safety

/-! ## The stream -/

theorem Role.mayStream_iff (r : Role) : r.mayStream = true ↔ r = .active ∨ r = .takeover ∨ r = .yielding := by
  cases r <;> decide

theorem streamAtChange_stays (r : Role) (s : State) (h : streamStays r s) : streamAtChange r s = s := by
  unfold streamAtChange
  split
  · rfl
  · rename_i m
    rcases h with h | h
    · unfold closeStream; rw [if_pos h]
    · exact absurd ((Role.mayStream_iff r).2 h) m

theorem streamAtChange_closes (r : Role) (s : State) (h : ¬ streamStays r s) :
    streamAtChange r s = closeStream r s ∧ s.mir.stream ≠ .closed := by
  have hm : ¬ r.mayStream = true := fun m => h (.inr ((Role.mayStream_iff r).1 m))
  exact ⟨by unfold streamAtChange; rw [if_neg hm], fun c => h (.inl c)⟩

/-- What the stream's part of a role change hands over and reports: its close releases the held frames in an active role and
discards them in another (R81, R86). -/
theorem streamAtChange_adds (r : Role) (s : State) :
    Adds (((heldReleased r s).map HoldEntry.frame).take (128 - s.prt.wQueue.length)) []
      (portErrors 2 (((heldReleased r s).map HoldEntry.frame).drop (128 - s.prt.wQueue.length)))
      (discardErrors r (heldDropped r s)) 0#9
      (fun c => only .wTxDrop (((heldReleased r s).map HoldEntry.frame).drop (128 - s.prt.wQueue.length)).length c +
        (heldReleased r s).length * (only .holdRelFlush 1 c + only .hitFwd 1 c) +
        only .holdDropRole (heldDropped r s).length c) s (streamAtChange r s) := by
  unfold heldReleased heldDropped
  by_cases st : streamStays r s
  · rw [streamAtChange_stays r s st, if_pos (.inl st), if_pos (.inl st)]
    exact (Adds.refl s).as (hn := by simp [portErrors]) (hl := by simp [discardErrors]) (hc := fun c => by simp [only])
  · obtain ⟨e, ho⟩ := streamAtChange_closes r s st
    rw [e]
    cases ha : r.isActive
    · simp only [st, false_or, if_true, Bool.false_eq_true, if_false]
      exact (closeStream_dropped r s ho ha).as (hn := by simp [portErrors]) (hc := fun c => by simp [only])
    · simp only [st, false_or, if_true, Bool.true_eq_false, if_false]
      exact (closeStream_released r s ho ha).as (hl := by simp [discardErrors]) (hc := fun c => by simp [only])

/-! ## What the other blocks hand over and report -/

theorem sendAnnouncement_adds (s : State) (z : Zone) :
    Adds ([announcement s.cfg z].take (128 - s.prt.wQueue.length)) []
      (portErrors 2 ([announcement s.cfg z].drop (128 - s.prt.wQueue.length))) [] 0#9
      (fun c => only .wTxDrop ([announcement s.cfg z].drop (128 - s.prt.wQueue.length)).length c + only .announceSent 1 c) s
      (sendAnnouncement s z) := ((handToW_adds (announcement s.cfg z) s).trans (bump_adds .announceSent _)).as

theorem sendAnnouncement_cfg (s : State) (z : Zone) : (sendAnnouncement s z).cfg = s.cfg := by
  unfold sendAnnouncement
  rw [bump_cfg]
  exact handToPort_touches .w _ s .cfg (by decide)

/-- A round: an announcement of each announcing zone, in order. -/
theorem sendRound_adds (s : State) :
    Adds (((announcingZones s.zones).map (announcement s.cfg)).take (128 - s.prt.wQueue.length)) []
      (portErrors 2 (((announcingZones s.zones).map (announcement s.cfg)).drop (128 - s.prt.wQueue.length))) [] 0#9
      (fun c => only .wTxDrop (((announcingZones s.zones).map (announcement s.cfg)).drop (128 - s.prt.wQueue.length)).length c +
        (announcingZones s.zones).length * only .announceSent 1 c) s (sendRound s) :=
  Adds.handing (P := fun u => u.cfg = s.cfg) (fun u z h => by rw [← h]; exact sendAnnouncement_adds u z)
    (fun u z h => (sendAnnouncement_cfg u z).trans h) _ s rfl

/-- TKO2 of a burst that a role change ends with rounds left. -/
def endedErrors (b : Role) (u : Burst) : List (ErrCode × ErrInfo) :=
  match u with
  | .idle => []
  | .running n _ => if b.isActive = true ∨ n = 0 then [] else [(.tko2, ErrInfo.ofSeq n)]

theorem endedErrors_active {b : Role} (h : b.isActive = true) (u : Burst) : endedErrors b u = [] := by
  unfold endedErrors
  split
  · rfl
  · rw [if_pos (.inl h)]

theorem burstAtChange_adds (a b : Role) (s : State) :
    Adds ((firstRound a b s).take (128 - s.prt.wQueue.length)) []
      (endedErrors b s.tko.burst ++ portErrors 2 ((firstRound a b s).drop (128 - s.prt.wQueue.length))) [] 0#9
      (fun c => only .wTxDrop ((firstRound a b s).drop (128 - s.prt.wQueue.length)).length c +
        only .announceSent (firstRound a b s).length c) s (burstAtChange a b s) := by
  unfold burstAtChange firstRound
  by_cases h : burstStarts a b
  · have act : b.isActive = true := by rcases h with h | ⟨_, h | h⟩ <;> rw [h] <;> rfl
    rw [if_pos (c := burstStarts a b) h, if_pos h, endedErrors_active act]
    unfold startBurst
    split
    · rename_i z
      rw [z]
      exact Adds.as (Adds.none rfl rfl ⟨rfl, rfl⟩) (hn := by simp [portErrors]) (hc := fun c => by simp [only])
    · exact Adds.as (Adds.before (sendRound_adds s) (Adds.none rfl rfl ⟨rfl, rfl⟩))
        (hc := fun c => by simp [only])
  · rw [if_neg (c := burstStarts a b) h, if_neg h]
    split
    · rename_i act
      rw [endedErrors_active act]
      exact (Adds.refl s).as (hn := by simp [portErrors]) (hc := fun c => by simp [only])
    · rename_i act
      unfold endBurst
      cases hb : s.tko.burst with
      | idle => exact Adds.as (Adds.refl s) (hn := by simp [portErrors, endedErrors]) (hc := fun c => by simp [only])
      | running n w =>
        simp only
        by_cases z : n = 0
        · rw [if_pos z]
          exact Adds.as (Adds.none rfl rfl ⟨rfl, rfl⟩) (hn := by simp [portErrors, endedErrors, z])
            (hc := fun c => by simp [only])
        · rw [if_neg z]
          exact Adds.as (Adds.after (report_note_adds .tko2 (ErrInfo.ofSeq n) _) (Adds.none rfl rfl ⟨rfl, rfl⟩))
            (hn := by simp [portErrors, endedErrors, z, act]) (hc := fun c => by simp [only])

/-- TKO1 of an entry to TAKEOVER from STANDBY_SYNC (R145). -/
def partialErrors (a b : Role) (s : State) : List (ErrCode × ErrInfo) :=
  if b = .takeover ∧ a = .standbySync then
    [(.tko1, { handle := none, place := if s.pai.primary.up then some 3 else if s.pai.secondary.up then some 4 else none,
               seq := some s.shd.expectedSeq.toNat, gen := none })]
  else []

theorem takeoverAtChange_adds (a b : Role) (s : State) :
    Adds [] [] [] (partialErrors a b s) 0#9
      (fun c => only .tkoEnter (if b = .takeover then 1 else 0) c +
        only .tkoPartial (if b = .takeover ∧ a = .standbySync then 1 else 0) c) s (takeoverAtChange a b s) := by
  unfold partialErrors
  by_cases hb : b = .takeover
  · have e : takeoverAtChange a b s = enterTakeover a s := by unfold takeoverAtChange; rw [if_pos hb]
    rw [e]
    by_cases ha : a = .standbySync
    · have x : AddsNothing s { s with
          pai := { s.pai with pairGen := laterGen s.pai.pairGen s.pai.peerGenSeen + 1#32 }
          tko := { s.tko with
            grace := .running (s.cfg.gracePeriod * 1000), tolerance := graceTolerance s.cfg } } := Adds.none rfl rfl ⟨rfl, rfl⟩
      unfold enterTakeover
      simp only [if_pos ha]
      refine Adds.as (Adds.trans (Adds.trans (Adds.after (bump_adds .tkoEnter _) x)
        (report_loss_adds .tko1 _ _)) (bump_adds .tkoPartial _)) (hl := ?_) (hc := fun c => by simp [hb, ha])
      have c : b = .takeover ∧ a = .standbySync := ⟨hb, ha⟩
      rw [if_pos c]
      simp only [bump_pai, bump_shd, peerPresent, governingPath, List.nil_append, List.append_nil, ErrInfo.none]
      by_cases p : s.pai.primary.up = true <;> by_cases q : s.pai.secondary.up = true <;> simp [p, q, pathPlace]
    · unfold enterTakeover
      simp only [if_neg ha]
      exact Adds.as (Adds.after (bump_adds .tkoEnter _) (Adds.none rfl rfl ⟨rfl, rfl⟩)) (hl := by simp [ha])
        (hc := fun c => by simp [hb, ha, only])
  · have e : takeoverAtChange a b s = { s with tko := { s.tko with grace := .stopped, tolerance := 0 } } := by
      unfold takeoverAtChange; rw [if_neg hb]
    rw [e]
    exact Adds.as (Adds.none rfl rfl ⟨rfl, rfl⟩) (hl := by simp [hb]) (hc := fun c => by simp [hb, only])

/-- The flags of a path that a change to DETACHED takes down (R126, R128). -/
def downFlags (b : Role) (s : State) : BitVec 9 :=
  if b = .detached ∧ (s.pai.primary.up = true ∨ s.pai.secondary.up = true) then Flag.path.bitmap ||| Flag.peer.bitmap else 0#9

theorem detachAtChange_adds (b : Role) (s : State) :
    Adds [] [] [] [] (downFlags b s) (fun _ => 0) s (detachAtChange b s) := by
  unfold downFlags
  by_cases hb : b = .detached
  · obtain ⟨d, e, none, down⟩ : ∃ d, detachAtChange b s = watchPeer s (if peerPresent s then raise .path d else d) ∧
        AddsNothing s d ∧ peerPresent d = false :=
      ⟨{ s with pai := { s.pai with
            primary := s.pai.primary.down, secondary := s.pai.secondary.down, helloTimer := .stopped, peerActiveSeen := false } },
        by unfold detachAtChange; rw [if_pos hb], Adds.none rfl rfl ⟨rfl, rfl⟩, rfl⟩
    have unusable : peerUsable d = false := by simp only [peerUsable, down, Bool.false_and]
    rw [e]
    unfold watchPeer
    by_cases up : s.pai.primary.up = true ∨ s.pai.secondary.up = true
    · have present : peerPresent s = true := by simpa [peerPresent] using up
      have c : b = .detached ∧ (s.pai.primary.up = true ∨ s.pai.secondary.up = true) := ⟨hb, up⟩
      rw [if_pos c, if_pos present, if_neg]
      · exact (((raise_adds .path d).after none).trans (raise_adds .peer _)).as
      · rintro ⟨p, -⟩
        rw [present] at p
        exact absurd (p.trans down) (by decide)
    · have absent : peerPresent s = false := by simpa [peerPresent] using up
      have c : ¬ (b = .detached ∧ (s.pai.primary.up = true ∨ s.pai.secondary.up = true)) := fun x => up x.2
      have n : ¬ peerPresent s = true := by rw [absent]; decide
      rw [if_neg c, if_neg n, if_pos]
      · exact none
      · exact ⟨absent.trans down.symm, by simp only [peerUsable, absent, Bool.false_and, down]⟩
  · have e : detachAtChange b s = s := by unfold detachAtChange; rw [if_neg hb]
    rw [e, if_neg (fun x => hb x.1)]
    exact Adds.refl s

/-! ## The pairing controller, the shadow receiver, the takeover unit -/

theorem standbyAtChange_pai (a b : Role) (c : Cause) (s : State) :
    (standbyAtChange a b c s).pai =
      if a.isStandby = false ∧ b.isStandby = true then { s.pai with peerActiveSeen := c.sawActive } else s.pai := by
  unfold standbyAtChange
  cases ha : a.isStandby <;> cases hb : b.isStandby <;> simp [leaveStandby, enterStandby, dropStandbyFields]

theorem standbyAtChange_shd (a b : Role) (c : Cause) (s : State) : (standbyAtChange a b c s).shd = shdAfter a b s := by
  unfold standbyAtChange shdAfter
  cases ha : a.isStandby <;> cases hb : b.isStandby <;> simp [leaveStandby, enterStandby, dropStandbyFields]
  cases b <;> cases a <;> simp_all [Role.isStandby, Role.isActive]

theorem takeoverAtChange_pai (a b : Role) (s : State) :
    (takeoverAtChange a b s).pai =
      if b = .takeover then { s.pai with pairGen := laterGen s.pai.pairGen s.pai.peerGenSeen + 1#32 } else s.pai := by
  unfold takeoverAtChange
  split
  · unfold enterTakeover
    simp only
    split <;> rfl
  · rfl

theorem takeoverAtChange_tko (a b : Role) (s : State) :
    (takeoverAtChange a b s).tko = { s.tko with
      grace := if b = .takeover then .running (s.cfg.gracePeriod * 1000) else .stopped
      tolerance := if b = .takeover then graceTolerance s.cfg else 0 } := by
  unfold takeoverAtChange
  split
  · unfold enterTakeover
    simp only
    split <;> rfl
  · rfl

theorem detachAtChange_pai (b : Role) (s : State) :
    (detachAtChange b s).pai =
      if b = .detached then { s.pai with
        primary := s.pai.primary.down, secondary := s.pai.secondary.down, helloTimer := .stopped, peerActiveSeen := false }
      else s.pai := by
  unfold detachAtChange
  split
  · simp only
    rw [watchPeer_touches s _ .pai (by decide)]
    split <;> rfl
  · rfl

theorem sendHello_pai (s : State) :
    (sendHello s).pai = if s.pai.role = .detached then s.pai else { s.pai with helloTimer := .running s.cfg.helloInterval } := by
  unfold sendHello
  split
  · rfl
  · simp only
    have p : ∀ x y : List Byte, (sendMirror .secondary x (sendMirror .primary y s)).pai = s.pai := fun x y =>
      (sendMirror_touches .secondary x _ .pai (by decide)).trans (sendMirror_touches .primary y s .pai (by decide))
    have c : ∀ x y : List Byte, (sendMirror .secondary x (sendMirror .primary y s)).cfg = s.cfg := fun x y =>
      (sendMirror_touches .secondary x _ .cfg (by decide)).trans (sendMirror_touches .primary y s .cfg (by decide))
    simp only [p, c]

theorem startBurst_burst (s : State) :
    (startBurst s).tko = { s.tko with burst :=
      (if announcingZones s.zones = [] ∨ s.cfg.announceCount ≤ 1 then Burst.idle
       else Burst.running (s.cfg.announceCount - 1) (.running s.cfg.announceSpacing)) } := by
  unfold startBurst
  split
  · rename_i h; simp [h]
  · rename_i h
    have t : (sendRound s).tko = s.tko := sendRound_touches s .tko (by decide)
    have c : (sendRound s).cfg = s.cfg := sendRound_touches s .cfg (by decide)
    simp only [t, c, burstAfter]
    by_cases n : s.cfg.announceCount ≤ 1
    · rw [if_pos (by omega), if_pos (.inr n)]
    · rw [if_neg (by omega), if_neg (by rintro (x | x) <;> contradiction)]

theorem endBurst_tko (s : State) : (endBurst s).tko = { s.tko with burst := .idle } := by
  unfold endBurst
  split
  · rename_i h; rw [← h]
  · simp only
    split <;> rfl

theorem keepaliveAtChange_keepalive (b : Role) (s : State) :
    (keepaliveAtChange b s).flt =
      { s.flt with keepalive := if b = .detached ∨ b = .faulted then .stopped else s.flt.keepalive } := by
  unfold keepaliveAtChange
  cases b <;> rfl

theorem patrolAtChange_tim (b : Role) (s : State) :
    (patrolAtChange b s).tim = { s.tim with patrolDue := s.tim.patrolDue && b.isActive } := by
  unfold patrolAtChange
  split
  · rename_i h; rw [h, Bool.and_true]
  · rename_i h
    have f : b.isActive = false := by simpa using h
    rw [f, Bool.and_false]

/-! ## The hello of a role change -/

theorem buildHello_eq {s t : State} (hp : t.pai = s.pai) (hs : t.shd = s.shd) (hc : t.cfg = s.cfg) (hz : t.zones = s.zones)
    (hl : t.tbl.liveCount = s.tbl.liveCount) : buildHello t = buildHello s := by
  simp only [buildHello, hp, hs, hc, hz, hl]

theorem mirrorFrame_eq {s t : State} (p : PathId) (b : List Byte) (hc : t.cfg = s.cfg) (hm : t.prt.peerMac = s.prt.peerMac) :
    mirrorFrame p b t = mirrorFrame p b s := by
  cases p <;> simp only [mirrorFrame, mirrorDst, hc, hm]

/-- A hello sent: on the S-port, and on the tunnel when it is on (R122). -/
theorem sendHello_adds (s : State) :
    Adds ((helloOn .secondary s.pai.role s).take (128 - s.prt.wQueue.length))
      ((helloOn .primary s.pai.role s).take (80 - s.prt.sQueue.length))
      (portErrors 3 ((helloOn .primary s.pai.role s).drop (80 - s.prt.sQueue.length)) ++
        portErrors 2 ((helloOn .secondary s.pai.role s).drop (128 - s.prt.wQueue.length))) [] 0#9
      (fun c => only .sTxDrop ((helloOn .primary s.pai.role s).drop (80 - s.prt.sQueue.length)).length c +
        only .wTxDrop ((helloOn .secondary s.pai.role s).drop (128 - s.prt.wQueue.length)).length c) s (sendHello s) := by
  unfold sendHello helloOn
  by_cases d : s.pai.role = .detached
  · simp only [d, true_or, if_true]
    exact (Adds.refl s).as (hn := by simp [portErrors]) (hc := fun c => by simp [only])
  · simp only [d, false_or, if_false, reduceCtorEq, false_and, true_and]
    generalize hb : helloBytes (buildHello s) = b
    have a := handToS_adds (mirrorFrame .primary b s) s
    have e1 : sendMirror .primary b s = handToPort .s (mirrorFrame .primary b s) s := rfl
    rw [← e1] at a
    have hc : (sendMirror .primary b s).cfg = s.cfg := sendMirror_touches .primary b s .cfg (by decide)
    have hm : (sendMirror .primary b s).prt.peerMac = s.prt.peerMac := by rw [a.prt]
    have hw : (sendMirror .primary b s).prt.wQueue = s.prt.wQueue := by rw [a.prt, List.append_nil]
    have f := mirrorFrame_eq (s := s) .secondary b hc hm
    generalize sendMirror .primary b s = u at a hc hm hw f
    have w : Adds ((if s.cfg.tunnelEnable = false then [] else [mirrorFrame .secondary b s]).take (128 - s.prt.wQueue.length)) []
        (portErrors 2
          ((if s.cfg.tunnelEnable = false then [] else [mirrorFrame .secondary b s]).drop (128 - s.prt.wQueue.length))) [] 0#9
        (only .wTxDrop
          ((if s.cfg.tunnelEnable = false then [] else [mirrorFrame .secondary b s]).drop (128 - s.prt.wQueue.length)).length)
        u (sendMirror .secondary b u) := by
      simp only [sendMirror]
      rw [hc]
      cases s.cfg.tunnelEnable
      · exact (Adds.refl u).as (hn := by simp [portErrors]) (hc := fun c => by simp [only])
      · have x := handToW_adds (mirrorFrame .secondary b u) u
        rw [f, hw] at x
        simpa only [Bool.true_eq_false, if_false, if_true, f] using x
    exact Adds.as (Adds.before (a.trans w) (Adds.none rfl rfl ⟨rfl, rfl⟩))

/-! ## The table -/

theorem standbyAtChange_sameTbl (a b : Role) (c : Cause) (s : State) (hs : sparseSorted s.tbl.records = true) :
    SameTbl s (standbyAtChange a b c s) := by
  unfold standbyAtChange
  split
  · exact SameTbl.of_eq hs rfl
  · split
    · exact (dropStandbyFields_sameTbl s hs).trans (SameTbl.of_eq (dropStandbyFields_sorted s hs) rfl)
    · exact SameTbl.of_eq hs rfl


theorem recordOf_standbyAtChange (a b : Role) (c : Cause) {s : State} (hs : sparseSorted s.tbl.records = true) (h : Nat) :
    recordOf (standbyAtChange a b c s) h = if (recordOf s h).handleState = .live ∧ entersStandby a b
      then { recordOf s h with body := { (recordOf s h).body with mirrored := none, releaseSeq := none } }
      else recordOf s h := by
  have e : recordOf (dropStandbyFields s) h = if (recordOf s h).handleState = .live
      then { recordOf s h with body := { (recordOf s h).body with mirrored := none, releaseSeq := none } }
      else recordOf s h :=
    recordOf_map
      (fun r => if r.handleState = .live then { r with body := { r.body with mirrored := none, releaseSeq := none } } else r)
      (by decide) hs (by unfold dropStandbyFields; rfl) h
  unfold standbyAtChange entersStandby
  cases ha : a.isStandby <;> cases hb : b.isStandby <;> simp [leaveStandby, enterStandby, recordOf] at e ⊢
  exact e

theorem retiredHandles_standbyAtChange (a b : Role) (c : Cause) (s : State) :
    (standbyAtChange a b c s).tbl.retiredHandles = s.tbl.retiredHandles := by
  unfold standbyAtChange
  split
  · rfl
  · split
    · exact retiredHandles_map
        (fun r => if r.handleState = .live then { r with body := { r.body with mirrored := none, releaseSeq := none } } else r)
        (fun r => by split <;> rfl) rfl
    · rfl

/-! ## The whole -/

theorem sawActive_iff (c : Cause) :
    c.sawActive = decide (c ∈ [Cause.peerActive, .peerTakeover, .dualActive, .dualTakeover]) := by
  cases c <;> decide

/-- All that a role change does (R139). -/
theorem changeRole_changed (to_ : Role) (cause : Cause) (s : State) :
    RoleChanged s.pai.role to_ cause s (changeRole to_ cause s) := by
  have blocks := changeRole_touches to_ cause s
  unfold changeRole at blocks ⊢
  simp only at blocks ⊢
  generalize e0 : addHistory s.pai.role to_ cause { s with pai := { s.pai with role := to_ } } = s0 at blocks ⊢
  generalize e1 : raise .role s0 = s1 at blocks ⊢
  generalize e2 : standbyAtChange s.pai.role to_ cause s1 = s2 at blocks ⊢
  generalize e3 : streamAtChange to_ s2 = s3 at blocks ⊢
  generalize e4 : yieldAtChange to_ (listenAtChange to_ s3) = s4 at blocks ⊢
  generalize e5 : takeoverAtChange s.pai.role to_ s4 = s5 at blocks ⊢
  generalize e6 : burstAtChange s.pai.role to_ s5 = s6 at blocks ⊢
  generalize e7 : keepaliveAtChange to_ s6 = s7 at blocks ⊢
  generalize e8 : patrolAtChange to_ s7 = s8 at blocks ⊢
  generalize e9 : detachAtChange to_ s8 = s9 at blocks ⊢
  -- the frames of the stages
  have f2 := standbyAtChange_touches s.pai.role to_ cause s1
  have f3 := streamAtChange_touches to_ s2
  have f4 : Touches [.pai] s3 s4 := by rw [← e4]; exact (listenAtChange_touches to_ s3).then (yieldAtChange_touches to_ _)
  have f5 := takeoverAtChange_touches s.pai.role to_ s4
  have f6 := burstAtChange_touches s.pai.role to_ s5
  have f7 := keepaliveAtChange_touches to_ s6
  have f8 := patrolAtChange_touches to_ s7
  have f9 := detachAtChange_touches to_ s8
  have f10 := sendHello_touches s9
  rw [e2] at f2; rw [e3] at f3; rw [e5] at f5; rw [e6] at f6; rw [e7] at f7; rw [e8] at f8; rw [e9] at f9
  have c1 : s1.cfg = s.cfg := by rw [← e1, ← e0]; rfl
  have c2 : s2.cfg = s.cfg := (f2 .cfg (by decide)).trans c1
  have c3 : s3.cfg = s.cfg := (f3 .cfg (by decide)).trans c2
  have c4 : s4.cfg = s.cfg := (f4 .cfg (by decide)).trans c3
  have c5 : s5.cfg = s.cfg := (f5 .cfg (by decide)).trans c4
  have c6 : s6.cfg = s.cfg := (f6 .cfg (by decide)).trans c5
  have c7 : s7.cfg = s.cfg := (f7 .cfg (by decide)).trans c6
  have c8 : s8.cfg = s.cfg := (f8 .cfg (by decide)).trans c7
  have c9 : s9.cfg = s.cfg := (f9 .cfg (by decide)).trans c8
  have z1 : s1.zones = s.zones := by rw [← e1, ← e0]; rfl
  have z5 : s5.zones = s.zones := (f5 .zones (by decide)).trans ((f4 .zones (by decide)).trans ((f3 .zones (by decide)).trans
    ((f2 .zones (by decide)).trans z1)))
  have z9 : s9.zones = s.zones := (f9 .zones (by decide)).trans ((f8 .zones (by decide)).trans ((f7 .zones (by decide)).trans
    ((f6 .zones (by decide)).trans z5)))
  -- the pairing controller
  have p1 : s1.pai = { s.pai with
      role := to_
      history := (s.pai.history ++ [RoleRecord.mk s.pai.role to_ cause s.tim.seconds s.tim.ms]).drop
        (s.pai.history.length + 1 - 8) } := by
    rw [← e1, ← e0]
    simp [addHistory, Config.historyRoom]
  have p2 := standbyAtChange_pai s.pai.role to_ cause s1
  rw [e2] at p2
  have p3 : s3.pai = s2.pai := f3 .pai (by decide)
  have p4 : s4.pai = { s3.pai with
      listenTimer := if to_ = .listen then .running (s.cfg.helloInterval * s.cfg.deadMultiplier) else .stopped
      drainTimer := if to_ = .yielding then .running s.cfg.yieldDrainLimit else .stopped
      yieldFlag := false } := by
    rw [← e4]; simp only [yieldAtChange, listenAtChange, deadInterval, c3]
  have p5 := takeoverAtChange_pai s.pai.role to_ s4
  rw [e5] at p5
  have p8 : s8.pai = s5.pai := (f8 .pai (by decide)).trans ((f7 .pai (by decide)).trans (f6 .pai (by decide)))
  have p9 := detachAtChange_pai to_ s8
  rw [e9] at p9
  have p10 := sendHello_pai s9
  have role9 : s9.pai.role = to_ := by
    rw [p9]; split <;> (try simp only) <;> rw [p8, p5] <;> split <;> (try simp only) <;> rw [p4] <;> simp only <;> rw [p3, p2] <;>
      split <;> (try simp only) <;> rw [p1]
  have pai : (sendHello s9).pai = paiAfter s.pai.role to_ cause s := by
    rw [p10, role9, c9, p9, p8, p5, p4, p3, p2, p1]
    unfold paiAfter
    rw [← sawActive_iff]
    generalize s.pai.role.isStandby = a
    cases to_ <;> cases a <;> rfl
  -- the shadow receiver, the clock
  have shd2 := standbyAtChange_shd s.pai.role to_ cause s1
  rw [e2] at shd2
  have shd9 : s9.shd = s2.shd := (f9 .shd (by decide)).trans ((f8 .shd (by decide)).trans ((f7 .shd (by decide)).trans
    ((f6 .shd (by decide)).trans ((f5 .shd (by decide)).trans ((f4 .shd (by decide)).trans (f3 .shd (by decide)))))))
  have shd1 : s1.shd = s.shd := by rw [← e1, ← e0]; rfl
  have shd : (sendHello s9).shd = shdAfter s.pai.role to_ s := by
    rw [f10 .shd (by decide), shd9, shd2]; simp only [shdAfter, shd1]
  have tim7 : s7.tim = s.tim := (f7 .tim (by decide)).trans ((f6 .tim (by decide)).trans ((f5 .tim (by decide)).trans
    ((f4 .tim (by decide)).trans ((f3 .tim (by decide)).trans ((f2 .tim (by decide)).trans (by rw [← e1, ← e0]; rfl))))))
  have tim8 := patrolAtChange_tim to_ s7
  rw [e8] at tim8
  have tim : (sendHello s9).tim = { s.tim with patrolDue := s.tim.patrolDue && to_.isActive } := by
    rw [f10 .tim (by decide), f9 .tim (by decide), tim8, tim7]
  -- the stream
  have mir2 : s2.mir = s.mir := (f2 .mir (by decide)).trans (by rw [← e1, ← e0]; rfl)
  have hold2 : s2.hold = s.hold := (f2 .hold (by decide)).trans (by rw [← e1, ← e0]; rfl)
  have mir9 : (sendHello s9).mir = s3.mir := (f10 .mir (by decide)).trans ((f9 .mir (by decide)).trans
    ((f8 .mir (by decide)).trans ((f7 .mir (by decide)).trans ((f6 .mir (by decide)).trans ((f5 .mir (by decide)).trans
      (f4 .mir (by decide)))))))
  have hold9 : (sendHello s9).hold = s3.hold := (f10 .hold (by decide)).trans ((f9 .hold (by decide)).trans
    ((f8 .hold (by decide)).trans ((f7 .hold (by decide)).trans ((f6 .hold (by decide)).trans ((f5 .hold (by decide)).trans
      (f4 .hold (by decide)))))))
  have tbl9 : (sendHello s9).tbl = s3.tbl := (f10 .tbl (by decide)).trans ((f9 .tbl (by decide)).trans
    ((f8 .tbl (by decide)).trans ((f7 .tbl (by decide)).trans ((f6 .tbl (by decide)).trans ((f5 .tbl (by decide)).trans
      (f4 .tbl (by decide)))))))
  have stays2 : streamStays to_ s2 ↔ streamStays to_ s := by unfold streamStays; rw [mir2]
  -- the takeover unit
  have tko4 : s4.tko = s.tko := (f4 .tko (by decide)).trans ((f3 .tko (by decide)).trans ((f2 .tko (by decide)).trans
    (by rw [← e1, ← e0]; rfl)))
  have tko5 := takeoverAtChange_tko s.pai.role to_ s4
  rw [e5, tko4, c4] at tko5
  have tko9 : (sendHello s9).tko = s6.tko := (f10 .tko (by decide)).trans ((f9 .tko (by decide)).trans
    ((f8 .tko (by decide)).trans (f7 .tko (by decide))))
  -- the path and the report unit
  have a1 : Adds [] [] [] [] Flag.role.bitmap (fun _ => 0) s s1 := by
    rw [← e1]
    exact (raise_adds .role s0).after (by rw [← e0]; exact Adds.none rfl rfl ⟨rfl, rfl⟩)
  have a2 : AddsNothing s1 s2 := Adds.touching f2
  have a3 := streamAtChange_adds to_ s2
  rw [e3] at a3
  have a4 : AddsNothing s3 s4 := Adds.touching f4
  have a5 := takeoverAtChange_adds s.pai.role to_ s4
  rw [e5] at a5
  have a6 := burstAtChange_adds s.pai.role to_ s5
  rw [e6] at a6
  have flt7 := keepaliveAtChange_keepalive to_ s6
  rw [e7] at flt7
  have a8 : AddsNothing s7 s8 := by
    rw [← e8]; unfold patrolAtChange; split
    · exact Adds.refl s7
    · exact Adds.none rfl rfl ⟨rfl, rfl⟩
  have a9 := detachAtChange_adds to_ s8
  rw [e9] at a9
  have a10 := sendHello_adds s9
  -- the states in between agree with s in what their sums speak of
  have prt2 : s2.prt = s.prt := (f2 .prt (by decide)).trans (by rw [← e1, ← e0]; rfl)
  have hr : heldReleased to_ s2 = heldReleased to_ s := by unfold heldReleased streamStays; rw [mir2, hold2]
  have hd : heldDropped to_ s2 = heldDropped to_ s := by unfold heldDropped streamStays; rw [mir2, hold2]
  have hp : partialErrors s.pai.role to_ s4 = partialErrors s.pai.role to_ s := by
    unfold partialErrors
    have shd4 : s4.shd = s2.shd := (f4 .shd (by decide)).trans (f3 .shd (by decide))
    by_cases c : to_ = .takeover ∧ s.pai.role = .standbySync
    · have up : s4.pai.primary = s.pai.primary ∧ s4.pai.secondary = s.pai.secondary := by
        rw [p4, p3, p2, p1]
        simp only [c.1, c.2]
        exact ⟨rfl, rfl⟩
      have seq : s4.shd.expectedSeq = s.shd.expectedSeq := by
        rw [shd4, shd2]
        simp only [shdAfter, shd1, c.1, c.2]
        rfl
      rw [if_pos c, if_pos c, up.1, up.2, seq]
    · rw [if_neg c, if_neg c]
  have hb : s5.tko.burst = s.tko.burst := by rw [tko5]
  have hf : firstRound s.pai.role to_ s5 = firstRound s.pai.role to_ s := by unfold firstRound; rw [z5, c5]
  have hu : downFlags to_ s8 = downFlags to_ s := by
    have up : s8.pai.primary = s.pai.primary ∧ s8.pai.secondary = s.pai.secondary := by
      rw [p8, p5, p4, p3, p2, p1]
      constructor <;> split <;> (try split) <;> rfl
    unfold downFlags
    rw [up.1, up.2]
  rw [hr, hd, prt2] at a3
  rw [hp] at a5
  rw [hb, hf] at a6
  have a15 := (((a1.trans a2).trans a3).trans a4).trans a5
  have w5 : s5.prt.wQueue.length = s.prt.wQueue.length +
      (((heldReleased to_ s).map HoldEntry.frame).take (128 - s.prt.wQueue.length)).length := by rw [a15.prt]; simp
  rw [w5] at a6
  have a16 : Adds ((toWPort s.pai.role to_ s).take (128 - s.prt.wQueue.length)) []
      (endedErrors to_ s.tko.burst ++ portErrors 2 (wPortDrops s.pai.role to_ s)) (lossErrors s.pai.role to_ s)
      Flag.role.bitmap
      (fun c => only .wTxDrop (wPortDrops s.pai.role to_ s).length c +
        (heldReleased to_ s).length * (only .holdRelFlush 1 c + only .hitFwd 1 c) +
        only .holdDropRole (heldDropped to_ s).length c + only .tkoEnter (if to_ = .takeover then 1 else 0) c +
        only .tkoPartial (if to_ = .takeover ∧ s.pai.role = .standbySync then 1 else 0) c +
        only .announceSent (firstRound s.pai.role to_ s).length c) s s6 := by
    refine (a15.trans a6).as ?_ rfl ?_ ?_ (by simp) fun c => ?_
    · simpa [toWPort] using take_then ((heldReleased to_ s).map HoldEntry.frame) (firstRound s.pai.role to_ s) s.prt.wQueue.length 128
    · have d := drop_then ((heldReleased to_ s).map HoldEntry.frame) (firstRound s.pai.role to_ s) s.prt.wQueue.length 128
      simp only [wPortDrops, toWPort, ← d, portErrors, List.map_append, List.nil_append, List.append_nil]
      cases act : to_.isActive
      · have n : heldReleased to_ s = [] := by unfold heldReleased; rw [if_pos (.inr act)]
        simp [n]
      · simp [endedErrors_active act]
    · simp only [List.nil_append, List.append_nil]
      rfl
    · have d := congrArg List.length
        (drop_then ((heldReleased to_ s).map HoldEntry.frame) (firstRound s.pai.role to_ s) s.prt.wQueue.length 128)
      rw [List.length_append] at d
      simp only [wPortDrops, toWPort, ← d, ← only_add]
      omega
  have w9 : s9.prt.wQueue.length = s.prt.wQueue.length +
      ((toWPort s.pai.role to_ s).take (128 - s.prt.wQueue.length)).length := by
    rw [(a8.trans a9).prt, show s7.prt = s6.prt from f7 .prt (by decide), a16.prt]; simp
  have q9 : s9.prt.sQueue = s.prt.sQueue := by
    rw [(a8.trans a9).prt, show s7.prt = s6.prt from f7 .prt (by decide), a16.prt]; simp
  have hh : ∀ path, helloOn path to_ s9 = helloOn path to_ (sendHello s9) := fun path => by
    have fc : (sendHello s9).cfg = s9.cfg := f10 .cfg (by decide)
    have pm : (sendHello s9).prt.peerMac = s9.prt.peerMac := by rw [a10.prt]
    have b : buildHello (sendHello s9) = buildHello s9 := by
      have fs : (sendHello s9).shd = s9.shd := f10 .shd (by decide)
      have fz : (sendHello s9).zones = s9.zones := f10 .zones (by decide)
      have ft : (sendHello s9).tbl = s9.tbl := f10 .tbl (by decide)
      simp only [buildHello, p10, fs, fc, fz, ft]
      split <;> rfl
    unfold helloOn
    rw [b, fc, mirrorFrame_eq path _ fc pm]
  rw [role9, hh .primary, hh .secondary, w9, q9] at a10
  rw [hu] at a9
  generalize et : sendHello s9 = t at *
  have back : withKeepalive s6.flt.keepalive s7 = s6 := by
    rw [← e7]; unfold keepaliveAtChange; split <;> rfl
  have a710 := ((a8.trans a9).trans a10).keepalive s6.flt.keepalive
  rw [back] at a710
  have all : Adds ((toWPort s.pai.role to_ s ++ helloOn .secondary to_ t).take (128 - s.prt.wQueue.length))
      ((helloOn .primary to_ t).take (80 - s.prt.sQueue.length)) (noteErrors s.pai.role to_ s t) (lossErrors s.pai.role to_ s)
      (Flag.role.bitmap ||| downFlags to_ s) (roleCounts s.pai.role to_ s t) s (withKeepalive s6.flt.keepalive t) := by
    have td : tunnelDrops s.pai.role to_ s t = (helloOn .secondary to_ t).drop
        (128 - (s.prt.wQueue.length + ((toWPort s.pai.role to_ s).take (128 - s.prt.wQueue.length)).length)) := by
      unfold tunnelDrops
      rw [List.length_take]
      congr 1
      omega
    refine (a16.trans a710).as ?_ ?_ ?_ ?_ ?_ fun c => ?_
    · simpa using take_then (toWPort s.pai.role to_ s) (helloOn .secondary to_ t) s.prt.wQueue.length 128
    · simp
    · rw [← td]
      simp only [noteErrors, endedErrors, portErrors, sPortDrops, List.nil_append, List.append_assoc] <;> rfl
    · simp
    · simp
    · rw [← td]
      cases c <;> simp [only, Ctr.pos, roleCounts, sPortDrops]
  apply RoleChanged.mk blocks pai shd tim
  · intro st
    have e := streamAtChange_stays to_ s2 (stays2.2 st)
    rw [e3] at e
    exact ⟨by rw [mir9, e, mir2], by rw [hold9, e, hold2]⟩
  · intro st
    obtain ⟨e, ho⟩ := streamAtChange_closes to_ s2 (fun h => st (stays2.1 h))
    rw [e3] at e
    have m := closeStream_mir to_ s2 ho
    exact ⟨by rw [mir9, e, m.1, mir2], by rw [hold9, e, m.2]⟩
  · have b6 : s6.tko = if burstStarts s.pai.role to_ then { s5.tko with burst :=
          (if announcingZones s.zones = [] ∨ s.cfg.announceCount ≤ 1 then Burst.idle
           else Burst.running (s.cfg.announceCount - 1) (.running s.cfg.announceSpacing)) }
        else if to_.isActive then s5.tko else { s5.tko with burst := .idle } := by
      rw [← e6]; unfold burstAtChange
      by_cases h : burstStarts s.pai.role to_
      · rw [if_pos (c := burstStarts s.pai.role to_) h, if_pos h, startBurst_burst, z5, c5]
      · rw [if_neg (c := burstStarts s.pai.role to_) h, if_neg h]
        split
        · rfl
        · exact endBurst_tko s5
    refine ⟨?_, ?_, ?_, ?_, ?_⟩
    · rw [tko9, b6, tko5]; split
      · rfl
      · split <;> rfl
    · rw [tko9, b6, tko5]; split
      · rfl
      · split <;> rfl
    · intro h; rw [tko9, b6, if_pos h]
    · intro h a; rw [tko9, b6, if_neg h, if_pos a, tko5]
    · intro a
      have n : ¬ burstStarts s.pai.role to_ := by
        unfold burstStarts
        rintro (h | ⟨_, h | h⟩) <;> (rw [h] at a; cases a)
      rw [tko9, b6, if_neg n, if_neg (by rw [a]; decide)]
  · intro hs
    have hs1 : sparseSorted s1.tbl.records = true := by rw [← e1, ← e0]; exact hs
    have t1 : s1.tbl = s.tbl := by rw [← e1, ← e0]; rfl
    have st2 := standbyAtChange_sameTbl s.pai.role to_ cause s1 hs1
    have rec2 := recordOf_standbyAtChange s.pai.role to_ cause hs1
    have ret2 := retiredHandles_standbyAtChange s.pai.role to_ cause s1
    rw [e2] at st2 rec2 ret2
    have r1 : ∀ h, recordOf s1 h = recordOf s h := fun h => by simp only [recordOf, t1]
    have r9 : ∀ h, recordOf t h = recordOf s3 h := fun h => by simp only [recordOf, tbl9]
    by_cases st : streamStays to_ s
    · have e := streamAtChange_stays to_ s2 (stays2.2 st)
      rw [e3] at e
      refine ⟨by rw [tbl9, e, st2.slots, t1], by rw [tbl9, e, st2.digest.1, st2.digest.2, t1]; exact ⟨rfl, rfl⟩, ?_, fun h => ?_⟩
      · rw [tbl9, e, st2.free, t1, if_pos st, List.append_nil]
      · rw [r9, e, rec2, r1]
        simp only [st, not_true_eq_false, false_and, if_false, if_true, or_false]
        split <;> rfl
    · obtain ⟨e, ho⟩ := streamAtChange_closes to_ s2 (fun h => st (stays2.1 h))
      rw [e3] at e
      have sl := closeStream_slots to_ s2
      have re := closeStream_records to_ s2 st2.sorted ho
      rw [← e] at sl re
      refine ⟨by rw [tbl9, sl.1, st2.slots, t1], ?_, ?_, fun h => ?_⟩
      · rw [tbl9, sl.2.1, sl.2.2, st2.digest.1, st2.digest.2, t1]; exact ⟨rfl, rfl⟩
      · rw [tbl9, re.1, st2.free, ret2, t1, if_neg st]
      · rw [r9, re.2, rec2, r1, hold2]
        simp only [st, not_false_eq_true, true_and, if_false]
        by_cases c : (recordOf s h).handleState = .live ∧ entersStandby s.pai.role to_
        · simp only [if_pos c]
          simp [c.1, c.2.1, c.2.2]
        · have k : ∀ P : Prop, ((recordOf s h).handleState = .live ∧ (entersStandby s.pai.role to_ ∨ P)) =
              ((recordOf s h).handleState = .live ∧ P) := fun P =>
            propext ⟨fun x => ⟨x.1, x.2.resolve_left fun e => c ⟨x.1, e⟩⟩, fun x => ⟨x.1, .inr x.2⟩⟩
          simp only [if_neg c, k]
  · exact all.prt
  · have f := all.flags
    rw [← BitVec.or_assoc] at f
    exact f
  · exact all.note
  · exact all.loss
  · have r := all.rest
    have k := (a8.trans (a9.trans a10)).rest
    have k' : t.flt.keepalive = s7.flt.keepalive := by rw [k]
    have k6 : s6.flt.keepalive = s.flt.keepalive := by rw [a16.rest]
    rw [flt7, k6] at k'
    have r' : t.flt = { (withKeepalive s6.flt.keepalive t).flt with keepalive := t.flt.keepalive } := rfl
    rw [r, k'] at r'
    exact r'
  · exact all.count

end Sys2Proof.Machine
end

