-- ==== Sys2Proof/Laws/Ticks.lean ====
section
/-! SUPPORT. What a tick makes due: when an event acts and when it changes nothing, what each can touch, and that taking all of
them leaves the clock and the queues as they were. -/

-- One proof at a time: proofs that wait for earlier checks would each take a thread.
set_option Elab.async false

namespace Sys2Proof.Machine

open Sys2Proof.Safety

/-! ## One event -/

/-- A due event acts while the clock is RUNNING (R155). -/
theorem atTick_acts {d : State → Bool} {s : State} (r : s.tim.running = true) (h : d s = true) (f : State → State) :
    atTick d f s = event f s := by
  unfold atTick event
  rw [whenDue_true (by rw [r, h]; rfl)]

/-- An event that is not due changes nothing, and neither does any while the clock is HALTED (R155). -/
theorem atTick_rests {d : State → Bool} {s : State} (h : s.tim.running = false ∨ d s = false) (f : State → State) :
    atTick d f s = s := by
  have w : whenDue (s.tim.running && d s) f s = s := whenDue_false (by rcases h with h | h <;> rw [h] <;> simp) f s
  unfold atTick
  rw [event_quiet (by rw [w]), w]

/-! ## What each event can touch -/

theorem patrolEvent_touches (s : State) : Touches eventBlocks s (patrolEvent s) := atTick_touches _ _ s (patrolStep_touches s)

theorem holdEvent_touches (s : State) : Touches (.hold :: .tbl :: noticeBlocks) s (holdEvent s) :=
  atTick_touches _ _ s (holdExpired_touches s)

theorem holdEvents_touches (s : State) : Touches (.hold :: .tbl :: noticeBlocks) s (holdEvents s) :=
  Touches.foldl (fun t _ => holdEvent_touches t) s.hold s

theorem coalesceEvent_touches (s : State) : Touches (.notice :: streamBlocks) s (coalesceEvent s) :=
  atTick_touches _ _ s (closeFrame_touches s)

theorem replayEvent_touches (s : State) : Touches (.pai :: .notice :: streamBlocks) s (replayEvent s) :=
  atTick_touches _ _ s (replayExpired_touches s)

theorem revertEvent_touches (s : State) : Touches (.mir :: noticeBlocks) s (revertEvent s) :=
  atTick_touches _ _ s (revertExpired_touches s)

theorem ackEvent_touches (s : State) : Touches (.shd :: noticeBlocks) s (ackEvent s) := atTick_touches _ _ s (sendAck_touches _ _ s)

theorem helloEvent_touches (s : State) : Touches (.pai :: noticeBlocks) s (helloEvent s) :=
  atTick_touches _ _ s (sendHello_touches s)

theorem deadEvent_touches (path : PathId) (s : State) : Touches eventBlocks s (deadEvent path s) :=
  atTick_touches _ _ s (pathDown_touches path s)

theorem listenEvent_touches (s : State) : Touches eventBlocks s (listenEvent s) := atTick_touches _ _ s (changeRole_touches _ _ s)

theorem drainEvent_touches (s : State) : Touches (.pai :: noticeBlocks) s (drainEvent s) :=
  atTick_touches _ _ s (drainExpired_touches s)

theorem graceEvent_touches (s : State) : Touches eventBlocks s (graceEvent s) := atTick_touches _ _ s (changeRole_touches _ _ s)

theorem spacingEvent_touches (s : State) : Touches (.tko :: noticeBlocks) s (spacingEvent s) :=
  atTick_touches _ _ s (nextRound_touches s)

theorem keepaliveEvent_touches (s : State) : Touches eventBlocks s (keepaliveEvent s) :=
  atTick_touches _ _ s (keepaliveExpired_touches s)

theorem holdoffEvent_touches (s : State) : Touches noticeBlocks s (holdoffEvent s) := atTick_touches _ _ s (holdoffExpired_touches s)

/-! ## All of them -/

/-- Each of the events that a tick can make due touches what a role change and a notice can. -/
theorem tickEvents_touch (e : State → State) (h : e ∈ tickEvents) (s : State) : Touches eventBlocks s (e s) := by
  simp only [tickEvents, List.mem_cons, List.not_mem_nil, or_false] at h
  rcases h with rfl | rfl | rfl | rfl | rfl | rfl | rfl | rfl | rfl | rfl | rfl | rfl | rfl | rfl | rfl
  · exact patrolEvent_touches s
  · exact (holdEvents_touches s).mono
  · exact (coalesceEvent_touches s).mono
  · exact (replayEvent_touches s).mono
  · exact (revertEvent_touches s).mono
  · exact (ackEvent_touches s).mono
  · exact (helloEvent_touches s).mono
  · exact deadEvent_touches .primary s
  · exact deadEvent_touches .secondary s
  · exact listenEvent_touches s
  · exact (drainEvent_touches s).mono
  · exact graceEvent_touches s
  · exact (spacingEvent_touches s).mono
  · exact keepaliveEvent_touches s
  · exact (holdoffEvent_touches s).mono

/-- A relation that is reflexive and transitive and that each event meets is met by all of them together: one induction for
every claim about what the end of a tick keeps. -/
theorem endTick_induct {R : State → State → Prop} (refl : ∀ s, R s s) (trans : ∀ {s t u}, R s t → R t u → R s u)
    (each : ∀ e ∈ tickEvents, ∀ s, R s (e s)) (s : State) : R s (endTick s) := by
  unfold endTick
  generalize tickEvents = es at each
  induction es generalizing s with
  | nil => exact refl s
  | cons e es ih => exact trans (each e (by simp) s) (ih (e s) fun e h => each e (by simp [h]))

/-- What a tick made due touches no configuration, no queue of requests, and not the clock (R152). -/
theorem endTick_touches (s : State) : Touches eventBlocks s (endTick s) :=
  endTick_induct (R := Touches eventBlocks) Touches.refl Touches.trans tickEvents_touch s

/-- The clock at the end of a tick is the clock as it was. -/
theorem endTick_clock (s : State) : (endTick s).tim.running = s.tim.running ∧ (endTick s).tim.acc = s.tim.acc ∧
    (endTick s).tim.increment = s.tim.increment ∧ (endTick s).tim.ms = s.tim.ms ∧
    (endTick s).tim.seconds = s.tim.seconds := by
  have h : clockOf (endTick s).tim = clockOf s.tim := endTick_touches s .clock (by decide)
  simpa [clockOf] using h

/-- While the clock is HALTED each event changes nothing. -/
theorem tickEvents_halted (e : State → State) (h : e ∈ tickEvents) (s : State) (r : s.tim.running = false) : e s = s := by
  simp only [tickEvents, List.mem_cons, List.not_mem_nil, or_false] at h
  rcases h with rfl | rfl | rfl | rfl | rfl | rfl | rfl | rfl | rfl | rfl | rfl | rfl | rfl | rfl | rfl
  case inr.inl =>
    unfold holdEvents
    generalize s.hold = l
    induction l with
    | nil => rfl
    | cons x l ih => rw [List.foldl_cons, show holdEvent s = s from atTick_rests (.inl r) _]; exact ih
  all_goals exact atTick_rests (.inl r) _

/-- While the clock is HALTED nothing that a tick made due is taken (R155). -/
theorem endTick_halted (s : State) (r : s.tim.running = false) : endTick s = s := by
  unfold endTick
  have h := tickEvents_halted
  generalize tickEvents = es at h
  induction es with
  | nil => rfl
  | cons e es ih => rw [List.foldl_cons, h e (by simp) s r]; exact ih fun e m => h e (by simp [m])

theorem clockTick_touches (s : State) : Touches (.clock :: eventBlocks) s (clockTick s) := by
  unfold clockTick nextTick
  split
  · exact ((endTick_touches s).mono).trans (Touches.trans Touches.fields ((tick_touches _).mono))
  · exact Touches.refl s

/-- The agent's queue is not touched by what a tick made due, so a halt that waits still waits. -/
theorem haltWaits_endTick (s : State) : haltWaits (endTick s) = haltWaits s := by
  unfold haltWaits
  rw [show (endTick s).mgtQueue = s.mgtQueue from endTick_touches s .mgtQueue (by decide)]

end Sys2Proof.Machine
end

