-- ==== Sys2Proof/Tests/Slice0.lean ====
section
/-! SUPPORT. The package's own tests: the well-formedness smoke test, the worked cases of the spec, and for each obligation
with hypotheses a concrete state and operands that meet them, at the boundary values of its clauses. -/

namespace Sys2Proof.Tests

open Sys2Proof.Machine Sys2Proof.Safety

-- One proof at a time: a `decide` waits for every earlier declaration's check, and many waiting at once take a thread each.
set_option Elab.async false

/-! ## Well-formedness -/

/-- A frame of three bytes whose FCS is called right. -/
def stub : RxFrame := { bytes := [1#8, 2#8, 3#8], fcsGood := true }

theorem test_wf_refuses_a_stub_on_each_port :
    (Instr.pPortFrameReceive stub).wf = false ∧ (Instr.wPortFrameReceive stub).wf = false ∧
      (Instr.sPortFrameReceive stub).wf = false := by decide

theorem test_wf_accepts_four_bytes : (Instr.pPortFrameReceive { stub with bytes := 0#8 :: stub.bytes }).wf = true := by decide

theorem test_no_row_has_bits : decodeTableWord 0 0 = none ∧ decodeTableWord 32 5 = none ∧
    State.reset.withFetchWord 32 5 = State.reset := ⟨rfl, rfl, rfl⟩

/-! ## The worked cases -/

/-- Zone 0 of worked case 1.8. -/
def zoneA : Zone := { enabled := true, announce := true, vlan := 10, mac := 0x02B000000010#48, ip := 0xC6336407#32 }

/-- Zone 1 of worked case 1.8. -/
def zoneB : Zone := { enabled := true, announce := true, vlan := 20, mac := 0x02B000000011#48, ip := 0xC0A80101#32 }

/-- The keys of worked case 1.8, for a protocol. -/
def origKey (proto : Byte) : Key :=
  { zone := 1#8, proto := proto, srcAddr := 0xC0A80132#32, srcPort := 40000#16, dstAddr := 0xCB007109#32, dstPort := 53#16 }

def replyKey (proto : Byte) : Key :=
  { zone := 0#8, proto := proto, srcAddr := 0xCB007109#32, srcPort := 53#16, dstAddr := 0xC6336407#32, dstPort := 61000#16 }

/-- The hash seed of the worked case of 2.4. -/
def seed : Word16 := 0x3A7C#16

/-- Worked case of 2.4. -/
theorem test_buckets_of_one_session :
    bucketOf seed (origKey 17#8) = 15635 ∧ bucketOf seed (replyKey 17#8) = 9026 ∧
      (Tbl.cleared.insertKeys seed (origKey 17#8) (replyKey 17#8) 0).map Prod.snd = some (62540, 36104) := by decide +kernel

/-- The IPv4 and UDP headers of worked case 1.8 with the UDP checksum given, 61 bytes in all. -/
def udpPacket (sum : Word16) : List Byte :=
  bytes16 0x4500#16 ++ bytes16 0x003D#16 ++ bytes16 0x1C46#16 ++ bytes16 0x4000#16 ++ bytes16 0x4011#16 ++ bytes16 0x2086#16 ++
    bytes32 0xC0A80132#32 ++ bytes32 0xCB007109#32 ++ bytes16 40000#16 ++ bytes16 53#16 ++ nat16 41 ++ bytes16 sum ++ zeros 33

/-- The body of the session of worked case 1.8. -/
def flowBody : Body :=
  { Body.cleared with
    state := .flow, origKey := origKey 17#8, replyKey := replyKey 17#8, nextHopOrig := 0x02A000000001#48
    nextHopReply := 0x02A000000032#48, flowClass := some 4 }

/-- Worked case 1.8: the header checksum 0x2086 becomes 0xB925, the UDP checksum 0x5A3C becomes 0x9FD3, 0xBA68 becomes
0xFFFF and 0x0000 stays; the addresses, the ports and the TTL are those of the table. -/
theorem test_one_frame_rewritten :
    let out := fun (sum : Word16) => rewritePacket (udpPacket sum) (translation flowBody .orig)
    word16At (out 0x5A3C#16) 10 = 0xB925#16 ∧ word16At (out 0x5A3C#16) 26 = 0x9FD3#16 ∧ word16At (out 0xBA68#16) 26 = 0xFFFF#16 ∧
      word16At (out 0#16) 26 = 0#16 ∧ word16At (out 0x5A3C#16) 8 = 0x3F11#16 ∧ word32At (out 0x5A3C#16) 12 = 0xC6336407#32 ∧
      word32At (out 0x5A3C#16) 16 = 0xCB007109#32 ∧ word16At (out 0x5A3C#16) 20 = 61000#16 := by decide +kernel

/-- The last case of 1.8. -/
theorem test_one_word_alone : adjustWord 0xB1E6#16 0xC0A8#16 0xCB00#16 = 0xA78E#16 := by decide

/-- The sums of 2.8. -/
theorem test_digest_sums :
    digestTerm 5 1#16 + digestTerm 9 3#16 = 917508#32 ∧
      digestTerm 5 1#16 + digestTerm 9 3#16 - digestTerm 9 3#16 + digestTerm 9 4#16 = 917509#32 ∧
      digestTerm 32767 65535#16 = 2147483647#32 := by decide

/-- A segment of the worked cases of chapter 3. -/
def segment (seq ack : Nat) (window : Nat) (syn hasAck fin : Bool) (payload : Nat) (options : List Byte) : Segment :=
  { seq := BitVec.ofNat 32 seq, ack := BitVec.ofNat 32 ack, window := BitVec.ofNat 16 window, hasSyn := syn, hasAck := hasAck,
    hasFin := fin, hasRst := false, payload := payload, options := options }

/-- The body that a segment leaves, when it is accepted. -/
def accepted : Verdict → Option Body
  | .accept b _ => some b
  | .refuse _ => none
  | .reopen => none

/-- The SYN of worked case 3.8: MSS, SACK permitted, timestamps, a NOP, window scale 7. -/
def syn38 : Segment :=
  segment 1000000 0 64240 true false false 0
    ([2#8, 4#8, 5#8, 0xB4#8, 4#8, 2#8, 8#8, 10#8] ++ zeros 8 ++ [1#8, 3#8, 3#8, 7#8])

/-- The NEW session of worked case 3.8. -/
def new38 : Body := { flowBody with state := .new, flowClass := none, dirOrig := (seedNew syn38).1 }

/-- The SYN+ACK and the ACK of worked case 3.8. -/
def synAck38 : Segment := segment 3000000000 1000001 65160 true true false 0 [3#8, 3#8, 7#8, 0#8]

def ack38 : Segment := segment 1000001 3000000001 502 false true false 0 []

/-- Worked case 3.8. -/
theorem test_handshake :
    let b1 := accepted (judgeTcp new38 .reply synAck38 0 60 0#32)
    let b2 := b1.bind fun b => accepted (judgeTcp b .orig ack38 0 40 0#32)
    new38.dirOrig.hiSeq = 1000001#32 ∧ new38.dirOrig.wscale = 7#4 ∧ new38.dirOrig.edgeValid = false ∧
      b1.map (fun b => (b.state, b.dirReply.rightEdge, b.dirReply.maxWin)) = some (.halfOpen, 1065161#32, 65160#32) ∧
      b2.map (fun b => (b.state, b.dirOrig.rightEdge, b.dirOrig.maxWin)) = some (.opened, 3000064257#32, 64256#32) ∧
      (b1.map fun b => judgeTcp b .reply (segment 3000000001 1000001 502 false true false 10 []) 0 50 0#32) =
        some (.refuse .trkRefState) := by decide +kernel

/-- The OPEN session of worked case 3.9, with its scale of 7 in both directions. -/
def open39 : Body :=
  { flowBody with
    state := .opened, origKey := origKey 6#8, replyKey := replyKey 6#8, flowClass := none, lastSeen := 86371#32
    dirOrig := { seeded := true, hiSeq := 4294960000#32, hiAck := 1000000#32, rightEdge := 1262144#32, edgeValid := true,
                 maxWin := 262144#32, wscale := 7#4, scaleOffered := true, finEnd := none }
    dirReply := { seeded := true, hiSeq := 1000800#32, hiAck := 4294955000#32, rightEdge := 53240#32, edgeValid := true,
                  maxWin := 65536#32, wscale := 7#4, scaleOffered := true, finEnd := none }
    mirrored := some { hiSeqOrig := 4294900000#32, rightOrig := 1262144#32, hiSeqReply := 1000800#32, rightReply := 53240#32,
                       seen := 86371#32 } }

/-- The session after it. -/
def wrapped : Option Body := accepted (judgeTcp open39 .orig (segment 4294966000 1000500 2048 false true false 1460 []) 0 1500 86400#32)

/-- Worked case 3.9, with the criterion that is met. -/
theorem test_sequence_wrap :
    wrapped.map (fun b => (b.dirOrig.hiSeq, b.dirOrig.hiAck, b.dirOrig.rightEdge, b.lastSeen)) =
        some (164#32, 1000500#32, 1262644#32, 86400#32) ∧
      wrapped.map (fun b => updateDue ConfigRec.default (open39.mirrored.getD (mirroredOf b)) open39 b) = some true := by
  decide +kernel

/-- Worked case 3.10: the segment that tolerance 0 refuses and tolerance 131,072 accepts. -/
theorem test_after_takeover :
    let g := segment 100000 1040000 2048 false true false 1460 []
    wrapped.map (fun b => judgeTcp b .orig g 0 1500 0#32) = some (.refuse .trkRefRight) ∧
      (wrapped.bind fun b => (accepted (judgeTcp b .orig g 131072 1500 0#32)).map fun b => (b.dirOrig.hiSeq, b.dirOrig.rightEdge)) =
        some (101460#32, 1302144#32) := by decide +kernel

/-- The session of worked case 3.11 before its first FIN. -/
def open311 : Body :=
  { open39 with
    dirOrig := { open39.dirOrig with hiSeq := 180000#32, hiAck := 1200000#32, rightEdge := 1462144#32 }
    dirReply := { open39.dirReply with hiSeq := 1200000#32, hiAck := 180000#32, rightEdge := 245536#32 } }

/-- Worked case 3.11: the states after each segment, and the SYN that reopens. -/
theorem test_closing_and_reopening :
    let b1 := accepted (judgeTcp open311 .reply (segment 1200000 180000 512 false true true 0 []) 0 40 0#32)
    let b2 := b1.bind fun b => accepted (judgeTcp b .orig (segment 180000 1200001 2048 false true false 0 []) 0 40 0#32)
    let b3 := b2.bind fun b => accepted (judgeTcp b .orig (segment 180000 1200001 2048 false true true 0 []) 0 40 0#32)
    let b4 := b3.bind fun b => accepted (judgeTcp b .reply (segment 1200001 180001 512 false true false 0 []) 0 40 0#32)
    [b1, b2, b3, b4].map (fun b => b.map fun b => (b.state, b.finOrder)) =
        [some (.drainOne, some .reply), some (.drainOne, some .reply), some (.drainBoth, some .reply), some (.linger, some .reply)] ∧
      b4.map (fun b => judgeTcp b .orig (segment 7 0 512 true false false 0 []) 0 40 4#32) = some .reopen := by decide +kernel

/-- The zones of the worked cases. -/
def zones : Vector Zone 8 :=
  #v[zoneA, zoneB, Zone.default, Zone.default, Zone.default, Zone.default, Zone.default, Zone.default]

/-- The entry sizes of R167 are those of the entries. -/
theorem test_entry_sizes :
    [Object.config, .zones, .timeouts, .session, .status, .counters, .errlog, .pairing, .clock].map
        (fun o => (entryBytes o 0 State.reset).length) = [128, 16, 4, 128, 8, 4, 32, 640, 16] := by decide +kernel

/-- Worked case of 9.1: with the default increment the first tick comes with the 25,000th cycle. -/
theorem test_first_tick : cyclesToTick Tim.reset = 25000 := by decide

theorem test_zone_digest : zoneDigest zones = 2264491273#32 := by decide +kernel

/-! ## States and operands for the witnesses -/

/-- A configured part with nothing waiting on its P-port. -/
def part : State :=
  { State.reset with
    cfg := { ConfigRec.default with stationMac := 0x020000000101#48, stationId := 1, tunnelEnable := true, hashSeed := seed }
    zones := zones
    prt := { State.reset.prt with pQueue := [] } }

/-- A state in a role. -/
def inRole (r : Role) (s : State) : State := { s with pai := { s.pai with role := r } }

/-- A state with a request waiting. -/
def queued (f : Frame) (s : State) : State := { s with mgtQueue := [f] }

/-- A frame received with a good FCS. -/
def rx (f : Frame) : RxFrame := { bytes := f ++ zeros 4, fcsGood := true }

/-- A management request. -/
def request (cmd obj idx cnt mode span clear : Nat) (payload : List Byte) : Frame :=
  etherFrame 0x020000000101#48 0x020000000099#48 0x88B5#16
    (nat16 1 ++ [nat8 cmd, nat8 obj] ++ nat16 idx ++ [nat8 cnt, nat8 mode, nat8 span, nat8 clear] ++ nat16 payload.length ++
      zeros 4 ++ payload)

/-- A CONTROL request. -/
def control (action arg : Nat) : Frame := request 6 0 0 0 0 0 0 ([nat8 action, 0#8, 0#8, 0#8] ++ nat32 arg)

/-- A mirror frame from the peer. -/
def mirror (payload : List Byte) : Frame :=
  padTo 60 (etherFrame 0x020000000101#48 0x020000000102#48 0x88B6#16 payload)

/-- The record of handle 0 with a body, and the table with that session alone, its keys where the worked case of 2.4 puts
them. -/
def record0 (b : Body) : Record :=
  { handleState := .live, epoch := 1#16, pending := .none, removalReason := none, slotOrig := 62540, slotReply := 36104
    anchorGood := true, body := b, bodyGood := true }

def tableOf (r : Record) : Tbl :=
  { records := [(0, r)]
    slots := [(36104, { key := replyKey 17#8, handle := 0, dir := .reply, keyGood := true, refGood := true }),
              (62540, { key := origKey 17#8, handle := 0, dir := .orig, keyGood := true, refGood := true })]
    free := [{ first := 1, count := 32767 }], liveCount := 1, digestSum := 1#32 }

/-- A part with the session of worked case 1.8 on handle 0. -/
def one (role : Role) : State := { inRole role part with tbl := tableOf (record0 flowBody) }

/-- The bucket of a TCP key differs: the table with the session of worked case 3.9 on handle 0. -/
def tcpSlots : Nat × Nat := (bucketOf seed (origKey 6#8) * 4, bucketOf seed (replyKey 6#8) * 4)

def tcpOne (b : Body) (role : Role) : State :=
  { inRole role part with
    tbl := { (tableOf { record0 b with slotOrig := tcpSlots.1, slotReply := tcpSlots.2 }) with
      slots := sparsePut (sparsePut [] tcpSlots.1
        { key := origKey 6#8, handle := 0, dir := .orig, keyGood := true, refGood := true }) tcpSlots.2
        { key := replyKey 6#8, handle := 0, dir := .reply, keyGood := true, refGood := true } } }

/-- A state whose stream is open on the primary path. -/
def streaming (s : State) : State :=
  { s with
    mir := { s.mir with stream := .opened, dataPath := some .primary }
    pai := { s.pai with primary := { s.pai.primary with up := true } } }

/-- A state that takes a running clock. -/
def clocked (acc ms : Nat) (s : State) : State :=
  { s with tim := { s.tim with running := true, acc := BitVec.ofNat 32 acc, ms := ms } }

/-! ## Meeting the terms of Safety -/

theorem passes_rx (f : Frame) (lo : 60 ≤ f.length) (hi : f.length ≤ 1518) : Passes (rx f) f := by
  refine ⟨rfl, ?_, ?_, ?_⟩ <;> simp [rx, zeros] <;> omega

theorem waiting_queued (f : Frame) (s : State) (h : (readRequest f).length ≤ (readRequest f).rest) :
    Waiting (queued f s) (readRequest f) [] := ⟨f, rfl, rfl, h⟩

theorem commanded_queued (a : Byte) (f : Frame) (s : State) (h : (readRequest f).length ≤ (readRequest f).rest)
    (hc : (readRequest f).command = 6 ∧ (readRequest f).length = 8 ∧ (readRequest f).payload.head? = some a) :
    Commanded a (queued f s) (readRequest f) [] := ⟨waiting_queued f s h, hc⟩

theorem brings_mirror (s : State) (m : List Byte) (lo : 60 ≤ (mirror m).length) (hi : (mirror m).length ≤ 1518)
    (hm : word16At (mirror m) 12 ≠ 0x8100#16 ∧ word16At (mirror m) 12 = s.cfg.mirrorEthertype) :
    BringsMirror s (rx (mirror m)) ((mirror m).drop 14) := ⟨mirror m, passes_rx _ lo hi, hm.1, hm.2, rfl⟩

/-- A mirror frame from the peer as it arrives through the tunnel. -/
def through (payload : List Byte) : Frame :=
  padTo 60 (taggedFrame 0x020000000101#48 0x020000000102#48 0#3 false 4094 0x88B6#16 payload)

/-- The two paths, the command that brings a message by each, and the message as it arrives there with its padding. -/
def paths : List PathId := [.primary, .secondary]

def bringing (path : PathId) (m : List Byte) : Instr :=
  match path with
  | .primary => .sPortFrameReceive (rx (mirror m))
  | .secondary => .wPortFrameReceive (rx (through m))

def brought (path : PathId) (m : List Byte) : List Byte :=
  match path with | .primary => (mirror m).drop 14 | .secondary => (through m).drop 18

/-- The conditions of `Arrives` as a check. -/
def arrivesCheck (path : PathId) (m : List Byte) (s : State) : Bool :=
  match path with
  | .primary => decide (60 ≤ (mirror m).length ∧ (mirror m).length ≤ 1518 ∧
      word16At (mirror m) 12 ≠ 0x8100#16 ∧ word16At (mirror m) 12 = s.cfg.mirrorEthertype)
  | .secondary => decide (60 ≤ (through m).length ∧ (through m).length ≤ 1518 ∧
      classW s (through m) = .tunnelMirror ∧ (headerOf s (through m)).off = 18)

theorem arrives_of_check {path : PathId} {m : List Byte} {s : State} (h : arrivesCheck path m s = true) :
    Arrives path s (bringing path m) (brought path m) := by
  cases path with
  | primary =>
    have h := of_decide_eq_true h
    exact ⟨_, rfl, brings_mirror s m h.1 h.2.1 h.2.2⟩
  | secondary =>
    have h := of_decide_eq_true h
    exact ⟨_, _, rfl, passes_rx _ h.1 h.2.1, h.2.2.1, by rw [h.2.2.2]; rfl⟩

/-- The condition of `slotsIntact` as a check. -/
def intactCheck (s : State) (k : Key) : Bool :=
  (keyPositions s.cfg.hashSeed k).all fun p => match s.tbl.slot p with
    | none => true
    | some sl => sl.keyGood && sl.refGood

theorem slotsIntact_of_check (s : State) (k : Key) (h : intactCheck s k = true) : slotsIntact s k := by
  intro p hp sl hs
  have := List.all_eq_true.mp h p hp
  simpa [hs] using this

theorem misses_of_check (s : State) (k : Key) (h : intactCheck s k = true ∧ s.tbl.findKey s.cfg.hashSeed k = none) :
    Misses s k := ⟨slotsIntact_of_check s k h.1, h.2⟩

theorem finds_of_check (s : State) (k : Key) (h : Nat) (d : Dir) (hi : intactCheck s k = true)
    (hr : (recordOf s h).anchorGood = true ∧ (recordOf s h).bodyGood = true)
    (hf : (s.tbl.findKey s.cfg.hashSeed k).map (fun sl => (sl.handle, sl.dir)) = some (h, d)) : Finds s k h d := by
  obtain ⟨sl, hs, he⟩ := Option.map_eq_some_iff.mp hf
  exact ⟨slotsIntact_of_check s k hi, hr, sl, hs, congrArg Prod.fst he, congrArg Prod.snd he⟩

/-! ## The whole machine (O1 to O10) -/

theorem witness_front : ({ State.reset with pending := [.clockTick] } : State).pending = .clockTick :: [] := rfl

/-- A cycle without a carry, a cycle whose sum is exactly 2^32, a halted clock, a tick. -/
theorem witness_cycle :
    let quiet := clocked (4294967295 - 171799) 998 State.reset
    let carry := clocked (4294967296 - 171799) 999 State.reset
    (quiet.pending = [] ∧ quiet.tim.running = true ∧ quiet.tim.acc.toNat + quiet.tim.increment < 2 ^ 32) ∧
      (carry.pending = [] ∧ carry.tim.running = true ∧ 2 ^ 32 ≤ carry.tim.acc.toNat + carry.tim.increment) ∧
      (State.reset.pending = [] ∧ State.reset.tim.running = false) ∧ 0 < carry.tim.increment := by decide

theorem witness_touches : exec .clockTick State.reset = .next State.reset := rfl

/-- A running clock with nothing due, so that the end of its tick changes nothing. -/
theorem witness_nothing_due :
    ∀ c ∈ [Instr.patrolStep, .holdTimeout] ++ expiryCommands, exec c (clocked 0 0 part) = .next (clocked 0 0 part) := by
  intro c hc
  fin_cases hc <;> rfl

theorem one_record (h : Nat) (hh : h ≠ 0) : (one .active).tbl.record h = Record.fresh := by
  simp [one, tableOf, Tbl.record, sparseFind, hh]

theorem one_slot (pos : Nat) (sl : Slot) (hs : (one .active).tbl.slot pos = some sl) :
    (pos = 36104 ∧ sl = { key := replyKey 17#8, handle := 0, dir := .reply, keyGood := true, refGood := true }) ∨
      (pos = 62540 ∧ sl = { key := origKey 17#8, handle := 0, dir := .orig, keyGood := true, refGood := true }) := by
  simp only [one, tableOf, Tbl.slot, sparseFind] at hs
  split at hs
  · exact .inl ⟨‹_›, (Option.some.inj hs).symm⟩
  · split at hs
    · cases hs
    · split at hs
      · exact .inr ⟨‹_›, (Option.some.inj hs).symm⟩
      · split at hs <;> cases hs

theorem witness_table_law : TableLaw (one .active).tbl where
  sorted := by decide
  runs := by unfold runsGood; decide
  free_iff h hh := by
    by_cases h0 : h = 0
    · subst h0; simp [one, tableOf, freeHandles, Tbl.record, sparseFind, record0]
    · rw [one_record h h0]
      have : Config.handles = 32768 := rfl
      simp [one, tableOf, freeHandles, List.mem_range'_1, Record.fresh]
      omega
  used h hh := by
    rw [one_record h (by have : Config.handles = 32768 := rfl; omega)]; rfl
  nodup := by simp [one, tableOf, freeHandles, List.nodup_range']
  count := by decide
  digest := by decide

theorem witness_slot_law : SlotLaw (one .active).tbl where
  sorted := by decide
  range pos sl hs := by
    have : Config.keySlots = 65568 := rfl
    rcases one_slot pos sl hs with ⟨rfl, -⟩ | ⟨rfl, -⟩ <;> omega
  names pos sl hs := by
    rcases one_slot pos sl hs with ⟨rfl, rfl⟩ | ⟨rfl, rfl⟩ <;> decide
  orig h hl := by
    by_cases h0 : h = 0
    · subst h0; exact ⟨_, rfl, rfl, rfl, rfl⟩
    · rw [one_record h h0] at hl; cases hl
  reply h hl := by
    by_cases h0 : h = 0
    · subst h0; exact ⟨_, rfl, rfl, rfl, rfl⟩
    · rw [one_record h h0] at hl; cases hl

theorem witness_key_law : KeyLaw (one .active) where
  placed pos sl hs := by
    rcases one_slot pos sl hs with ⟨rfl, rfl⟩ | ⟨rfl, rfl⟩ <;> decide +kernel
  once p q a b ha hb hk := by
    rcases one_slot p a ha with ⟨rfl, rfl⟩ | ⟨rfl, rfl⟩ <;> rcases one_slot q b hb with ⟨rfl, rfl⟩ | ⟨rfl, rfl⟩ <;>
      first | rfl | exact absurd hk (by decide)
  detached h := by cases h

/-- The clauses of `Safe` as a check. -/
def safeCheck (s : State) : Bool := decide (
  (s.prt.pQueue.length ≤ 64 ∧ s.prt.wQueue.length ≤ 128 ∧ s.prt.sQueue.length ≤ 80 ∧ s.mgtQueue.length ≤ 8) ∧
  (s.pai.role ≠ .takeover → s.tko.tolerance = 0 ∧ s.tko.grace = .stopped) ∧
  (s.mir.stream = .closed → s.mir.replay = [] ∧ s.mir.openFrame = none ∧ s.mir.dirty = [] ∧ s.hold = [] ∧ s.mir.dataPath = none) ∧
  (s.mir.stream = .opened → s.pai.role.mayStream = true) ∧
  (s.mir.replay.length ≤ 64 ∧ (s.mir.openFrame ≠ none → s.mir.replay.length < 64)) ∧ s.hold.length ≤ 48 ∧
  (s.shd.refresh.length ≤ 16 ∧ s.shd.refresh.Nodup ∧
    (s.pai.role.isStandby = false → s.shd.refresh = [] ∧ s.shd.bulkWanted = false)) ∧
  (s.pai.role ≠ .yielding → s.pai.yieldFlag = false ∧ s.pai.drainTimer = .stopped) ∧
  (s.pai.role.isActive = false → s.tko.burst = .idle) ∧ (s.pai.role.keepaliveRuns = false → s.flt.keepalive = .stopped) ∧
  s.pai.history.length ≤ 8)

theorem safe_of_check (s : State) (h : safeCheck s = true) : Safe s := by
  obtain ⟨q, tol, qu, st, re, ho, rf, y, b, k, hi⟩ := of_decide_eq_true h
  exact ⟨q, tol, qu, st, re, ho, rf, y, b, k, hi⟩

theorem witness_safe : Safe (one .active) := safe_of_check _ (by decide)

/-- The stream OPEN with the session pending UPDATE: on the dirty list, its frame held. -/
theorem witness_queue_law :
    let s := streaming (one .active)
    QueueLaw { s with
      tbl := tableOf { record0 flowBody with pending := .update }
      mir := { s.mir with dirty := [0] }
      hold := [{ handle := 0, epoch := 1#16, frame := [], timer := .running 5, releaseSeq := none }] } := by
  have other : ∀ h, h ≠ 0 → (tableOf { record0 flowBody with pending := .update }).record h = Record.fresh := fun h hh => by
    simp [tableOf, Tbl.record, sparseFind, hh]
  constructor
  · refine ⟨by decide, fun h => ?_⟩
    by_cases h0 : h = 0
    · subst h0; decide
    · show h ∈ [0] ↔ ((tableOf _).record h).pending ≠ .none
      rw [other h h0]; simp [h0, Record.fresh]
  · intro h hp
    by_cases h0 : h = 0
    · subst h0; exact .inl (by decide)
    · exact absurd (congrArg Record.pending (other h h0)) hp
  · refine ⟨by decide, fun h => ?_⟩
    by_cases h0 : h = 0
    · subst h0; decide
    · show h ∈ [] ↔ ((tableOf _).record h).handleState = .retired ∧ ((tableOf _).record h).pending = .none
      rw [other h h0]; simp [Record.fresh]
  · intro hc; cases hc
  · exact ⟨by decide, by decide⟩

/-- The step of the three invariants. -/
theorem witness_step : step (one .active) = .next (one .active) := rfl

/-- In each role and with a burst that has rounds left, or none. -/
theorem witness_soft_reset :
    ∀ role ∈ [Role.active, .detached], ∀ burst ∈ [Burst.idle, .running 2 (.running 5), .running 0 .stopped],
      Commanded 8#8 (queued (control 8 0) { one role with tko := { (one role).tko with burst := burst } })
        (readRequest (control 8 0)) [] :=
  fun _ _ _ _ => commanded_queued _ _ _ (by decide) (by decide)

/-! ## The ports (O11 to O16) -/

/-- A frame of n bytes on the wire. -/
def ofLength (n : Nat) (good : Bool) : RxFrame := { bytes := zeros n, fcsGood := good }

theorem witness_bad_frames :
    (ofLength 100 false).fcsGood = false ∧ (one .active).mir.stream = .closed ∧
      ((ofLength 63 true).fcsGood = true ∧ (ofLength 63 true).bytes.length < 64) ∧
      ((ofLength 1523 true).fcsGood = true ∧ 1522 < (ofLength 1523 true).bytes.length) ∧
      min ((streaming part).mir.fcsCount + 1) 65535 ≠ (streaming part).cfg.fcsThreshold := by decide +kernel

/-- A management frame long enough for the wire. -/
def managed : Frame := padTo 60 (control 1 0)

theorem witness_management :
    Passes (rx managed) managed ∧ (headerOf part managed).etype = part.cfg.mgmtEthertype ∧
      ({ part with mgtQueue := List.replicate 7 managed } : State).mgtQueue.length < 8 ∧
      8 ≤ ({ part with mgtQueue := List.replicate 8 managed } : State).mgtQueue.length :=
  ⟨passes_rx _ (by decide) (by decide), by decide⟩

/-- An ARP reply of the processor from a station's own MAC that claims zone 1's address, tagged; and a frame that claims
nothing. -/
def claim : Frame :=
  padTo 60 (taggedFrame broadcastMac 0x02AAAAAAAAAA#48 0#3 false 20 0x0806#16
    (bytes16 1#16 ++ bytes16 0x0800#16 ++ [6#8, 4#8, 0#8, 2#8] ++ bytes48 0x02AAAAAAAAAA#48 ++ bytes32 0xC0A80101#32 ++ zeros 10))

def claimMac : Frame := padTo 60 (etherFrame broadcastMac 0x02B000000011#48 0x0800#16 [])

def plain : Frame := padTo 60 (etherFrame 0x02CCCCCCCCCC#48 0x02AAAAAAAAAA#48 0x0800#16 [])

theorem witness_processor_gate :
    (Passes (rx claim) claim ∧ Passes (rx claimMac) claimMac ∧ Passes (rx plain) plain) ∧
      ((headerOf part claim).etype ≠ part.cfg.mgmtEthertype ∧ (headerOf part claim).etype = 0x0806#16 ∧
        (∃ p ∈ enabledZones part.zones, p.2.ip ≠ 0#32 ∧ p.2.ip = word32At claim ((headerOf part claim).off + 14))) ∧
      (∃ p ∈ enabledZones part.zones, p.2.mac = (headerOf part claimMac).src) ∧
      (headerOf part plain).etype ≠ part.cfg.mgmtEthertype ∧
      ¬ (∃ p ∈ enabledZones part.zones, p.2.mac = (headerOf part plain).src) :=
  ⟨⟨passes_rx _ (by decide) (by decide), passes_rx _ (by decide) (by decide), passes_rx _ (by decide) (by decide)⟩,
    by decide⟩

/-- The ORIG frame of worked case 1.8 as it arrives. -/
def dns : Frame := taggedFrame 0x02B000000011#48 0x02A000000032#48 5#3 true 20 0x0800#16 (udpPacket 0x5A3C#16)

/-- An ARP request for zone 1's address. -/
def arpFor : Frame :=
  padTo 60 (taggedFrame broadcastMac 0x02A000000032#48 0#3 false 20 0x0806#16
    (bytes16 1#16 ++ bytes16 0x0800#16 ++ [6#8, 4#8, 0#8, 1#8] ++ bytes48 0x02A000000032#48 ++ bytes32 0xC0A80132#32 ++ zeros 6 ++
      bytes32 0xC0A80101#32))

/-- A tunnelled mirror frame of an unknown message type. -/
def tunnelled : Frame := through [9#8]

theorem witness_w_gate :
    (Passes (rx dns) dns ∧ Passes (rx arpFor) arpFor ∧ Passes (rx tunnelled) tunnelled ∧ Passes (rx plain) plain) ∧
      classW (one .active) dns = .virtual ∧ classW (one .active) arpFor = .arpVirtual ∧
      classW (one .active) tunnelled = .tunnelMirror ∧ classW (one .active) plain = .other ∧
      (one .active).pai.role.isActive = true ∧ (one .standbySync).pai.role.isActive = false ∧
      (one .standbySync).pai.role ≠ .detached :=
  ⟨⟨passes_rx _ (by decide) (by decide), passes_rx _ (by decide) (by decide), passes_rx _ (by decide) (by decide),
    passes_rx _ (by decide) (by decide)⟩, by decide⟩

/-- A frame that is none of the mirror's, in DETACHED and out of it; and a mirror frame of message type 0 and of type 4 on each
path. -/
theorem witness_wire :
    (Passes (rx plain) plain ∧ Passes (rx dns) dns ∧ part.pai.role = .detached ∧ (one .listen).pai.role ≠ .detached ∧
      word16At dns 12 = 0x8100#16 ∧ word16At plain 12 ≠ (one .listen).cfg.mirrorEthertype) ∧
    (∀ path ∈ paths, ∀ m ∈ [[0#8], [4#8]], Arrives path (one .listen) (bringing path m) (brought path m)) ∧
    (∀ path ∈ paths, byteAt (brought path [0#8]) 0 = 0#8 ∧ byteAt (brought path [4#8]) 0 = 4#8) :=
  ⟨⟨passes_rx _ (by decide) (by decide), passes_rx _ (by decide) (by decide), by decide⟩,
    fun path hp m hm => arrives_of_check ((show ∀ path ∈ paths, ∀ m ∈ [[0#8], [4#8]],
      arrivesCheck path m (one .listen) = true by decide +kernel) path hp m hm), by decide +kernel⟩

theorem witness_transmission :
    State.reset.prt.queue .p = powerOnNotice :: [] ∧
      ({ part with prt := { part.prt with wQueue := [dns, plain] } } : State).prt.queue .w = dns :: [plain] ∧
      ({ part with prt := { part.prt with sQueue := [plain] } } : State).prt.queue .s = plain :: [] := ⟨rfl, rfl, rfl⟩

/-! ## The fast path and the tracker (O17 to O22) -/

theorem enters_dns (role : Role) (h : role.isActive = true) : Enters (one role) (rx dns) dns :=
  ⟨passes_rx _ (by decide) (by decide), h, by
    have : classW (one role) dns = classW (one .active) dns := rfl
    rw [this]; decide⟩

theorem finds_orig (role : Role) : Finds (one role) (origKey 17#8) 0 .orig :=
  finds_of_check _ _ _ _ (by show intactCheck (one .active) _ = true; decide +kernel)
    ⟨rfl, rfl⟩
    (by show ((one .active).tbl.findKey (one .active).cfg.hashSeed _).map _ = _; decide +kernel)

/-- The session with a mirrored group written at second 0, a part of its stream OPEN, the clock at a second given. -/
def marking (seconds : Nat) : State :=
  let s := streaming (one .active)
  { s with
    tbl := tableOf (record0 { flowBody with mirrored := some (groupOf flowBody) })
    tim := { s.tim with seconds := BitVec.ofNat 32 seconds } }

theorem reaches_dns (s : State) (hc : s.cfg = (one .active).cfg) (hz : s.zones = (one .active).zones)
    (ha : s.pai.role.isActive = true) (hf : Finds s (origKey 17#8) 0 .orig) : Reaches s (rx dns) dns 1 0 .orig := by
  refine ⟨⟨passes_rx _ (by decide) (by decide), ha, ?_⟩, origKey 17#8, ?_, hf⟩
  · have : classW s dns = classW (one .active) dns := by unfold classW headerOf; rw [hc, hz]
    rw [this]; decide
  · rw [hz]
    have : headerOf s dns = headerOf (one .active) dns := by simp only [headerOf, hc]
    rw [this]; decide +kernel

/-- A fragment of the frame of worked case 1.8 with TTL 1: the fragment check comes first. -/
def fragment : Frame :=
  taggedFrame 0x02B000000011#48 0x02A000000032#48 0#3 false 20 0x0800#16
    (overwrite (udpPacket 0x5A3C#16) 6 (bytes16 0x2000#16 ++ [1#8]))

theorem witness_exception :
    (Enters (one .active) (rx fragment) fragment ∧
      parseFrame (one .active).zones (headerOf (one .active) fragment) fragment = .refused .fragment (some 1)) ∧
    (Enters (inRole .solo part) (rx dns) dns ∧
      parseFrame (inRole .solo part).zones (headerOf (inRole .solo part) dns) dns = .keyed 1 (origKey 17#8) ∧
      Misses (inRole .solo part) (origKey 17#8)) :=
  ⟨⟨⟨passes_rx _ (by decide) (by decide), by decide⟩, by decide +kernel⟩,
    ⟨passes_rx _ (by decide) (by decide), by decide⟩, by decide +kernel,
    misses_of_check _ _ (by decide +kernel)⟩

/-- A FLOW session's hit: with a held frame; with the stream CLOSED; on the OPEN stream with no group, a second before the touch
interval has passed, and at its end. -/
theorem witness_flow_hit :
    let held := { one .active with hold := [{ handle := 0, epoch := 1#16, frame := [], timer := .running 5, releaseSeq := none }] }
    (Reaches held (rx dns) dns 1 0 .orig ∧ ∃ e ∈ held.hold, e.handle = 0) ∧
    (Reaches (one .active) (rx dns) dns 1 0 .orig ∧ (recordOf (one .active) 0).body.state = .flow ∧
      (one .active).mir.stream = .closed ∧ (one .active).hold = []) ∧
    (recordOf (streaming (one .active)) 0).body.mirrored = none ∧
    (Reaches (marking 59) (rx dns) dns 1 0 .orig ∧ (marking 59).mir.stream = .opened ∧ (marking 59).hold = [] ∧
      (recordOf (marking 59) 0).body.mirrored = some (groupOf flowBody) ∧
      ((marking 59).tim.seconds - (groupOf flowBody).seen).toNat < (marking 59).cfg.touchInterval ∧
      ((marking 60).tim.seconds - (groupOf flowBody).seen).toNat = (marking 60).cfg.touchInterval) :=
  ⟨⟨reaches_dns _ rfl rfl rfl (finds_of_check _ _ _ _ (by decide +kernel) ⟨rfl, rfl⟩ (by decide +kernel)), by decide⟩,
    ⟨reaches_dns _ rfl rfl rfl (finds_orig .active), rfl, rfl, rfl⟩, rfl,
    reaches_dns _ rfl rfl rfl (finds_of_check _ _ _ _ (by decide +kernel) ⟨rfl, rfl⟩ (by decide +kernel)), by decide⟩

/-- The three checks of worked case 3.9's session, each failing alone, at the bound and one beyond it. -/
theorem witness_checks :
    open39.state = .opened ∧ (open39.dir .orig).seeded = true ∧ (open39.dir .reply).edgeValid = true ∧
      (let within := segment 53140 1000800 2048 false true true 99 []
       let right := segment 53141 1000800 2048 false true true 99 []
       let left := segment 4294894463 1000800 2048 false true false 99 []
       let ack := segment 4294966000 1000801 2048 false true false 99 []
       (within.hasRst = false ∧ within.hasSyn = false ∧ within.finish = 53240#32 ∧ right.finish = 53241#32) ∧
       seqNotAfter within.finish 53240#32 = true ∧ ¬ seqNotAfter right.finish 53240#32 = true ∧
       seqNotAfter left.finish 53240#32 = true ∧ ¬ seqNotBefore left.seq 4294894464#32 = true ∧
       seqNotBefore ack.seq 4294894464#32 = true ∧ ¬ seqNotAfter ack.ack 1000800#32 = true) := by decide +kernel

/-- A state for each of the moves, and for each refusal a segment that meets it. -/
theorem witness_moves :
    (new38.state = .new ∧ new38.dirReply.seeded = false ∧ synAck38.hasSyn = true ∧ synAck38.hasAck = true ∧
      synAck38.hasFin = false ∧ synAck38.hasRst = false) ∧
    (let half := { open311 with state := .halfOpen }
     let g := segment 180000 1200000 2048 false true false 0 []
     half.dirOrig.seeded = true ∧ g.hasRst = false ∧ failedCheck half .orig g 0 = none) ∧
    (let one := { open311 with state := .drainOne, finOrder := some .reply }
     let g := segment 180000 1200000 2048 false true true 0 []
     one.finOrder = some Dir.orig.other ∧ (one.dir .orig).seeded = true ∧ failedCheck one .orig g 0 = none) ∧
    (let both := { open311 with state := .drainBoth, finOrder := some .reply, dirOrig := { open311.dirOrig with finEnd := some 180000#32 } }
     let g := segment 1200000 180000 512 false true false 0 []
     (both.dir Dir.reply.other).finEnd = some 180000#32 ∧ (both.dir .reply).seeded = true ∧ failedCheck both .reply g 0 = none ∧
      seqNotBefore g.ack 180000#32 = true) ∧
    (let g := { segment 180000 0 0 false false false 0 [] with hasRst := true }
     g.hasRst = true ∧ failedCheckRst open311 .orig g 0 = none) ∧
    (let g := segment 7 0 512 true false false 0 []
     g.hasSyn = true ∧ g.hasAck = false ∧ g.hasFin = false ∧ g.hasRst = false) ∧
    (let flags := fun (g : Segment) => (g.hasSyn, g.hasAck, g.hasFin, g.hasRst)
     flags (segment 7 0 512 true false true 0 []) = (true, false, true, false) ∧
      flags (segment 7 0 512 false false false 0 []) = (false, false, false, false) ∧
      flags (segment 7 0 512 true true false 0 []) = (true, true, false, false)) := by decide +kernel

/-- A TCP segment of the session of worked case 3.9 as a frame: no flag but ACK. -/
def tcpFrame (seq ack : Nat) : Frame :=
  let p := fun (sum : Word16) => bytes16 0x4500#16 ++ nat16 40 ++ zeros 4 ++ [64#8, 6#8] ++ bytes16 sum ++ bytes32 0xC0A80132#32 ++
    bytes32 0xCB007109#32 ++ bytes16 40000#16 ++ bytes16 53#16 ++ nat32 seq ++ nat32 ack ++ [0x50#8, 0x10#8] ++ nat16 2048 ++ zeros 4
  padTo 60 (taggedFrame 0x02B000000011#48 0x02A000000032#48 0#3 false 20 0x0800#16
    (p (~~~ onesSum (ipHeaderWords (p 0#16) 0))))

theorem hits_tcp (f : Frame) (s : State) (k : Key) (h : Nat) (d : Dir) (lo : 60 ≤ f.length) (hi : f.length ≤ 1518)
    (ha : s.pai.role.isActive = true) (hc : classW s f = .virtual) (hp : parseFrame s.zones (headerOf s f) f = .keyed 1 k)
    (hf : Finds s k h d) (hh : s.hold = []) : Hits s (rx f) f 1 h d :=
  ⟨⟨⟨passes_rx _ lo hi, ha, hc⟩, k, hp, hf⟩, fun e he => by rw [hh] at he; cases he⟩

/-- The session of worked case 3.9 with a mirrored group, its stream OPEN, at a second given; a segment in its window; and the
body that the segment leaves. -/
def learning (seconds : Nat) : State :=
  let s := streaming (tcpOne { open39 with mirrored := some (groupOf open39) } .active)
  { s with tim := { s.tim with seconds := BitVec.ofNat 32 seconds } }

def learned (seconds : Nat) : Verdict :=
  judgeTcp (recordOf (learning seconds) 0).body .orig
    (readSegment (tcpFrame 4294960000 1000800) (headerOf (learning seconds) (tcpFrame 4294960000 1000800)).off) 0
    (word16At (tcpFrame 4294960000 1000800) ((headerOf (learning seconds) (tcpFrame 4294960000 1000800)).off + 2)).toNat
    (learning seconds).tim.seconds

theorem quiet_learned :
    ¬ updateMeets (learning 86430) (groupOf open39) (recordOf (learning 86430) 0).body
      ((accepted (learned 86430)).getD open39) := by
  rintro (h | ⟨-, h | ⟨d, h⟩ | h⟩)
  · exact absurd h (by decide +kernel)
  · exact absurd h (by decide +kernel)
  · cases d <;> exact absurd h (by decide +kernel)
  · exact absurd h (by decide +kernel)

/-- An accepted segment a second before the touch interval has passed, and at its end; and an OPEN session whose ORIG direction
is not seeded, with a segment that seeds it. -/
theorem witness_accepted_frame :
    let f := tcpFrame 4294960000 1000800
    Hits (learning 86430) (rx f) f 1 0 .orig ∧ (recordOf (learning 86430) 0).body.state ≠ .flow ∧
      (learning 86430).mir.stream = .opened ∧ (recordOf (learning 86430) 0).body.mirrored = some (groupOf open39) ∧
      learned 86430 = .accept ((accepted (learned 86430)).getD open39) [] ∧
      learned 86431 = .accept ((accepted (learned 86431)).getD open39) [] ∧
      updateMeets (learning 86431) (groupOf open39) (recordOf (learning 86431) 0).body ((accepted (learned 86431)).getD open39) ∧
      (let g := segment 5 6 100 true true false 3 []
       DirTracker.unseeded.seeded = false ∧ g.hasRst = false ∧ ¬ (g.hasSyn = true ∧ g.hasFin = true)) :=
  ⟨hits_tcp _ _ (origKey 6#8) 0 .orig (by decide) (by decide) rfl (by decide) (by decide +kernel)
    (finds_of_check _ _ _ _ (by decide +kernel) ⟨rfl, rfl⟩ (by decide +kernel)) rfl, by decide +kernel, rfl, rfl, by decide +kernel,
    by decide +kernel, .inl (by decide +kernel), by decide⟩

/-- A segment beyond the right edge: refused by C1, in a role without tolerance and in TAKEOVER with tolerance 0. -/
theorem witness_refused_segment :
    let s := tcpOne open39 .active
    Hits s (rx (tcpFrame 53241 1000800)) (tcpFrame 53241 1000800) 1 0 .orig ∧
      judge (recordOf s 0).body .orig (tcpFrame 53241 1000800) (headerOf s (tcpFrame 53241 1000800)).off
        (if s.pai.role = .takeover then s.tko.tolerance else 0) s.tim.seconds = .refuse .trkRefRight ∧
      s.cfg.oowPolicy = .exception ∧
      ({ s with cfg := { s.cfg with oowPolicy := .drop } } : State).cfg.oowPolicy = .drop :=
  ⟨hits_tcp _ _ (origKey 6#8) 0 .orig (by decide) (by decide) (by decide) (by decide) (by decide +kernel)
    (finds_of_check _ _ _ _ (by decide +kernel) (by decide) (by decide +kernel)) rfl, by decide +kernel⟩

/-- A packet whose IPv4 header is right, with a UDP datagram without a checksum; one of TCP, of ICMP and of no protocol that is
rewritten further. -/
theorem witness_header :
    let p := udpPacket 0x5A3C#16
    let of := fun (proto : Byte) => overwrite (p ++ zeros 12) 9 [proto]
    (20 ≤ p.length ∧ byteAt p 0 = 0x45#8 ∧ 2 ≤ (byteAt p 8).toNat ∧ onesSum (ipHeaderWords p 0) = 0xFFFF#16) ∧
      (byteAt p 9 = 17#8 ∧ 28 ≤ p.length ∧ word16At p 26 ≠ 0#16 ∧ word16At (udpPacket 0#16) 26 = 0#16) ∧
      (∀ proto ∈ [6#8, 1#8, 47#8], byteAt (of proto) 9 = proto ∧ 40 ≤ (of proto).length) := by decide +kernel

/-! ## The session table and the hold queue (O23 to O31) -/

/-- A table with the given positions occupied by strangers. -/
def filled (ps : List Nat) : Tbl :=
  { Tbl.cleared with
    slots := ps.map fun p => (p, { key := Key.zero, handle := 9, dir := .orig, keyGood := true, refGood := true }) }

/-- Both keys placed in their buckets; the first in the last stash slot; no place for the first; a place for the first and
none for the second. -/
theorem witness_insert :
    (∃ x, Tbl.cleared.insertKeys seed (origKey 17#8) (replyKey 17#8) 0 = some x) ∧
      ((filled ((keyPositions seed (origKey 17#8)).take 35)).insertKeys seed (origKey 17#8) (replyKey 17#8) 0).map Prod.snd =
        some (65567, 36104) ∧
      (filled (keyPositions seed (origKey 17#8))).insertKeys seed (origKey 17#8) (replyKey 17#8) 0 = none ∧
      (filled (keyPositions seed (replyKey 17#8))).insertKeys seed (origKey 17#8) (replyKey 17#8) 0 = none ∧
      (filled (keyPositions seed (replyKey 17#8))).freePosition seed (origKey 17#8) = some 62540 :=
  ⟨Option.isSome_iff_exists.mp (by decide +kernel), by decide +kernel⟩

/-- The payload of an INSTALL of the worked case's session for a protocol. -/
def installPayload (proto : Byte) (hold : Nat) (frame : List Byte) : List Byte :=
  keyRecord (origKey proto) ++ keyRecord (replyKey proto) ++ bytes48 0x02A000000001#48 ++ bytes48 0x02A000000032#48 ++
    [0#8, nat8 hold] ++ nat16 frame.length ++ frame

def installRequest (proto : Byte) (hold : Nat) (frame : List Byte) : Frame :=
  request 3 0 0 0 0 0 0 (installPayload proto hold frame)

/-- An INSTALL of UDP into an empty table, with the stream CLOSED; it is the same with the stream OPEN. -/
theorem witness_install :
    let s := queued (installRequest 17#8 0 []) (inRole .active part)
    let r := readRequest (installRequest 17#8 0 [])
    Waiting s r [] ∧ r.command = 3 ∧ r.length = 48 ∧ enclosedLength r.payload = 0 ∧ s.pai.role.isActive = true ∧
      installGood s.zones (readInstall r.payload) = true ∧ Misses s (readInstall r.payload).origKey ∧
      Misses s (readInstall r.payload).replyKey ∧ freeHead s.tbl.free = some 0 ∧
      (∃ x, s.tbl.insertKeys s.cfg.hashSeed (readInstall r.payload).origKey (readInstall r.payload).replyKey 0 = some x) ∧
      s.mir.stream = .closed ∧ (streaming s).mir.stream = .opened :=
  ⟨waiting_queued _ _ (by decide), by decide, by decide, by decide, by decide, by decide +kernel,
    misses_of_check _ _ (by decide +kernel), misses_of_check _ _ (by decide +kernel),
    by decide, Option.isSome_iff_exists.mp (by decide +kernel), rfl, rfl⟩

/-- An INSTALL whose payload is a byte short, one with two equal keys, one with an enclosed frame that does not form its
key, one in a standby role. -/
theorem witness_install_refused :
    let short := request 3 0 0 0 0 0 0 ((installPayload 17#8 0 []).take 47)
    let same := request 3 0 0 0 0 0 0 (keyRecord (origKey 17#8) ++ (installPayload 17#8 0 []).take 16 ++ (installPayload 17#8 0 []).drop 32)
    let alien := installRequest 17#8 0 plain
    let s := inRole .active part
    (Waiting (queued short s) (readRequest short) [] ∧ (readRequest short).command = 3 ∧
      installLengthGood (readRequest short) = false) ∧
    (Waiting (queued same s) (readRequest same) [] ∧ installLengthGood (readRequest same) = true ∧
      installGood s.zones (readInstall (readRequest same).payload) = false) ∧
    (Waiting (queued alien s) (readRequest alien) [] ∧ installLengthGood (readRequest alien) = true ∧
      enclosedGood s (readInstall (readRequest alien).payload) = false) ∧
    (inRole .standbySync s).pai.role.isActive = false :=
  ⟨⟨waiting_queued _ _ (by decide), by decide +kernel⟩, ⟨waiting_queued _ _ (by decide), by decide +kernel⟩,
    ⟨waiting_queued _ _ (by decide), by decide +kernel⟩, by decide⟩

/-- Each of the later checks: a key that is present as ORIG, one present as REPLY alone, no free handle, no place. -/
theorem witness_install_duplicate_or_full :
    let r := readRequest (installRequest 17#8 0 [])
    let i := readInstall r.payload
    let other := { origKey 17#8 with srcPort := 40001#16 }
    let full := { inRole .active part with tbl := { Tbl.cleared with free := [] } }
    let crowded := { inRole .active part with tbl := filled (keyPositions seed (replyKey 17#8)) }
    (i.origKey = origKey 17#8 ∧ i.replyKey = replyKey 17#8 ∧ enclosedGood part i = true) ∧ Finds (one .active) (origKey 17#8) 0 .orig ∧
      (Misses (one .active) other ∧ Finds (one .active) (replyKey 17#8) 0 .reply) ∧
      (Misses full (origKey 17#8) ∧ Misses full (replyKey 17#8) ∧ freeHead full.tbl.free = none) ∧
      (Misses crowded (origKey 17#8) ∧ Misses crowded (replyKey 17#8) ∧ freeHead crowded.tbl.free = some 0 ∧
        crowded.tbl.insertKeys crowded.cfg.hashSeed (origKey 17#8) (replyKey 17#8) 0 = none) :=
  ⟨by decide +kernel, finds_orig .active,
    ⟨misses_of_check _ _ (by decide +kernel),
      finds_of_check _ _ _ _ (by decide +kernel) (by decide) (by decide +kernel)⟩,
    ⟨misses_of_check _ _ (by decide +kernel), misses_of_check _ _ (by decide +kernel), rfl⟩,
    ⟨misses_of_check _ _ (by decide +kernel), misses_of_check _ _ (by decide +kernel), rfl,
      by decide +kernel⟩⟩

/-- A FIND of the worked case's key, in a table that holds it and in one that does not; and one a byte short. -/
def findRequest : Frame := request 4 0 0 0 0 0 0 (keyRecord (origKey 17#8))

theorem witness_find :
    let r := readRequest findRequest
    let short := request 4 0 0 0 0 0 0 (zeros 15)
    Waiting (queued findRequest (one .listen)) r [] ∧ r.command = 4 ∧ r.length = 16 ∧ readKey r.payload 0 = origKey 17#8 ∧
      Finds (one .listen) (origKey 17#8) 0 .orig ∧ Misses part (origKey 17#8) ∧
      Waiting (queued short part) (readRequest short) [] ∧ (readRequest short).command = 4 ∧ (readRequest short).length ≠ 16 :=
  ⟨waiting_queued _ _ (by decide), by decide, by decide, by decide +kernel, finds_orig .listen,
    misses_of_check _ _ (by decide +kernel), waiting_queued _ _ (by decide), by decide⟩

theorem witness_removal :
    sparseSorted (one .active).tbl.records = true ∧ sparseSorted (one .active).tbl.slots = true ∧
      (recordOf (one .active) 0).handleState = .live := by decide

/-- A REMOVE by handle of handle 0 with an epoch, and of the last handle. -/
def removeRequest (h epoch : Nat) : Frame := request 5 0 0 0 0 0 0 ([1#8, 0#8] ++ nat16 h ++ nat16 epoch ++ zeros 14)

/-- A REMOVE by key. -/
def removeByKeyRequest (k : Key) : Frame := request 5 0 0 0 0 0 0 ([2#8, 0#8, 0#8, 0#8] ++ keyRecord k)

/-- REMOVE by handle of the session, of it with another epoch, of the last handle, which is FREE, and of 32,768; by key of the
session and of one that is not there; a form that is none; a payload a byte short; and a standby role. -/
theorem witness_remove_by_handle :
    let s := one .active
    let r := fun (h epoch : Nat) => readRequest (removeRequest h epoch)
    let k := fun (k : Key) => readRequest (removeByKeyRequest k)
    let other := { origKey 17#8 with srcPort := 40001#16 }
    let short := request 5 0 0 0 0 0 0 (zeros 19)
    let formless := request 5 0 0 0 0 0 0 (3#8 :: zeros 19)
    (Waiting (queued (removeRequest 0 1) s) (r 0 1) [] ∧ Waiting (queued (removeByKeyRequest other) s) (k other) [] ∧
      Waiting (queued short s) (readRequest short) []) ∧
    (Finds s (readKey (k (origKey 17#8)).payload 4) 0 .orig ∧ Misses s (readKey (k other).payload 4)) ∧
    ((r 0 1).command = 5 ∧ (r 0 1).length = 20 ∧ s.pai.role.isActive = true ∧ byteAt (r 0 1).payload 0 = 1#8 ∧
      (word16At (r 32767 0).payload 2).toNat = 32767 ∧ (word16At (r 32768 0).payload 2).toNat = 32768 ∧
      (recordOf s 0).handleState = .live ∧ (recordOf s 0).epoch = word16At (r 0 1).payload 4 ∧
      (recordOf s 0).epoch ≠ word16At (r 0 2).payload 4 ∧ (recordOf s 32767).handleState = .free ∧
      sparseSorted s.tbl.records = true ∧ sparseSorted s.tbl.slots = true) ∧
    ((k other).command = 5 ∧ (k other).length = 20 ∧ byteAt (k other).payload 0 = 2#8 ∧
      byteAt (readRequest formless).payload 0 = 3#8 ∧ (readRequest short).length ≠ 20 ∧ (one .standbySync).pai.role.isActive = false) :=
  ⟨⟨waiting_queued _ _ (by decide), waiting_queued _ _ (by decide), waiting_queued _ _ (by decide)⟩,
    ⟨finds_orig .active, misses_of_check _ _ (by decide +kernel)⟩, by decide +kernel⟩

/-- A READ of entries. -/
def readOf (obj idx cnt mode span clear : Nat) : Frame := request 1 obj idx cnt mode span clear []

/-- The session with a damaged anchor, in an active role and in FAULTED, and with a damaged body. -/
theorem witness_damaged :
    let r := readRequest (readOf 4 0 1 0 0 0)
    let s := fun (role : Role) (rec : Record) => queued (readOf 4 0 1 0 0 0) { one role with tbl := tableOf rec }
    let anchor := { record0 flowBody with anchorGood := false }
    let body := { record0 flowBody with bodyGood := false }
    Waiting (s .active anchor) r [] ∧ r.command = 1 ∧ r.object = 4 ∧ r.count = 1 ∧ r.stepMode < 3 ∧ r.clear = false ∧
      r.index < 32768 ∧ (recordOf (s .active anchor) 0).anchorGood = false ∧ (s .faulted anchor).pai.role = .faulted ∧
      (recordOf (s .active body) 0).anchorGood = true ∧ (recordOf (s .active body) 0).handleState = .live ∧
      (recordOf (s .active body) 0).bodyGood = false ∧ sparseSorted (s .active body).tbl.records = true ∧
      sparseSorted (s .active body).tbl.slots = true :=
  ⟨waiting_queued _ _ (by decide), by decide⟩

/-- A FIND of the key whose first slot has a damaged key, which the record it names claims; and one whose slot has a damaged
reference. -/
theorem witness_damaged_slot :
    let sl := fun (key ref : Bool) =>
      ({ key := origKey 17#8, handle := 0, dir := .orig, keyGood := key, refGood := ref } : Slot)
    let s := fun (key ref : Bool) => queued findRequest { one .active with
      tbl := { (one .active).tbl with slots := sparsePut (one .active).tbl.slots 62540 (sl key ref) } }
    let r := readRequest findRequest
    let x := s false true
    (Waiting x r [] ∧ r.command = 4 ∧ r.length = 16 ∧ keyPositions x.cfg.hashSeed (readKey r.payload 0) =
      [] ++ 62540 :: (keyPositions seed (origKey 17#8)).drop 1) ∧
    (x.tbl.slot 62540 = some (sl false true) ∧ (recordOf x 0).handleState = .live ∧ (recordOf x 0).slotOrig = 62540 ∧
      recordOf x 0 = record0 flowBody ∧ sparseSorted x.tbl.records = true ∧ sparseSorted x.tbl.slots = true) ∧
    ((s true false).tbl.slot 62540 = some (sl true false) ∧ (sl true false).refGood = false) :=
  ⟨⟨waiting_queued _ _ (by decide), by decide +kernel⟩, by decide +kernel⟩

/-- The first segment of a TCP session of the worked case's keys, 62 bytes in all: its flags, its window and four bytes of
options. -/
def firstSegment (flags : Byte) (window : Nat) (options : List Byte) : Frame :=
  let p := fun (sum : Word16) => bytes16 0x4500#16 ++ nat16 44 ++ zeros 4 ++ [64#8, 6#8] ++ bytes16 sum ++ bytes32 0xC0A80132#32 ++
    bytes32 0xCB007109#32 ++ bytes16 40000#16 ++ bytes16 53#16 ++ nat32 1000000 ++ nat32 0 ++ [0x60#8, flags] ++ nat16 window ++
      zeros 4 ++ options
  taggedFrame 0x02B000000011#48 0x02A000000032#48 0#3 false 20 0x0800#16 (p (~~~ onesSum (ipHeaderWords (p 0#16) 0)))

/-- A SYN that offers the scale 7. -/
def synFrame38 : Frame := firstSegment 0x02#8 64240 [3#8, 3#8, 7#8, 0#8]

/-- A SYN of a LINGER session's ORIG side. -/
theorem witness_reopen :
    let s := tcpOne { open311 with state := .linger } .active
    let g := readSegment synFrame38 (headerOf s synFrame38).off
    Hits s (rx synFrame38) synFrame38 1 0 .orig ∧
      ((recordOf s 0).handleState = .live ∧ (recordOf s 0).body.state = .linger ∧ g.hasSyn = true ∧ g.hasAck = false ∧
        g.hasFin = false ∧ g.hasRst = false ∧ sparseSorted s.tbl.records = true ∧ sparseSorted s.tbl.slots = true) :=
  ⟨hits_tcp _ _ (origKey 6#8) 0 .orig (by decide) (by decide) rfl (by decide) (by decide +kernel)
    (finds_of_check _ _ _ _ (by decide +kernel) ⟨rfl, rfl⟩ (by decide +kernel)) rfl, by decide +kernel⟩

/-- A hold entry of a handle. -/
def heldBy (h : Nat) (epoch : Word16) (t : Timer) (seq : Option Word16) : HoldEntry :=
  { handle := h, epoch := epoch, frame := plain, timer := t, releaseSeq := seq }

/-- The frames that an INSTALL encloses, with their protocols: of UDP; a SYN alone that offers a scale, one above 14, a
malformed one, and none; an RST; an ACK, a FIN, a SYN with ACK and no flag at all; and a SYN with FIN. -/
def enclosable : List (Byte × Frame) :=
  (17#8, dns) :: List.map (Prod.mk 6#8)
    ([synFrame38, firstSegment 0x02#8 0 [3#8, 3#8, 15#8, 0#8], firstSegment 0x02#8 1 [3#8, 9#8, 0#8, 0#8],
      firstSegment 0x02#8 1 (zeros 4)] ++
      [0x04#8, 0x10#8, 0x11#8, 0x12#8, 0x00#8, 0x03#8].map fun flags => firstSegment flags 2048 (zeros 4))

/-- An active part whose stream is OPEN and which holds n frames is asked to install a session with a frame enclosed. -/
def protecting (x : Byte × Frame) (n : Nat) : State :=
  queued (installRequest x.1 1 x.2) { streaming (inRole .active part) with
    hold := List.replicate n (heldBy 9 1#16 (.running 5) none) }

/-- A protected INSTALL with each of these frames, whose checks pass: the flags that tell the clauses apart; with room for one
more held frame and with none, with the stream CLOSED, without the hold flag, and with both policies for a refused segment. -/
theorem witness_protected :
    (∀ x ∈ enclosable,
      let s := protecting x 47
      let r := readRequest (installRequest x.1 1 x.2)
      let i := readInstall r.payload
      Waiting s r [] ∧
        (r.command = 3 ∧ installLengthGood r = true ∧ i.frame = some x.2 ∧ s.pai.role.isActive = true ∧
          installGood s.zones i = true ∧ enclosedGood s i = true ∧ i.origKey.proto = x.1 ∧ i.hold = true) ∧
        Misses s i.origKey ∧ Misses s i.replyKey ∧ freeHead s.tbl.free = some 0 ∧
        ∃ y, s.tbl.insertKeys s.cfg.hashSeed i.origKey i.replyKey 0 = some y) ∧
    (enclosable.map fun x =>
      let g := readSegment x.2 (headerOf (protecting x 47) x.2).off
      (g.hasSyn, g.hasAck, g.hasFin, g.hasRst)).tail =
      List.replicate 4 (true, false, false, false) ++ [(false, false, false, true), (false, true, false, false),
        (false, true, true, false), (true, true, false, false), (false, false, false, false), (true, false, true, false)] ∧
    ((readInstall (readRequest (installRequest 6#8 0 synFrame38)).payload).hold = false ∧
      (protecting (6#8, synFrame38) 47).mir.stream = .opened ∧ (inRole .active part).mir.stream = .closed ∧
      (protecting (6#8, synFrame38) 47).hold.length = 47 ∧ 48 ≤ (protecting (6#8, synFrame38) 48).hold.length ∧
      part.cfg.oowPolicy = .exception ∧ ({ part.cfg with oowPolicy := .drop } : ConfigRec).oowPolicy = .drop) :=
  ⟨fun x hx => ⟨waiting_queued _ _ ((show ∀ x ∈ enclosable, (readRequest (installRequest x.1 1 x.2)).length ≤
        (readRequest (installRequest x.1 1 x.2)).rest by decide +kernel) x hx),
      (show ∀ x ∈ enclosable,
        let s := protecting x 47
        let r := readRequest (installRequest x.1 1 x.2)
        let i := readInstall r.payload
        r.command = 3 ∧ installLengthGood r = true ∧ i.frame = some x.2 ∧ s.pai.role.isActive = true ∧
          installGood s.zones i = true ∧ enclosedGood s i = true ∧ i.origKey.proto = x.1 ∧ i.hold = true by decide +kernel) x hx,
      misses_of_check _ _ ((show ∀ x ∈ enclosable,
        intactCheck (protecting x 47) (readInstall (readRequest (installRequest x.1 1 x.2)).payload).origKey = true ∧
        (protecting x 47).tbl.findKey (protecting x 47).cfg.hashSeed
          (readInstall (readRequest (installRequest x.1 1 x.2)).payload).origKey = none by decide +kernel) x hx),
      misses_of_check _ _ ((show ∀ x ∈ enclosable,
        intactCheck (protecting x 47) (readInstall (readRequest (installRequest x.1 1 x.2)).payload).replyKey = true ∧
        (protecting x 47).tbl.findKey (protecting x 47).cfg.hashSeed
          (readInstall (readRequest (installRequest x.1 1 x.2)).payload).replyKey = none by decide +kernel) x hx),
      by rfl,
      Option.isSome_iff_exists.mp ((show ∀ x ∈ enclosable, ((protecting x 47).tbl.insertKeys (protecting x 47).cfg.hashSeed
        (readInstall (readRequest (installRequest x.1 1 x.2)).payload).origKey
        (readInstall (readRequest (installRequest x.1 1 x.2)).payload).replyKey 0).isSome = true by decide +kernel) x hx)⟩,
    by decide +kernel⟩

/-- An entry whose timer has expired behind one whose timer has a tick left; its session is LIVE with its epoch. -/
theorem witness_hold_timeout :
    let e := heldBy 0 1#16 (.running 0) (some 7#16)
    let pre := [heldBy 3 1#16 (.running 1) none]
    let s := clocked 0 0 { streaming (one .active) with hold := pre ++ e :: [e] }
    s.hold = pre ++ e :: [e] ∧ s.tim.running = true ∧ e.timer = .running 0 ∧ (∀ d ∈ pre, d.timer ≠ .running 0) ∧
      (recordOf s e.handle).handleState = .live ∧ (recordOf s e.handle).epoch = e.epoch ∧
      (recordOf s (heldBy 0 2#16 (.running 0) none).handle).epoch ≠ (heldBy 0 2#16 (.running 0) none).epoch :=
  ⟨rfl, by decide⟩

/-! ## The mirror stream (O32 to O37) -/

/-- A hello of the peer with a role and flags. -/
def peerHello (role flags : Byte) : Hello :=
  { flags := flags, stationId := 2#16, stationMac := 0x020000000102#48, priority := 128#8, role := role, revision := 3#8, count := 0#8
    pairGen := 4#32, adoptedGen := 3#32, handleCount := 32768#32, slotCount := 65568#32, zoneDigest := 2264491273#32
    liveCount := 0#32, refresh := [] }

/-- A hello that is longer than the frame's padding reaches brings a refresh list. -/
def refreshHello (role : Byte) : Hello := { peerHello role 0#8 with adoptedGen := 0#32, count := 3#8, refresh := [0#16, 5#16, 0#16] }

/-- A part whose primary is DOWN and whose secondary is UP, an OPEN stream on that path. -/
def overTunnel (s : State) : State :=
  { s with
    mir := { s.mir with dataPath := s.mir.dataPath.map fun _ => .secondary }
    pai := { s.pai with
      primary := { s.pai.primary with up := false }, secondary := { s.pai.secondary with up := true } } }

/-- A part that the path governs. -/
def governed (path : PathId) (s : State) : State := match path with | .primary => s | .secondary => overTunnel s

/-- On each path as the governing one: a standby peer in each of its two roles wants a bulk copy of an active part whose stream
is CLOSED, and of one whose stream is OPEN with the generation that it shows adopted, or another; a hello of the current generation
without BULK_WANTED, whose refresh list names a LIVE handle twice and a FREE one; and such a hello while the stream is CLOSED. -/
theorem witness_opening :
    let shut := one .active
    let current := { streaming shut with pai := { (streaming shut).pai with pairGen := 3#32 } }
    let wish := helloBytes (peerHello 4#8 1#8)
    let list := helloBytes (refreshHello 5#8)
    (∀ path ∈ paths, ∀ m ∈ [wish, list], ∀ s ∈ [shut, streaming shut, current],
      Arrives path (governed path s) (bringing path m) (brought path m)) ∧
    (∀ path ∈ paths,
      let p := brought path wish
      let q := brought path list
      (byteAt p 0 = 1#8 ∧ readHello p = peerHello 4#8 1#8 ∧ byteAt q 0 = 1#8 ∧ readHello q = refreshHello 5#8) ∧
      ((readHello p).flags.getLsbD 0 = true ∧ (readHello q).flags.getLsbD 0 = false) ∧
      (∀ s ∈ [shut, streaming shut, current],
        judgeHello (governed path s) (readHello p) (p.length - 38) = .compatible ∧
        judgeHello (governed path s) (readHello q) (q.length - 38) = .compatible ∧
        (path = .primary ∨ (governed path s).pai.primary.up = false) ∧ (governed path s).pai.role = .active ∧
        sparseSorted (governed path s).tbl.records = true) ∧
      ((governed path shut).mir.stream = .closed ∧ (governed path current).mir.stream = .opened ∧
        (readHello p).adoptedGen = (governed path current).pai.pairGen ∧
        (readHello p).adoptedGen ≠ (governed path (streaming shut)).pai.pairGen ∧
        (readHello q).adoptedGen = (governed path (streaming shut)).pai.pairGen) ∧
      ((recordOf (governed path (streaming shut)) 0).handleState = .live ∧
        (recordOf (governed path (streaming shut)) 5).handleState = .free)) :=
  ⟨fun path hp m hm s hs => arrives_of_check ((show ∀ path ∈ paths,
      ∀ m ∈ [helloBytes (peerHello 4#8 1#8), helloBytes (refreshHello 5#8)],
      ∀ s ∈ [one .active, streaming (one .active),
        { streaming (one .active) with pai := { (streaming (one .active)).pai with pairGen := 3#32 } }],
      arrivesCheck path m (governed path s) = true by decide +kernel) path hp m hm s hs), by decide +kernel⟩

/-- An open frame with n bytes of deltas. -/
def openWith (n : Nat) (creates : List (Nat × Word16)) (t : Timer) : OpenFrame :=
  { deltas := zeros n, removes := [], creates := creates, timer := t }

/-- The stream OPEN with session 0 pending a kind, a frame of n bytes open, coalesce_time given. -/
def building (kind : Pending) (n coalesce : Nat) : State :=
  let s := streaming (one .active)
  { s with
    cfg := { s.cfg with coalesceTime := coalesce }
    tbl := tableOf { record0 flowBody with pending := kind }
    mir := { s.mir with openFrame := some (openWith n [] (.running 1)), dirty := [0], walk := .walking } }

/-- Live deltas that just fit and that do not: an UPDATE, a CREATE, which a held frame waits for or not, and a REMOVE, with
coalesce_time 1 and, with nothing further to place, 0; a BULK_RECORD that just fits and one that does not, and a walk past the
last LIVE handle; a BULK_END that just fits and one that does not, with one place of the replay queue left and with two; a due
CHECKPOINT in no frame with one place of the replay queue left; nothing to place; no room. -/
theorem witness_delta_build :
    let d : DataFrame := { gen := 0#32, seq := 0#16, deltas := [], removes := [], creates := [] }
    let live := fun (kind : Pending) (n : Nat) =>
      (building kind n 1).mir.stream = .opened ∧ (building kind n 1).mir.openFrame = some (openWith n [] (.running 1)) ∧
        (building kind n 1).mir.dirty = 0 :: [] ∧ (recordOf (building kind n 1) 0).pending = kind ∧
        (building kind n 1).mir.turn = .liveFirst ∧ (openWith n [] (.running 1)).deltas.length + liveSize kind = 1408
    ((live .update 1360 ∧ live .create 1312 ∧ live .remove 1400) ∧
      1408 < (openWith 1361 [] (.running 1)).deltas.length + liveSize .update ∧
      ({ building .create 0 1 with hold := [heldBy 0 1#16 (.running 5) none] } : State).hold =
        [heldBy 0 (recordOf (building .create 0 1) 0).epoch (.running 5) none] ∧
      (placedLive 0 (openWith 8 [] (.running 1)) { building .update 8 0 with
        mir := { (building .update 8 0).mir with walk := .idle } }).mir.dirty = []) ∧
    (let s := { building .update 1312 1 with mir := { (building .update 1312 1).mir with turn := .bulkNext } }
     s.mir.walk = .walking ∧ s.mir.turn = .bulkNext ∧
      (s.tbl.liveHandles.find? fun k => decide (s.mir.cursor ≤ k)) = some 0 ∧
      (openWith 1312 [] (.running 1)).deltas.length + 96 = 1408 ∧ (s.tbl.liveHandles.find? fun k => decide (1 ≤ k)) = none) ∧
    (let s := fun (n coalesce outstanding : Nat) => { building .update n coalesce with
       mir := { (building .update n coalesce).mir with walk := .ending, dirty := [], replay := List.replicate outstanding d } }
     (∀ c ∈ [0, 1], ∀ k ∈ [62, 63], (s 1397 c k).mir.stream = .opened ∧
        (s 1397 c k).mir.openFrame = some (openWith 1397 [] (.running 1)) ∧ (s 1397 c k).mir.walk = .ending ∧
        (s 1397 c k).mir.dirty = [] ∧ (s 1397 c k).mir.replay.length = k ∧ (s 1397 c k).cfg.coalesceTime = c) ∧
      (openWith 1396 [] (.running 1)).deltas.length + 12 = 1408 ∧ 1408 < (openWith 1397 [] (.running 1)).deltas.length + 12) ∧
    (let s := fun (room : Nat) => { streaming (one .active) with
      mir := { (streaming (one .active)).mir with replay := List.replicate room d, sinceCheckpoint := 256 } }
     (s 63).mir.stream = .opened ∧ (s 63).mir.openFrame = none ∧ (s 63).mir.replay.length < 64 ∧ (s 63).mir.walk = .idle ∧
      (s 63).mir.dirty = [] ∧ 0 < (s 63).cfg.checkpointInterval ∧ (s 63).cfg.checkpointInterval = (s 63).mir.sinceCheckpoint ∧
      64 ≤ (s 64).mir.replay.length) ∧
    (one .active).mir.stream = .closed := by
  decide +kernel

/-- The stream OPEN, the clock RUNNING, with a frame to close that carries the CREATE of a held session. -/
def closing (path : Option PathId) : State :=
  let s := clocked 0 0 (streaming (one .active))
  { s with
    mir := { s.mir with openFrame := some (openWith 96 [(0, 1#16)] (.running 0)), dataPath := path, nextSeq := 65535#16 }
    hold := [heldBy 0 1#16 (.running 5) none] }

theorem witness_coalesce :
    (closing none).mir.openFrame = some (openWith 96 [(0, 1#16)] (.running 0)) ∧ (closing none).tim.running = true ∧
      sparseSorted (closing none).tbl.records = true ∧ (closing none).mir.dataPath = none ∧
      (closing (some .primary)).mir.dataPath = some .primary ∧ (closing (some .secondary)).mir.dataPath = some .secondary ∧
      (closing (some .secondary)).cfg.tunnelEnable = true := by
  decide

/-- A DATA frame that waits for its acknowledgement. -/
def outstanding (seq : Word16) (removes : List Nat) : DataFrame :=
  { gen := 7#32, seq := seq, deltas := [3#8, 1#8, 0#8, 5#8, 0#8, 1#8, 0#8, 0#8], removes := removes, creates := [] }

/-- Two outstanding frames across the wrap of the sequence, the first of which carries the REMOVE of a RETIRED handle; a held
frame that each covers. -/
def acking : State :=
  let s := streaming (one .active)
  { s with
    tbl := { s.tbl with records := s.tbl.records ++ [(5, retiredRecord 1#16 .expired)] }
    hold := [heldBy 0 1#16 (.running 5) (some 65535#16), heldBy 9 1#16 (.running 5) (some 0#16)]
    pai := { s.pai with pairGen := 7#32 }
    mir := { s.mir with replay := [outstanding 65535#16 [5], outstanding 0#16 []], nextSeq := 1#16, replayTimer := .running 9 } }

/-- An ACK with the generation, next_expected and gap flag given. -/
def ackMessage (gap : Byte) (next : Nat) (gen : Nat) : List Byte := [3#8, gap] ++ nat16 next ++ nat32 gen

/-- On each path, an ACK of a generation that is not the pair generation, one that acknowledges nothing, one that names a frame
not yet sent, one that acknowledges the first frame alone, with and without the gap flag and with a limit of 1, and one that
acknowledges both; and an ACK for an empty replay queue. -/
theorem witness_ack :
    let k := fun (path : PathId) (next : Nat) => (word16At (brought path (ackMessage 0#8 next 7)) 2 - oldestSeq acking.mir).toNat
    (∀ path ∈ paths, ∀ gap ∈ [0#8, 1#8], ∀ next ∈ [65535, 0, 1, 2], ∀ gen ∈ [6, 7],
      Arrives path acking (bringing path (ackMessage gap next gen)) (brought path (ackMessage gap next gen))) ∧
    (∀ path ∈ paths,
      (byteAt (brought path (ackMessage 0#8 1 7)) 0 = 3#8 ∧ acking.pai.role ≠ .detached) ∧
      (word32At (brought path (ackMessage 0#8 1 6)) 4 ≠ acking.pai.pairGen ∧ k path 65535 = 0 ∧
        (byteAt (brought path (ackMessage 0#8 1 7)) 1).getLsbD 0 = false ∧
        (byteAt (brought path (ackMessage 1#8 1 7)) 1).getLsbD 0 = true) ∧
      (acking.mir.stream = .opened ∧ word32At (brought path (ackMessage 0#8 1 7)) 4 = acking.pai.pairGen ∧
        acking.mir.replay.length < k path 2 ∧ 1 ≤ k path 0 ∧ k path 0 < acking.mir.replay.length ∧
        k path 1 = acking.mir.replay.length ∧ sparseSorted acking.tbl.records = true)) ∧
    (acking.prt.wQueue.length + acking.hold.length ≤ 128 ∧ (acking.mir.replay.flatMap DataFrame.removes).Nodup ∧
      acking.mir.dataPath = some .primary ∧ acking.prt.sQueue.length + acking.mir.replay.length ≤ 80 ∧
      acking.cfg.replayLimit ≠ 1 ∧ ({ acking.cfg with replayLimit := 1 } : ConfigRec).replayLimit = 1) ∧
    ((streaming (one .active)).mir.replay = [] ∧ (streaming (one .active)).mir.stream = .opened) :=
  ⟨fun path hp gap hg next hn gen he => arrives_of_check ((show ∀ path ∈ paths, ∀ gap ∈ [0#8, 1#8],
      ∀ next ∈ [65535, 0, 1, 2], ∀ gen ∈ [6, 7], arrivesCheck path (ackMessage gap next gen) acking = true by decide +kernel)
      path hp gap hg next hn gen he), by decide +kernel⟩

/-- The same stream with the clock RUNNING, its replay timer expired, a data path and a replay count given. -/
def replaying (count : Nat) (data : Option PathId) (other : Bool) : State :=
  clocked 0 0 { acking with
    mir := { acking.mir with replayTimer := .running 0, replayCount := count, dataPath := data }
    pai := { acking.pai with secondary := { acking.pai.secondary with up := other } } }

/-- The timer's expiry and a gap ACK of each path, with each data path and with none, below the limit and at it; at the limit the
other path is left, or none; and a gap ACK that the latch holds. -/
theorem witness_retransmission :
    let ack := ackMessage 1#8 65535 7
    (∀ path ∈ paths, Arrives path (replaying 2 none false) (bringing path ack) (brought path ack)) ∧
    (∀ data ∈ [none, some .primary, some .secondary],
      roomAgain data (replaying 2 data true) ∧ (replaying 2 data true).mir.dataPath = data) ∧
    (∀ data ∈ [none, some PathId.primary, some .secondary],
      let s := replaying 2 data true
      s.mir.stream = .opened ∧ s.mir.replay ≠ [] ∧ s.tim.running = true ∧ s.mir.replayTimer = .running 0 ∧
        s.mir.replayCount + 1 ≠ s.cfg.replayLimit ∧ (replaying 3 data true).mir.replayCount + 1 = s.cfg.replayLimit ∧
        s.pai.role ≠ .detached) ∧
    (∀ path ∈ paths,
      word16At (brought path ack) 2 = oldestSeq (replaying 2 none false).mir ∧ (byteAt (brought path ack) 1).getLsbD 0 = true ∧
        byteAt (brought path ack) 0 = 3#8 ∧ word32At (brought path ack) 4 = (replaying 2 none false).pai.pairGen ∧
        (replaying 2 none false).mir.gapLatch ≠ some (word16At (brought path ack) 2) ∧
        ({ acking.mir with gapLatch := some 65535#16 } : Mir).gapLatch = some (word16At (brought path ack) 2)) ∧
    (let m := fun (s : State) => { s.mir with suspendedPrimary := true, revertElapsed := 0 }
     pathChosen (replaying 3 (some .primary) true) (m (replaying 3 (some .primary) true)) = some .secondary ∧
      pathChosen (replaying 3 (some .primary) false) (m (replaying 3 (some .primary) false)) = none) := by
  refine ⟨fun path hp => arrives_of_check ((show ∀ path ∈ paths,
    arrivesCheck path (ackMessage 1#8 65535 7) (replaying 2 none false) = true by decide +kernel) path hp),
    fun data hd => ⟨?_, ?_⟩, by decide +kernel⟩
  · fin_cases hd <;> (unfold roomAgain; decide)
  · fin_cases hd <;> rfl

/-- The clock RUNNING and the primary suspended, with its revert timer at its end and one tick before it; RESUME_PATH; and an
S-port frame with a bad FCS that brings the count to the threshold. -/
theorem witness_suspensions :
    let s := fun (elapsed : Nat) => clocked 0 0 { acking with mir := { acking.mir with
      suspendedPrimary := true, dataPath := none, revertElapsed := elapsed } }
    (Commanded 6#8 (queued (control 6 0) (s 0)) (readRequest (control 6 0)) [] ∧
      Commanded 6#8 (queued (control 6 0) part) (readRequest (control 6 0)) []) ∧
    ((s 10000).tim.running = true ∧ (s 10000).mir.suspendedPrimary = true ∧ (s 10000).pai.primary.up = true ∧
      (s 10000).cfg.revertPeriod * 1000 = (s 10000).mir.revertElapsed ∧ (s 10000).cfg.revertPeriod ≠ 0 ∧
      (s 9999).mir.revertElapsed < (s 9999).cfg.revertPeriod * 1000) ∧
    ((s 0).pai.role ≠ .detached ∧ part.pai.role = .detached) ∧
    ((ofLength 64 false).fcsGood = false ∧
      min (({ acking.mir with fcsCount := 15 } : Mir).fcsCount + 1) 65535 = acking.cfg.fcsThreshold ∧
      acking.mir.suspendedPrimary = false ∧ acking.mir.stream = .opened) :=
  ⟨⟨commanded_queued _ _ _ (by decide) (by decide), commanded_queued _ _ _ (by decide) (by decide)⟩, by decide⟩

/-! ## The shadow receiver (O38 to O41) -/

/-- A standby part bound to generation 7 that expects sequence 65535. -/
def shadowing (unacked : Nat) : State :=
  let s := one .standbySync
  { s with shd := { s.shd with bound := true, adoptedGen := 7#32, expectedSeq := 65535#16, unacked := unacked } }

/-- A DATA frame with a delta, and what arrives behind the EtherType. -/
def dataMessage (gen seq : Nat) (deltas : List Byte) : List Byte :=
  [2#8, 0#8] ++ nat16 deltas.length ++ nat32 gen ++ nat16 seq ++ zeros 2 ++ deltas

/-- On each path a frame outside the standby roles; a newer one that begins a stream and one that does not; one of an older
generation; of the generation adopted one ahead (by 1 and by 32,767), a duplicate (by 32,768 and by 65,535), the next in order with
a delayed and with a counted ACK. -/
theorem witness_data :
    let begin_ := [4#8, 0#8, 0#8, 0#8] ++ nat32 32768 ++ zeros 4
    let s := shadowing 6
    (∀ path ∈ paths, ∀ m ∈ [dataMessage 7 65535 [], dataMessage 8 1 [], dataMessage 6 0 [], dataMessage 8 0 begin_],
      Arrives path s (bringing path m) (brought path m)) ∧
    (s.pai.role ≠ .detached ∧ (one .active).pai.role.isStandby = false) ∧
    (∀ path ∈ paths,
      let get := fun (gen seq : Nat) => brought path (dataMessage gen seq [])
      let first := brought path (dataMessage 8 0 begin_)
      let d := fun (seq : Nat) => (word16At (get 7 seq) 8 - s.shd.expectedSeq).toNat
      byteAt (get 7 65535) 0 = 2#8 ∧
      (seqAfter (word32At (get 8 1) 4) s.shd.adoptedGen = true ∧ word16At (get 8 1) 8 ≠ 0#16 ∧
        seqAfter (word32At (get 6 0) 4) s.shd.adoptedGen = false ∧ word32At (get 6 0) 4 ≠ s.shd.adoptedGen) ∧
      (s.pai.role = .standbySync ∧ word16At first 8 = 0#16 ∧ word16At first 2 = 12#16 ∧
        24 ≤ first.length ∧ byteAt first 12 = 4#8 ∧ (word32At first 16).toNat = 32768 ∧ s.shd.unacked + 1 < 8 ∧
        s.cfg.ackDelay ≠ 0) ∧
      (s.shd.bound = true ∧ word32At (get 7 65535) 4 = s.shd.adoptedGen ∧ d 0 = 1 ∧ d 32766 = 32767 ∧ d 32767 = 32768 ∧
        d 65534 = 65535 ∧ d 65535 = 0 ∧ word16At (get 7 65535) 2 = 0#16 ∧ 8 ≤ (shadowing 7).shd.unacked + 1)) :=
  ⟨fun path hp m hm => arrives_of_check ((show ∀ path ∈ paths, ∀ m ∈ [dataMessage 7 65535 [], dataMessage 8 1 [],
      dataMessage 6 0 [], dataMessage 8 0 ([4#8, 0#8, 0#8, 0#8] ++ nat32 32768 ++ zeros 4)],
      arrivesCheck path m (shadowing 6) = true by decide +kernel) path hp m hm), by decide, by decide +kernel⟩

/-- On each path the next frame in order with three deltas, a REMOVE that is ignored, a CHECKPOINT and one that is malformed; and
a newer one that begins a stream with its CHECKPOINT behind it. -/
theorem witness_data_deltas :
    let ds := [3#8, 1#8] ++ nat16 5 ++ bytes16 1#16 ++ zeros 2 ++ ([7#8, 0#8, 0#8, 0#8] ++ nat32 1 ++ nat32 1) ++ [9#8]
    let begin_ := [4#8, 0#8, 0#8, 0#8] ++ nat32 1 ++ zeros 4 ++ ([7#8, 0#8, 0#8, 0#8] ++ nat32 1 ++ nat32 1)
    let s := shadowing 7
    (∀ path ∈ paths, ∀ m ∈ [dataMessage 7 65535 ds, dataMessage 8 0 begin_], Arrives path s (bringing path m) (brought path m)) ∧
    (∀ path ∈ paths,
      let p := brought path (dataMessage 7 65535 ds)
      let q := brought path (dataMessage 8 0 begin_)
      (byteAt p 0 = 2#8 ∧ word32At p 4 = s.shd.adoptedGen ∧ word16At p 8 = s.shd.expectedSeq ∧
        slice p 12 (word16At p 2).toNat = ds) ∧
      ((slice q 12 (word16At q 2).toNat).head? = some 4#8 ∧ seqAfter (word32At q 4) s.shd.adoptedGen = true ∧
        word16At q 8 = 0#16)) :=
  ⟨fun path hp m hm => arrives_of_check ((show ∀ path ∈ paths, ∀ m ∈ [dataMessage 7 65535
        ([3#8, 1#8] ++ nat16 5 ++ bytes16 1#16 ++ zeros 2 ++ ([7#8, 0#8, 0#8, 0#8] ++ nat32 1 ++ nat32 1) ++ [9#8]),
      dataMessage 8 0 ([4#8, 0#8, 0#8, 0#8] ++ nat32 1 ++ zeros 4 ++ ([7#8, 0#8, 0#8, 0#8] ++ nat32 1 ++ nat32 1))],
      arrivesCheck path m (shadowing 7) = true by decide +kernel) path hp m hm), by decide +kernel⟩

/-- The image of a FLOW session, and of a TCP one. -/
def flowImage : Image := { state := .flow, finOrder := none, dirOrig := DirTracker.unseeded, dirReply := DirTracker.unseeded }

def tcpImage : Image := { state := .opened, finOrder := none, dirOrig := open39.dirOrig, dirReply := open39.dirReply }

/-- An UPDATE and a REMOVE of the LIVE record of the epoch, with a state that its protocol has and one that it has not; of
another epoch, and of a FREE handle; the record with a damaged body, and with a damaged anchor; a refresh list with the handle
on it, with one place left, and full. -/
theorem witness_deltas :
    let s := shadowing 0
    let damaged := fun (anchor : Bool) => { s with tbl := tableOf { record0 flowBody with anchorGood := anchor, bodyGood := false } }
    recordIntact s 0 ∧
      (s.pai.role.isStandby = true ∧ (recordOf s 0).handleState = .live ∧ (recordOf s 0).epoch = 1#16 ∧
        ((recordOf s 0).body.origKey.proto = 6#8 ↔ flowImage.state ≠ .flow) ∧
        ¬ ((recordOf s 0).body.origKey.proto = 6#8 ↔ tcpImage.state ≠ .flow) ∧
        ((recordOf (tcpOne open39 .standbyReady) 0).body.origKey.proto = 6#8 ↔ tcpImage.state ≠ .flow)) ∧
      ((recordOf s 0).epoch ≠ 2#16 ∧ (recordOf s 5).handleState ≠ .live ∧
        sparseSorted s.tbl.records = true ∧ sparseSorted s.tbl.slots = true) ∧
      ((recordOf (damaged true) 0).handleState = .live ∧ (recordOf (damaged true) 0).bodyGood = false ∧
        (recordOf (damaged true) 0).anchorGood = true ∧ (recordOf (damaged false) 0).anchorGood = false) ∧
      (0 ∈ [0] ∧ 0 ∉ List.range' 1 15 ∧ (List.range' 1 15).length < 16 ∧ 0 ∉ List.range' 1 16 ∧ 16 ≤ (List.range' 1 16).length) :=
  ⟨⟨rfl, rfl⟩, by decide⟩

/-- What a CREATE of the worked case's session carries. -/
def whole (proto : Byte) (image : Image) (flowClass : Nat) : Whole :=
  { image := image, origKey := origKey proto, replyKey := replyKey proto, nextHopOrig := 0x02A000000001#48
    nextHopReply := 0x02A000000032#48, flowClass := flowClass }

/-- The same session in place; a FREE handle whose keys find their places; one whose keys do not; the handle LIVE with another
epoch; another handle than the one that holds both keys; and a delta that does not fit. -/
theorem witness_placement :
    let s := shadowing 0
    let empty := inRole .standbySync part
    let crowded := { empty with tbl := filled (keyPositions seed (replyKey 17#8)) }
    let w := whole 17#8 flowImage 4
    (recordIntact s 0 ∧ recordIntact empty 32767) ∧
    (Misses empty w.origKey ∧ Misses empty w.replyKey ∧ Misses crowded w.origKey ∧ Misses crowded w.replyKey) ∧
    (slotsIntact s w.origKey ∧ slotsIntact s w.replyKey ∧ Finds s w.origKey 0 .orig ∧ Finds s w.replyKey 0 .reply) ∧
    (∃ x, empty.tbl.insertKeys empty.cfg.hashSeed w.origKey w.replyKey 32767 = some x) ∧
    ((∃ p ∈ enabledZones s.zones, p.1 = w.origKey.zone.toNat) ∧ (∃ p ∈ enabledZones s.zones, p.1 = w.replyKey.zone.toNat) ∧
      w.origKey ≠ w.replyKey ∧ w.origKey.proto = w.replyKey.proto ∧ w.origKey.proto ≠ 6#8 ∧ w.image.state = .flow ∧
      4 ≤ w.flowClass ∧ w.flowClass ≤ 7 ∧ ¬ 4 ≤ (whole 17#8 flowImage 3).flowClass) ∧
    ((recordOf s 0).handleState = .live ∧ (recordOf s 0).epoch = 1#16 ∧ (recordOf s 0).body.origKey = w.origKey ∧
      (recordOf s 0).body.replyKey = w.replyKey ∧ (recordOf s 0).epoch ≠ 2#16 ∧ (recordOf s 7).handleState ≠ .live) ∧
    ((recordOf empty 32767).handleState = .free ∧
      crowded.tbl.insertKeys crowded.cfg.hashSeed w.origKey w.replyKey 32767 = none) :=
  ⟨⟨⟨rfl, rfl⟩, rfl, rfl⟩,
    ⟨misses_of_check _ _ (by decide +kernel), misses_of_check _ _ (by decide +kernel),
      misses_of_check _ _ (by decide +kernel), misses_of_check _ _ (by decide +kernel)⟩,
    ⟨slotsIntact_of_check _ _ (by decide +kernel), slotsIntact_of_check _ _ (by decide +kernel),
      finds_of_check _ _ _ _ (by decide +kernel) ⟨rfl, rfl⟩ (by decide +kernel),
      finds_of_check _ _ _ _ (by decide +kernel) ⟨rfl, rfl⟩ (by decide +kernel)⟩,
    Option.isSome_iff_exists.mp (by decide +kernel), by decide +kernel⟩

theorem every_record_intact (k : Nat) : recordIntact (shadowing 0) k := by
  by_cases hk : k = 0
  · subst hk; exact ⟨rfl, rfl⟩
  · have : recordOf (shadowing 0) k = Record.fresh := one_record k hk
    exact ⟨by rw [this]; rfl, by rw [this]; rfl⟩

/-- A placement that meets other sessions meets the laws of the table. -/
theorem witness_replacement :
    (∀ k, recordIntact (shadowing 0) k) ∧ TableLaw (shadowing 0).tbl ∧ SlotLaw (shadowing 0).tbl :=
  ⟨every_record_intact, witness_table_law, witness_slot_law⟩

/-- On each path a CHECKPOINT that the table matches, and one that it does not, with BULK_WANTED clear and set. -/
theorem witness_checkpoint :
    let message := fun (count : Nat) => dataMessage 7 65535 ([7#8, 0#8, 0#8, 0#8] ++ nat32 count ++ nat32 1)
    let s := shadowing 6
    (∀ path ∈ paths, ∀ count ∈ [1, 32768], Arrives path s (bringing path (message count)) (brought path (message count))) ∧
    (s.pai.role.isStandby = true ∧ s.shd.bound = true ∧ s.shd.unacked + 1 < 8 ∧ s.cfg.ackDelay ≠ 0 ∧ s.shd.bulkWanted = false ∧
      ({ s.shd with bulkWanted := true } : Shd).bulkWanted = true ∧ s.prt.sQueue.length < 80) ∧
    (∀ path ∈ paths,
      (∀ count ∈ [1, 32768],
        let p := brought path (message count)
        byteAt p 0 = 2#8 ∧ word32At p 4 = s.shd.adoptedGen ∧ word16At p 8 = s.shd.expectedSeq ∧ word16At p 2 = 12#16 ∧
          24 ≤ p.length ∧ byteAt p 12 = 7#8 ∧ (word32At p 16).toNat = count) ∧
      (BitVec.ofNat 32 s.tbl.liveCount = word32At (brought path (message 1)) 16 ∧
        s.tbl.digestSum = word32At (brought path (message 1)) 20) ∧
      BitVec.ofNat 32 s.tbl.liveCount ≠ word32At (brought path (message 32768)) 16) :=
  ⟨fun path hp count hc => arrives_of_check ((show ∀ path ∈ paths, ∀ count ∈ [1, 32768],
      arrivesCheck path (dataMessage 7 65535 ([7#8, 0#8, 0#8, 0#8] ++ nat32 count ++ nat32 1)) (shadowing 6) = true by
      decide +kernel) path hp count hc), by decide, by decide +kernel⟩

/-- A standby part whose session is of the adopted generation, and one whose session is not; in each of the two roles. -/
theorem witness_bulk_end :
    let s := fun (role : Role) (gen : Word32) => { one role with shd := { (one role).shd with adoptedGen := gen } }
    (Safe (s .standbySync 7#32) ∧ Safe (s .standbyReady 0#32)) ∧
      ((s .standbySync 7#32).pai.role = .standbySync ∧ (s .standbyReady 0#32).pai.role = .standbyReady ∧
        (s .standbySync 7#32).pai.role.isStandby = true ∧ sparseSorted (s .standbySync 7#32).tbl.records = true ∧
        sparseSorted (s .standbySync 7#32).tbl.slots = true ∧
        (recordOf (s .standbySync 7#32) 0).body.gen ≠ (s .standbySync 7#32).shd.adoptedGen ∧
        (recordOf (s .standbyReady 0#32) 0).body.gen = (s .standbyReady 0#32).shd.adoptedGen) ∧
      (∀ h, recordIntact (s .standbySync 7#32) h) :=
  ⟨⟨safe_of_check _ (by decide), safe_of_check _ (by decide)⟩, by decide, every_record_intact⟩

/-! ## Pairing and roles (O42 to O51) -/

/-- The three timers expired with the clock RUNNING; a burst at its last round and one with two to go. -/
theorem witness_sending_timers :
    let s := clocked 0 0 { shadowing 3 with
      shd := { (shadowing 3).shd with ackTimer := .running 0 }
      pai := { (shadowing 3).pai with helloTimer := .running 0 } }
    s.tim.running = true ∧ s.shd.ackTimer = .running 0 ∧ s.pai.helloTimer = .running 0 ∧ s.pai.role ≠ .detached ∧
      ({ Tko.reset with burst := .running 1 (.running 0) } : Tko).burst = .running 1 (.running 0) ∧
      ({ Tko.reset with burst := .running 2 (.running 0) } : Tko).burst = .running 2 (.running 0) := by decide

/-- A hello for each row of R125, the revision row by its role, its count at 17 and a list longer than the frame; in DETACHED and
outside it; with the judgment that the path holds, and another. -/
theorem witness_judgments :
    let s := one .listen
    let h := peerHello 2#8 0#8
    (∀ path ∈ paths, ∀ s ∈ [one .detached, one .listen], Arrives path s (bringing path (helloBytes h)) (brought path (helloBytes h))) ∧
    (∀ path ∈ paths,
      let got := fun (h : Hello) => brought path (helloBytes h)
      let read := fun (h : Hello) => readHello (got h)
      (s.pai.role ≠ .detached ∧ (one .detached).pai.role = .detached) ∧ byteAt (got h) 0 = 1#8 ∧
      (read { h with stationId := 1#16 }).stationId = BitVec.ofNat 16 s.cfg.stationId ∧
      (read h).stationId ≠ BitVec.ofNat 16 s.cfg.stationId ∧
      (read { h with revision := 4#8 }).revision ≠ 3#8 ∧ (read { h with role := 0#8 }).role = 0#8 ∧
      8 < (read { h with role := 9#8 }).role.toNat ∧ 16 < (read { h with count := 17#8 }).count.toNat ∧
      (got { h with count := 5#8 }).length - 38 < 2 * (read { h with count := 5#8 }).count.toNat ∧
      ¬ (got { h with count := 2#8 }).length - 38 < 2 * (read { h with count := 2#8 }).count.toNat ∧
      (read { h with slotCount := 65567#32 }).slotCount ≠ 65568#32 ∧
      (read { h with zoneDigest := 0#32 }).zoneDigest ≠ zoneDigest s.zones ∧
      judgeHello s (read h) ((got h).length - 38) = .compatible ∧
      (s.pai.path path).judgment = .none ∧
      ((s.pai.setPath path { s.pai.path path with judgment := .compatible }).path path).judgment = .compatible) :=
  ⟨fun path hp s hs => arrives_of_check ((show ∀ path ∈ paths, ∀ s ∈ [one .detached, one .listen],
      arrivesCheck path (helloBytes (peerHello 2#8 0#8)) s = true by decide +kernel) path hp s hs), by decide +kernel⟩

/-- A part in each role in which a hello acts, the stream OPEN where the role may have it so, and a standby part that has seen an
active peer. -/
def hearing : List State :=
  [one .listen, one .solo, streaming (one .active), streaming (one .yielding), one .standbySync,
   { one .standbyReady with pai := { (one .standbyReady).pai with peerActiveSeen := true } }, streaming (one .takeover), one .faulted]

/-- A COMPATIBLE hello of each role, which reaches a part in each of its roles on each path, the primary UP and DOWN; with equal
priorities the lower station id wins, and with a lower priority it loses; and a hello with the YIELD flag. -/
theorem witness_listen_hellos :
    let hellos := [1#8, 2#8, 3#8, 4#8, 5#8, 6#8, 7#8, 8#8].map fun role => peerHello role 0#8
    (∀ path ∈ paths, ∀ h ∈ hellos, ∀ s ∈ hearing,
      Arrives path s (bringing path (helloBytes h)) (brought path (helloBytes h))) ∧
    (∀ s ∈ hearing, Safe s) ∧
    (∀ path ∈ paths,
      let p := fun (h : Hello) => brought path (helloBytes h)
      (∀ h ∈ hellos, byteAt (p h) 0 = 1#8 ∧ readHello (p h) = h) ∧
      (∀ s ∈ hearing, s.pai.role ≠ .detached ∧
        ∀ h ∈ hellos, judgeHello s (readHello (p h)) ((p h).length - 38) = .compatible) ∧
      ((readHello (p (peerHello 1#8 0#8))).priority.toNat = part.cfg.priority ∧
        part.cfg.stationId < (readHello (p (peerHello 1#8 0#8))).stationId.toNat) ∧
      ({ part.cfg with priority := 127 } : ConfigRec).priority < (readHello (p (peerHello 1#8 0#8))).priority.toNat ∧
      (readHello (p (peerHello 7#8 2#8))).flags.getLsbD 1 = true) ∧
    ((one .listen).pai.primary.up = false ∧ (streaming (one .active)).pai.primary.up = true) :=
  ⟨fun path hp h hh s hs => arrives_of_check ((show ∀ path ∈ paths,
      ∀ h ∈ [1#8, 2#8, 3#8, 4#8, 5#8, 6#8, 7#8, 8#8].map fun role => peerHello role 0#8, ∀ s ∈ hearing,
      arrivesCheck path (helloBytes h) s = true by decide +kernel) path hp h hh s hs),
    fun s hs => safe_of_check s ((show ∀ s ∈ hearing, safeCheck s = true by decide) s hs), by decide +kernel⟩

theorem witness_hello_bytes :
    let h := { peerHello 5#8 3#8 with count := 16#8, refresh := List.replicate 16 0x1234#16 }
    h.refresh.length = h.count.toNat ∧ h.refresh.length ≤ 16 := by decide

/-- A FLOW record with class 255 at the last handle, trackers at the ends of their ranges, a RETIRED record, a full table. -/
theorem witness_delta_bytes :
    let t := { open39.dirOrig with wscale := 14#4, maxWin := BitVec.ofNat 32 (2 ^ 30) }
    let b := { flowBody with dirOrig := t, dirReply := t, flowClass := some 255 }
    32767 < 32768 ∧ b.state ≠ .none ∧ (b.dirOrig.wscale.toNat ≤ 14 ∧ b.dirOrig.maxWin.toNat ≤ 2 ^ 30) ∧
      (isUnicast b.nextHopOrig = true ∧ isUnicast b.nextHopReply = true ∧ b.flowClass.getD 0 < 256) ∧
      (retiredRecord 1#16 .parity).removalReason = some .parity ∧
      ({ part with tbl := { part.tbl with liveCount := 32768 } } : State).tbl.liveCount ≤ 32768 := by decide

/-- The bytes of each delta with a field beyond its range: a kind, a length, a handle, a state, a fin_order, a scale, a window, a
reason, a count, a next hop. -/
theorem witness_no_delta :
    let whole := createBytes 1#8 7 (record0 flowBody)
    let spoil := fun (i : Nat) (b : Byte) => overwrite whole i [b]
    let gone := removeBytes 7 (retiredRecord 1#16 .parity)
    let marked := digestBytes 7#8 { part with tbl := { part.tbl with liveCount := 32769 } }
    (byteAt (spoil 0 0#8) 0 = 0#8 ∧ byteAt (spoil 0 8#8) 0 = 8#8 ∧ byteAt whole 0 = 1#8 ∧ (whole.take 95).length < 96) ∧
      ((word16At (spoil 2 128#8) 2).toNat = 32775 ∧ (byteAt (spoil 1 0x10#8) 1).toNat % 16 = 0 ∧ (byteAt (spoil 1 8#8) 1).toNat % 16 = 8 ∧
        (byteAt (spoil 1 0x37#8) 1).toNat / 16 % 4 = 3 ∧ (byteAt (spoil 6 15#8) 6).toNat % 16 = 15 ∧
        2 ^ 30 < (word32At (spoil 40 0x80#8) (27 + 13)).toNat ∧ isUnicast (macAt (spoil 80 1#8) 80) = false ∧
        isUnicast (macAt (spoil 86 1#8) 86) = false) ∧
      (byteAt gone 0 = 3#8 ∧ (gone.take 7).length < 8 ∧ byteAt (overwrite gone 1 [5#8]) 1 = 5#8) ∧
      (byteAt marked 0 = 7#8 ∧ 32768 < (word32At marked 4).toNat) := by decide +kernel

/-- A part in a role with its clock RUNNING whose dead timers have expired, the secondary UP or not. -/
def dying (role : Role) (other : Bool) : State :=
  let s := clocked 0 0 (one role)
  { s with pai := { s.pai with
      primary := { s.pai.primary with up := true, deadTimer := .running 0 }
      secondary := { s.pai.secondary with up := other, deadTimer := .running 0 } } }

theorem witness_dead_timers :
    (∀ s ∈ [dying .listen false, dying .solo false, streaming (dying .active false), streaming (dying .yielding false),
      dying .standbySync false, dying .standbyReady false, streaming (dying .takeover false), dying .faulted false], Safe s) ∧
    ((dying .active true).tim.running = true ∧ (dying .active true).pai.primary.deadTimer = .running 0 ∧
      (dying .active true).pai.primary.up = true ∧ (dying .active true).pai.secondary.up = true ∧
      (dying .active true).pai.secondary.deadTimer = .running 0) ∧
    ((streaming (dying .active false)).pai.primary.deadTimer = .running 0 ∧ (streaming (dying .active false)).pai.primary.up = true ∧
      (streaming (dying .active false)).pai.secondary.up = false ∧ (streaming (dying .active false)).mir.stream = .opened ∧
      (dying .standbyReady false).mir.stream = .closed) :=
  ⟨fun s hs => safe_of_check s ((show ∀ s ∈ [dying .listen false, dying .solo false, streaming (dying .active false),
      streaming (dying .yielding false), dying .standbySync false, dying .standbyReady false, streaming (dying .takeover false),
      dying .faulted false], safeCheck s = true by decide) s hs), by decide⟩

/-- The clock RUNNING and the listen timer expired; the grace timer expired with a usable peer, with a FAULTED one, and with no
path UP. -/
def ending (role : Byte) (up : Bool) : State :=
  let s := clocked 0 0 (one .takeover)
  { s with
    pai := { s.pai with
      primary := { s.pai.primary with up := up }, peer := some { hello := peerHello role 0#8, path := .primary } }
    tko := { s.tko with grace := .running 0 } }

theorem witness_listen_and_grace :
    (({ (one .listen).pai with listenTimer := .running 0 } : Pai).role = .listen) ∧
      ((ending 4#8 true).tim.running = true ∧ (ending 4#8 true).pai.role = .takeover ∧ (ending 4#8 true).tko.grace = .running 0) ∧
      ((ending 4#8 true).pai.primary.up = true ∧ (ending 4#8 true).pai.peer.map (fun pr => pr.hello.shownRole) = some (some .standbySync)) ∧
      (ending 8#8 true).pai.peer.map (fun pr => pr.hello.shownRole) = some (some .faulted) ∧
      ((ending 4#8 false).pai.primary.up = false ∧ (ending 4#8 false).pai.secondary.up = false) := by decide

/-- YIELDING and drained; YIELDING with a frame outstanding and the drain timer expired. -/
theorem witness_drain :
    let s := clocked 0 0 (streaming (one .yielding))
    (s.pai.role = .yielding ∧ s.pai.yieldFlag = false ∧ s.mir.stream = .opened ∧ s.mir.dirty = [] ∧ s.mir.openFrame = none ∧
      s.mir.walk = .idle ∧ s.mir.replay = []) ∧
    ({ s.mir with replay := [outstanding 0#16 []] } : Mir).replay ≠ [] ∧ s.tim.running = true ∧
    ({ s.pai with drainTimer := .running 0 } : Pai).drainTimer = .running 0 ∧ s.prt.sQueue.length < 80 := by decide

/-- START in DETACHED with a good configuration, with a zone on sync_vlan, with two zones on one VLAN, and in LISTEN. -/
theorem witness_start :
    Commanded 1#8 (queued (control 1 0) part) (readRequest (control 1 0)) [] ∧
      (part.pai.role = .detached ∧ part.cfg.stationId ≠ 0 ∧ isUnicast part.cfg.stationMac = true ∧ part.cfg.stationMac ≠ 0#48 ∧
        (enabledZones part.zones).map (fun p => p.2.vlan) = [10, 20] ∧
        (part.cfg.syncVlan :: (enabledZones part.zones).map fun p => p.2.vlan).Nodup) ∧
      ¬ (20 :: (enabledZones part.zones).map fun p => p.2.vlan).Nodup ∧
      ¬ ((enabledZones (part.zones.set 0 zoneB)).map fun p => p.2.vlan).Nodup ∧ (inRole .listen part).pai.role ≠ .detached :=
  ⟨commanded_queued _ _ _ (by decide) (by decide), by decide +kernel⟩

/-- STOP, TAKE, YIELD and RESUME, each in its own role and out of it. -/
theorem witness_role_commands :
    let peer := fun (s : State) => { s with pai := { s.pai with
      primary := { s.pai.primary with up := true }, peer := some { hello := peerHello 5#8 0#8, path := .primary } } }
    (∀ n ∈ [2, 3, 4, 5], ∀ s, Commanded (BitVec.ofNat 8 n) (queued (control n 0) s) (readRequest (control n 0)) []) ∧
      ((one .standbyReady).pai.role = .standbyReady ∧ (one .standbySync).pai.role ≠ .standbyReady ∧ (one .faulted).pai.role = .faulted ∧
        (one .active).pai.role ≠ .detached ∧ (peer (one .active)).pai.role = .active ∧ (peer (one .active)).pai.primary.up = true ∧
        (peer (one .active)).pai.peer.map (fun pr => pr.hello.shownRole) = some (some .standbyReady)) := by
  refine ⟨fun n hn s => ?_, by decide⟩
  fin_cases hn <;> exact commanded_queued _ _ _ (by decide) (by decide)

/-! ## The time base, the agent, faults and notices (O52 to O60) -/

/-- A patrol step over handle 0 at a second given, from the cursor given, the clock RUNNING. -/
def patrolling (seconds cursor rate : Nat) : State :=
  let s := one .active
  { s with
    cfg := { s.cfg with patrolRate := rate }
    tim := { s.tim with running := true, seconds := BitVec.ofNat 32 seconds, cursor := cursor, patrolDue := true } }

/-- The condition of `visitIntact` as a check. -/
def visitCheck (s : State) (h : Nat) : Bool :=
  (recordOf s h).anchorGood && (recordOf s h).bodyGood &&
    [(recordOf s h).slotOrig, (recordOf s h).slotReply].all fun p => match s.tbl.slot p with
      | none => true
      | some sl => sl.keyGood && sl.refGood

theorem visits_of_check {s : State} {hs : List Nat} (c : hs.all (visitCheck s) = true) : ∀ h ∈ hs, visitIntact s h := by
  intro h hh
  have i := List.all_eq_true.mp c h hh
  simp only [visitCheck, List.all_cons, List.all_nil, Bool.and_true, Bool.and_eq_true] at i
  refine ⟨⟨i.1.1, i.1.2⟩, fun _ sl e => ?_⟩
  rcases e with e | e
  · simpa [e] using i.2.1
  · simpa [e] using i.2.2

/-- The last of nine visited handles has the session: a second younger than its timeout of 60 s, and exactly as old; the step
wraps behind 32,767. -/
theorem witness_patrol :
    let s := patrolling 59 32760 9
    let t := patrolling 60 32760 9
    (s.tim.cursor < 32768 ∧ s.tim.running = true ∧ s.tim.patrolDue = true ∧ s.pai.role.isActive = true ∧
      patrolled s = [32760, 32761, 32762, 32763, 32764, 32765, 32766, 32767, 0] ∧ (recordOf s 0).handleState = .live ∧
      ∀ h ∈ patrolled s, (recordOf s h).handleState = .live → ¬ isOld s h) ∧
    (patrolled t = patrolled s ∧ isOld t 0 ∧ (recordOf t 0).handleState = .live ∧ sparseSorted t.tbl.records = true ∧
      sparseSorted t.tbl.slots = true) ∧
    ((∀ h ∈ patrolled s, visitIntact s h) ∧ (∀ h ∈ patrolled t, visitIntact t h)) ∧
    (one .active).tim.patrolDue = false :=
  ⟨by unfold isOld; decide +kernel, by unfold isOld; decide +kernel,
    ⟨visits_of_check (by decide +kernel), visits_of_check (by decide +kernel)⟩, rfl⟩

/-- A step of three visits, with old sessions at the first and the third: the second finds a damaged anchor, a damaged body, a
slot with a damaged key that the record claims, and a slot with a damaged reference. -/
theorem witness_damaged_visit :
    let base := patrolling 60 32767 3
    let old := { record0 flowBody with slotOrig := 5, slotReply := 6 }
    let sl := fun (key ref : Bool) =>
      ({ key := replyKey 17#8, handle := 0, dir := .reply, keyGood := key, refGood := ref } : Slot)
    let s := fun (anchor body key ref : Bool) => { base with
      tbl := { base.tbl with
        records := [(0, { record0 flowBody with anchorGood := anchor, bodyGood := body }), (1, old), (32767, old)]
        slots := sparsePut base.tbl.slots 36104 (sl key ref) } }
    let anchor := s false true true true
    let body := s true false true true
    let claimed := s true true false true
    let lost := s true true true false
    let all := [anchor, body, claimed, lost]
    ((∀ u ∈ all, u.tim.running = true ∧ u.tim.patrolDue = true ∧ u.pai.role.isActive = true ∧ patrolled u = [32767] ++ 0 :: [1] ∧
      sparseSorted u.tbl.records = true ∧ sparseSorted u.tbl.slots = true ∧ isOld u 32767 ∧ isOld u 1) ∧
      ((recordOf anchor 0).anchorGood = false ∧ (recordOf body 0).anchorGood = true ∧ (recordOf body 0).handleState = .live ∧
        (recordOf body 0).bodyGood = false) ∧
      (∀ u ∈ [claimed, lost], recordOf u 0 = record0 flowBody ∧
        u.tbl.slot 62540 = some { key := origKey 17#8, handle := 0, dir := .orig, keyGood := true, refGood := true }) ∧
      (claimed.tbl.slot 36104 = some (sl false true) ∧ (recordOf claimed 0).slotReply = 36104 ∧
        lost.tbl.slot 36104 = some (sl true false) ∧ (sl true false).refGood = false)) ∧
    ∀ u ∈ all, ∀ h ∈ [32767, 1], visitIntact u h := by
  intro base old sl s anchor body claimed lost all
  refine ⟨by unfold isOld; decide +kernel, fun u hu => visits_of_check ?_⟩
  have c : ∀ u ∈ all, [32767, 1].all (visitCheck u) = true := by decide +kernel
  exact c u hu

/-- Each of the three actions; a HALTED clock, and a RUNNING one with nothing due. -/
theorem witness_clock_commands :
    (∀ n ∈ [11, 12], Commanded (BitVec.ofNat 8 n) (queued (control n 0) (clocked 0 0 part)) (readRequest (control n 0)) []) ∧
      Commanded 13#8 (queued (control 13 4294967295) (one .active)) (readRequest (control 13 4294967295)) [] ∧
      (one .active).tim.running = false ∧ (queued (control 12 0) (clocked 0 0 part)).tim.running = true := by
  refine ⟨fun n hn => ?_, commanded_queued _ _ _ (by decide) (by decide), by decide⟩
  fin_cases hn <;> exact commanded_queued _ _ _ (by decide) (by decide)

/-- A READ that counts down to index 0, one whose response just fits, one of COUNTERS that circulates over two counters with the
clear flag; and one for each refusal: an object that is none; no entry, a step mode 4, a span of 0 and of 5, the clear flag on
another object; an index below 0 and one above the highest; a response that is an entry too long. -/
theorem witness_read :
    let f := [readOf 2 7 8 1 0 0, readOf 4 32757 11 0 0 0, readOf 6 62 5 3 2 1, readOf 10 0 1 0 0 0, readOf 2 0 0 0 0 0,
      readOf 2 0 1 4 0 0, readOf 2 0 1 3 0 0, readOf 2 0 1 3 5 0, readOf 2 0 1 0 0 1, readOf 2 6 8 1 0 0, readOf 2 7 2 0 0 0,
      readOf 4 0 12 0 0 0]
    let r := fun (i : Nat) => readRequest (f.getD i [])
    (∀ g ∈ f, Waiting (queued g part) (readRequest g) [] ∧ (readRequest g).command = 1) ∧
    ((r 0).stepMode = 1 ∧ (r 0).count = (r 0).index + 1 ∧ (∀ k < (r 0).count, (r 0).index - k < 8)) ∧
    ((r 1).count * Object.session.entrySize = 1408 ∧ (∀ k < (r 1).count, (r 1).index + k < 32768)) ∧
    (∀ k < (r 1).count, recordIntact part ((r 1).index + k)) ∧
    ((r 2).object = 6 ∧ (r 2).clear = true ∧ (∀ k < (r 2).count, (r 2).index + k % (r 2).span < 64) ∧
      1 ≤ (r 2).span ∧ (r 2).span ≤ 4) ∧
    (Object.ofCode (r 3).object = none ∧ (r 4).count = 0 ∧ ¬ (r 5).stepMode < 4 ∧ ((r 6).stepMode = 3 ∧ (r 6).span = 0) ∧
      ((r 7).stepMode = 3 ∧ 4 < (r 7).span) ∧ ((r 8).clear = true ∧ Object.ofCode (r 8).object = some .zones)) ∧
    (((r 9).stepMode = 1 ∧ (r 9).index + 1 < (r 9).count) ∧ ((r 10).stepMode = 0 ∧ (r 10).index + 1 = Object.zones.indices) ∧
      ((r 11).count - 1) * Object.session.entrySize = 1408) := by
  refine ⟨fun g hg => ?_, by decide, by decide +kernel, fun _ _ => ⟨rfl, rfl⟩, by decide, by decide, by decide⟩
  have h := (show ∀ g ∈ [readOf 2 7 8 1 0 0, readOf 4 32757 11 0 0 0, readOf 6 62 5 3 2 1, readOf 10 0 1 0 0 0, readOf 2 0 0 0 0 0,
      readOf 2 0 1 4 0 0, readOf 2 0 1 3 0 0, readOf 2 0 1 3 5 0, readOf 2 0 1 0 0 1, readOf 2 6 8 1 0 0, readOf 2 7 2 0 0 0,
      readOf 4 0 12 0 0 0], (readRequest g).length ≤ (readRequest g).rest ∧ (readRequest g).command = 1 by decide) g hg
  exact ⟨waiting_queued _ _ h.1, h.2⟩

/-- What an entry shows: a configuration and a zone in range; an error record; a FREE, a RETIRED and a LIVE handle with its
trackers in range; a peer record with the longest refresh list; a role history of one record; a comparison. -/
theorem witness_entries :
    (part.cfg.clamped = part.cfg ∧ part.cfg.stationId < 65536 ∧ part.cfg.priority < 256 ∧ (zoneAt part.zones 1).vlan < 65536) ∧
    (ErrClass.ofCode 3 = some .fault ∧ (part.flt.record .fault).first = none ∧
      ∃ e, ((report .tbl3 (ErrInfo.ofHandle 0) part).flt.record .fault).first = some e) ∧
    ((recordOf (one .active) 5).handleState = .free ∧ (retiredRecord 1#16 .expired).handleState = .retired ∧
      (recordOf (one .active) 0).handleState = .live ∧ open39.dirOrig.wscale.toNat ≤ 14 ∧ open39.dirOrig.maxWin.toNat ≤ 2 ^ 30 ∧
      open39.dirReply.wscale.toNat ≤ 14 ∧ open39.dirReply.maxWin.toNat ≤ 2 ^ 30) ∧
    (List.replicate 16 0x1234#16).length ≤ 16 :=
  ⟨by decide, ⟨rfl, rfl, _, rfl⟩, by decide, by decide⟩

/-- A WRITE. -/
def writeOf (obj idx cnt : Nat) (payload : List Byte) : Frame := request 2 obj idx cnt 0 0 0 payload

/-- A WRITE in a step mode. -/
def writeIn (obj idx cnt mode span clear : Nat) (payload : List Byte) : Frame := request 2 obj idx cnt mode span clear payload

/-- A CONFIG entry in DETACHED; one that changes a free field alone, and one that changes a fixed field, in LISTEN; one with equal
EtherTypes; one with a hold timeout out of range; one that counts down from index 0; and eleven that circulate over one index,
which fill the payload. -/
theorem witness_config_write :
    let f := fun (c : ConfigRec) => writeOf 1 0 1 (configEntry c)
    let r := fun (c : ConfigRec) => readRequest (f c)
    let c := part.cfg
    let s := fun (c' : ConfigRec) (role : Role) => queued (f c') (inRole role part)
    let down := writeIn 1 0 1 1 0 0 (configEntry c)
    let many := writeIn 1 0 11 3 1 0 ((List.range 11).flatMap fun k => configEntry { c with priority := k })
    (∀ g ∈ [f c, down, many], Waiting (queued g part) (readRequest g) []) ∧
    (∀ q ∈ [readRequest (f c), readRequest down, readRequest many], q.command = 2 ∧ q.object = 1 ∧ fieldsAllowed q ∧
      q.clear = false ∧ placesWithin q 1 ∧ q.count * 128 ≤ 1408 ∧ q.length = q.count * 128) ∧
    ((readRequest many).count * 128 = 1408 ∧ (s c .detached).pai.role = .detached) ∧
    ((readConfig (r { c with priority := 7 }).payload).clamped.withFree c = c ∧
      (readConfig (r { c with stationId := 7 }).payload).clamped.withFree c ≠ c) ∧
    (readConfig (r { c with mirrorEthertype := c.mgmtEthertype }).payload).clamped.mirrorEthertype = c.mgmtEthertype ∧
    (readConfig (r { c with holdTimeout := 201 }).payload).clamped ≠ readConfig (r { c with holdTimeout := 201 }).payload := by
  intro f r c s down many
  refine ⟨fun g hg => waiting_queued _ _ ?_, by unfold fieldsAllowed placesWithin; decide +kernel, by decide +kernel⟩
  have h : ∀ g ∈ [f c, down, many], (readRequest g).length ≤ (readRequest g).rest := by decide +kernel
  exact h g hg

/-- ZONES to the last index, in DETACHED and in LISTEN, with a group MAC on an enabled zone, and with VLAN 4095; TIMEOUTS with 0 and
with 1,048,576; STATUS with bit 8 and with bit 9; CLOCK with 149,999 and the run states 1 and 2. -/
theorem witness_table_writes :
    let zones := writeOf 2 6 2 (zoneEntry zoneA ++ zoneEntry { zoneB with vlan := 4095 })
    let group := writeOf 2 7 1 (zoneEntry { zoneA with mac := broadcastMac })
    let timeouts := writeOf 3 6 2 (nat32 0 ++ nat32 1048576)
    let status := fun (bits : Nat) => writeOf 5 0 1 (nat16 bits ++ nat16 511 ++ zeros 4)
    let clock := fun (running : Byte) => writeOf 9 0 1 ([running] ++ zeros 7 ++ nat32 149999 ++ zeros 4)
    (Waiting (queued zones part) (readRequest zones) [] ∧ (readRequest zones).index + (readRequest zones).count = 8 ∧
      (readRequest zones).length = 32 ∧ part.pai.role = .detached ∧ (inRole .listen part).pai.role ≠ .detached ∧
      Waiting (queued group part) (readRequest group) [] ∧
      isUnicast (readZone (slice (readRequest group).payload 0 16)).mac = false) ∧
    (Waiting (queued timeouts part) (readRequest timeouts) [] ∧ (readRequest timeouts).length = 8 ∧
      (readRequest timeouts).index + (readRequest timeouts).count = 8) ∧
    (Waiting (queued (status 256) part) (readRequest (status 256)) [] ∧ (word16At (readRequest (status 256)).payload 0).toNat < 512 ∧
      (word16At (readRequest (status 256)).payload 2).toNat < 512 ∧ 512 ≤ (word16At (readRequest (status 512)).payload 0).toNat) ∧
    (∀ b ∈ [1#8, 2#8], Waiting (queued (clock b) part) (readRequest (clock b)) [] ∧ (readRequest (clock b)).length = 16 ∧
      (word32At (readRequest (clock b)).payload 8).toNat = 149999 ∧ byteAt (readRequest (clock b)).payload 0 = b) :=
  ⟨⟨waiting_queued _ _ (by decide), by decide, by decide, by decide, by decide, waiting_queued _ _ (by decide), by decide +kernel⟩,
    ⟨waiting_queued _ _ (by decide), by decide⟩,
    ⟨waiting_queued _ _ (by decide), by decide⟩,
    fun b hb => ⟨waiting_queued _ _ ((show ∀ b ∈ [1#8, 2#8], (readRequest (writeOf 9 0 1 ([b] ++ zeros 7 ++ nat32 149999 ++
        zeros 4))).length ≤ (readRequest (writeOf 9 0 1 ([b] ++ zeros 7 ++ nat32 149999 ++ zeros 4))).rest by decide) b hb),
      (show ∀ b ∈ [1#8, 2#8], (readRequest (writeOf 9 0 1 ([b] ++ zeros 7 ++ nat32 149999 ++ zeros 4))).length = 16 ∧
        (word32At (readRequest (writeOf 9 0 1 ([b] ++ zeros 7 ++ nat32 149999 ++ zeros 4))).payload 8).toNat = 149999 ∧
        byteAt (readRequest (writeOf 9 0 1 ([b] ++ zeros 7 ++ nat32 149999 ++ zeros 4))).payload 0 = b by decide) b hb⟩⟩

/-- WRITEs of several entries for one index: ZONES that count down from the highest index to the lowest, of which each has one
entry; TIMEOUTS that circulate over the two highest, of which the last entries stand; STATUS and CLOCK on their one index. -/
theorem witness_write_modes :
    let zones := writeIn 2 7 8 1 0 0 ((List.range 8).flatMap fun k => zoneEntry { zoneA with vlan := k })
    let timeouts := writeIn 3 6 5 3 2 0 ((List.range 5).flatMap nat32)
    let status := writeIn 5 0 2 2 0 0 (nat16 256 ++ nat16 511 ++ zeros 4 ++ (nat16 1 ++ nat16 0 ++ zeros 4))
    let clock := writeIn 9 0 2 3 1 0 ((0#8 :: zeros 7) ++ nat32 149999 ++ zeros 4 ++ ((1#8 :: zeros 7) ++ nat32 194000 ++ zeros 4))
    let all := [(zones, Object.zones), (timeouts, .timeouts), (status, .status), (clock, .clock)]
    (∀ x ∈ all, Waiting (queued x.1 part) (readRequest x.1) []) ∧
    (∀ x ∈ all, let r := readRequest x.1
      r.command = 2 ∧ fieldsAllowed r ∧ r.clear = false ∧ Object.ofCode r.object = some x.2 ∧ placesWithin r x.2.indices ∧
      r.count * x.2.entrySize ≤ 1408 ∧ r.length = r.count * x.2.entrySize) ∧
    ((lastFor (readRequest zones) 7 = some 0 ∧ lastFor (readRequest zones) 0 = some 7) ∧
      (lastFor (readRequest timeouts) 6 = some 4 ∧ lastFor (readRequest timeouts) 7 = some 3 ∧
        lastFor (readRequest timeouts) 5 = none) ∧
      lastFor (readRequest status) 0 = some 1 ∧ lastFor (readRequest clock) 0 = some 1) := by
  intro zones timeouts status clock all
  refine ⟨fun x hx => waiting_queued _ _ ?_, by unfold fieldsAllowed placesWithin; decide +kernel, by decide +kernel⟩
  have h : ∀ x ∈ all, (readRequest x.1).length ≤ (readRequest x.1).rest := by decide +kernel
  exact h x hx

/-- R165, check 8: a run state that is neither 0 nor 1 answers BAD_CONFIG, though the increment is one to clamp; 0 does not. -/
theorem test_clock_run_state :
    let answer := fun (b : Byte) => (answerWrite (readRequest (writeOf 9 0 1 ([b] ++ zeros 7 ++ nat32 149999 ++ zeros 4))) part).2.status
    answer 2#8 = .badConfig ∧ answer 0#8 = .clamped := by decide +kernel

/-- A frame a byte short of the payload it states; commands 0 and 8; actions 0 and 14; a WRITE of object 10 and of ERRLOG. -/
theorem witness_no_effect :
    let short := (writeOf 3 0 1 (zeros 4)).take 33
    let undefined_ := fun (c : Nat) => request c 0 0 0 0 0 0 []
    let errlog := writeOf 7 3 1 (zeros 32)
    ((queued short part).mgtQueue = short :: [] ∧ (readRequest short).rest < (readRequest short).length) ∧
      (Waiting (queued (undefined_ 0) part) (readRequest (undefined_ 0)) [] ∧ (readRequest (undefined_ 0)).command = 0 ∧
        (readRequest (undefined_ 8)).command = 8) ∧
      (Waiting (queued (control 14 0) part) (readRequest (control 14 0)) [] ∧ (readRequest (control 14 0)).length = 8 ∧
        (readRequest (control 14 0)).payload.head? = some 14#8 ∧ (readRequest (control 0 0)).payload.head? = some 0#8) ∧
      (Waiting (queued (writeOf 10 0 1 []) part) (readRequest (writeOf 10 0 1 [])) [] ∧
        Object.ofCode (readRequest (writeOf 10 0 1 [])).object = none) ∧
      (Waiting (queued errlog part) (readRequest errlog) [] ∧ Object.ofCode (readRequest errlog).object = some .errlog ∧
        (readRequest errlog).length = 32 ∧ (readRequest errlog).count = 1 ∧ (readRequest errlog).index < 4) :=
  ⟨⟨rfl, by decide⟩, ⟨waiting_queued _ _ (by decide), by decide⟩, ⟨waiting_queued _ _ (by decide), by decide⟩,
    ⟨waiting_queued _ _ (by decide), by decide⟩, waiting_queued _ _ (by decide), by decide⟩

/-- CONTROL requests a byte short, of an action and of none at all. WRITEs that each check refuses: no entry, a step mode 4, a
span of 0 and of 5, the clear flag; an index below 0 and one above the highest; a payload a byte short, and one entry beyond
1,408 bytes; and one of SESSION entries, down to index 0, that fill the payload. -/
theorem witness_refused_writes :
    let short := request 6 0 0 0 0 0 0 (1#8 :: zeros 6)
    let empty := request 6 0 0 0 0 0 0 []
    let full := writeIn 4 10 11 1 0 0 (zeros 1408)
    let f := [writeIn 2 0 0 0 0 0 [], writeIn 2 0 1 4 0 0 (zeros 16), writeIn 2 0 1 3 0 0 (zeros 16),
      writeIn 2 0 1 3 5 0 (zeros 16), writeIn 2 0 1 0 0 1 (zeros 16), writeIn 2 6 8 1 0 0 (zeros 128),
      writeIn 2 7 2 0 0 0 (zeros 32), writeIn 2 7 1 0 0 0 (zeros 15), writeIn 1 0 12 2 0 0 (zeros 1408)]
    let r := fun (i : Nat) => readRequest (f.getD i [])
    (∀ g ∈ short :: empty :: full :: f, Waiting (queued g part) (readRequest g) []) ∧
    ((readRequest short).command = 6 ∧ (readRequest short).length = 7 ∧ controlCommand (readRequest short) = .start ∧
      (readRequest empty).command = 6 ∧ (readRequest empty).length = 0 ∧ controlCommand (readRequest empty) = .undefinedCommand) ∧
    (∀ i ∈ [0, 1, 2, 3, 4], (r i).command = 2 ∧ Object.ofCode (r i).object = some .zones ∧
      ¬ (fieldsAllowed (r i) ∧ (r i).clear = false)) ∧
    (∀ i ∈ [5, 6], fieldsAllowed (r i) ∧ (r i).clear = false ∧ ¬ placesWithin (r i) Object.zones.indices) ∧
    ((fieldsAllowed (r 7) ∧ placesWithin (r 7) Object.zones.indices ∧ (r 7).length + 1 = (r 7).count * Object.zones.entrySize) ∧
      (fieldsAllowed (r 8) ∧ placesWithin (r 8) Object.config.indices ∧ 1408 < (r 8).count * Object.config.entrySize)) ∧
    (∀ q ∈ [readRequest full], q.command = 2 ∧ Object.ofCode q.object = some .session ∧ fieldsAllowed q ∧ q.clear = false ∧
      placesWithin q Object.session.indices ∧ q.length = 1408 ∧ q.count * Object.session.entrySize = 1408) := by
  intro short empty full f r
  refine ⟨fun g hg => waiting_queued _ _ ?_, by decide +kernel, by unfold fieldsAllowed; decide +kernel,
    by unfold fieldsAllowed placesWithin; decide +kernel, by unfold fieldsAllowed placesWithin; decide +kernel,
    by unfold fieldsAllowed placesWithin; decide +kernel⟩
  have h : ∀ g ∈ short :: empty :: full :: f, (readRequest g).length ≤ (readRequest g).rest := by decide +kernel
  exact h g hg

/-- KEEPALIVE in LISTEN and in FAULTED; CLEAR_ERRORS of class 3 and of class 4; CLEAR_STATUS of paths 3 and 4. -/
theorem witness_keepalive_and_clear :
    let keep := request 7 0 0 0 0 0 0 []
    Waiting (queued keep (one .listen)) (readRequest keep) [] ∧ (readRequest keep).command = 7 ∧
      ((one .listen).pai.role ≠ .detached ∧ (one .listen).pai.role ≠ .faulted ∧ (one .faulted).pai.role = .faulted) ∧
      Commanded 9#8 (queued (control 9 3) part) (readRequest (control 9 3)) [] ∧
      word32At (readRequest (control 9 3)).payload 4 = 3#32 ∧ 3 < (word32At (readRequest (control 9 4)).payload 4).toNat ∧
      Commanded 10#8 (queued (control 10 3) part) (readRequest (control 10 3)) [] ∧
      (word32At (readRequest (control 10 3)).payload 4).toNat = 3 ∧ 3 < (word32At (readRequest (control 10 4)).payload 4).toNat :=
  ⟨waiting_queued _ _ (by decide), by decide, by decide, commanded_queued _ _ _ (by decide) (by decide), by decide, by decide,
    commanded_queued _ _ _ (by decide) (by decide), by decide⟩

/-- The keepalive timer expired with the clock RUNNING, in an active role, in FAULTED and in DETACHED; FORCE_FAULT in each. -/
theorem witness_faults :
    let s := fun (role : Role) => clocked 0 0 { one role with flt := { (one role).flt with keepalive := .running 0 } }
    (∀ role, Commanded 7#8 (queued (control 7 0) (s role)) (readRequest (control 7 0)) []) ∧
      (s .active).tim.running = true ∧ (s .active).flt.keepalive = .running 0 ∧
      ((s .active).pai.role ≠ .detached ∧ (s .active).pai.role ≠ .faulted) ∧
      (s .faulted).pai.role = .faulted ∧ (s .detached).pai.role = .detached :=
  ⟨fun _ => commanded_queued _ _ _ (by decide) (by decide), by decide⟩

/-- A rise of an unmasked flag with the holdoff stopped and running, a rise of a masked one, and the holdoff's end with and without
the pending mark. -/
theorem witness_rises :
    let quiet := { part with flt := { part.flt with flags := 0#9, mask := Flag.path.bitmap, holdoff := .stopped } }
    let due := fun (mark : Bool) => clocked 0 0 { part with flt := { part.flt with holdoff := .running 0, noticeMark := mark } }
    (((raise .path quiet).flt.flags.getLsbD Flag.path.bit = true ∧ quiet.flt.flags.getLsbD Flag.path.bit = false ∧
        (raise .path quiet).flt.mask.getLsbD Flag.path.bit = true) ∧ (raise .path quiet).flt.holdoff = .stopped ∧
        (raise .path quiet).flt.noticeMark = false ∧ (raise .path quiet).prt.pQueue.length < 64) ∧
      ¬ (∃ k : Fin 9, (raise .role quiet).flt.flags.getLsbD k = true ∧ quiet.flt.flags.getLsbD k = false ∧
        (raise .role quiet).flt.mask.getLsbD k = true) ∧
      (raise .path { quiet with flt := { quiet.flt with holdoff := .running 3 } }).flt.holdoff ≠ .stopped ∧
      ((due true).tim.running = true ∧ (due true).flt.holdoff = .running 0 ∧ (due true).flt.noticeMark = true ∧
        (due true).prt.pQueue.length < 64 ∧ (due false).flt.noticeMark = false) := by decide

/-- Commands that raise an unmasked flag, with the holdoff stopped and running: a request too short, which is filed as MGT1, and
a FORCE_FAULT. A CLOCK_HALT that finds the clock HALTED raises none. -/
theorem witness_rises_of_commands :
    let quiet := fun (g : Flag) (holdoff : Timer) (f : Frame) (s : State) =>
      queued f { s with flt := { s.flt with flags := 0#9, mask := g.bitmap, holdoff := holdoff } }
    let runt := fun (t : Timer) => quiet .errNote t ((writeOf 3 0 1 (zeros 4)).take 33) part
    let fault := fun (t : Timer) => quiet .errFault t (control 7 0) (one .active)
    let rises := fun (c : Instr) (g : Flag) (s : State) => match exec c s with
      | .next t => t.flt.flags.getLsbD g.bit && !s.flt.flags.getLsbD g.bit && t.flt.mask.getLsbD g.bit &&
          decide (t.prt.pQueue.length < 64)
      | _ => false
    (∀ t ∈ [Timer.stopped, .running 3], rises .runtRequest .errNote (runt t) = true ∧ rises .forceFault .errFault (fault t) = true) ∧
      (Block.mgtQueue ∈ blocksOf .runtRequest ∧ Block.mgtQueue ∉ blocksOf .ackTimerExpiry) ∧ part.tim.running = false := by
  decide +kernel

end Sys2Proof.Tests
end

section
/-! SUPPORT. The law `Safe` and the law of what waits for the peer, kept by the operations: the relations in which it is said, and
one lemma an operation, `<operation>_kept`. -/

-- One proof at a time: proofs that wait for earlier checks would each take a thread.
set_option Elab.async false

namespace Sys2Proof.Machine

open Sys2Proof.Safety

variable {P : Prop} {s t u : State}

/-! ## What an operation keeps -/

/-- The law of what waits for the peer, over a record store in canonical order. -/
structure Waits (s : State) : Prop where
  sorted : sparseSorted s.tbl.records = true
  law    : QueueLaw s

/-- From s to t `Safe` is kept, and, under the condition P, the law of what waits for the peer. -/
def Kept (P : Prop) (s t : State) : Prop := Safe s → Safe t ∧ (P → Waits s → Waits t)

theorem Kept.refl (s : State) : Kept P s s := fun h => ⟨h, fun _ w => w⟩

theorem Kept.trans (a : Kept P s t) (b : Kept P t u) : Kept P s u := fun h =>
  ⟨(b (a h).1).1, fun p w => (b (a h).1).2 p ((a h).2 p w)⟩

/-- The second step may count on `Safe` of the state between. -/
theorem Kept.then (a : Kept P s t) (b : Safe t → Kept P t u) : Kept P s u := fun h => a.trans (b (a h).1) h

/-- A step may count on `Safe` of the state that it starts from. -/
theorem Kept.of_safe (h : Safe s → Kept P s t) : Kept P s t := fun hs => h hs hs

theorem Kept.foldl {α : Type} {f : State → α → State} (h : ∀ s a, Kept P s (f s a)) (l : List α) (s : State) :
    Kept P s (l.foldl f s) := by
  induction l generalizing s with
  | nil => exact Kept.refl s
  | cons a l ih => exact (h s a).trans (ih (f s a))

/-- From s to t the roles, the items confined to roles, and the bounds of the ports' queues stand. -/
structure Calm (s t : State) : Prop where
  queues    : queuesBounded s → queuesBounded t
  role      : t.pai.role = s.pai.role
  history   : t.pai.history = s.pai.history
  yieldFlag : t.pai.yieldFlag = s.pai.yieldFlag
  drain     : t.pai.drainTimer = s.pai.drainTimer
  tko       : t.tko = s.tko
  keepalive : t.flt.keepalive = s.flt.keepalive
  refresh   : t.shd.refresh = s.shd.refresh
  wanted    : t.shd.bulkWanted = s.shd.bulkWanted

/-- A step whose fields show that it is calm. -/
theorem Calm.of_fields (queues : queuesBounded s → queuesBounded t := by exact id) (role : t.pai.role = s.pai.role := by rfl)
    (history : t.pai.history = s.pai.history := by rfl) (yieldFlag : t.pai.yieldFlag = s.pai.yieldFlag := by rfl)
    (drain : t.pai.drainTimer = s.pai.drainTimer := by rfl) (tko : t.tko = s.tko := by rfl)
    (keepalive : t.flt.keepalive = s.flt.keepalive := by rfl) (refresh : t.shd.refresh = s.shd.refresh := by rfl)
    (wanted : t.shd.bulkWanted = s.shd.bulkWanted := by rfl) : Calm s t :=
  ⟨queues, role, history, yieldFlag, drain, tko, keepalive, refresh, wanted⟩

theorem Calm.refl (s : State) : Calm s s := Calm.of_fields

theorem Calm.trans (a : Calm s t) (b : Calm t u) : Calm s u :=
  ⟨b.queues ∘ a.queues, b.role.trans a.role, b.history.trans a.history, b.yieldFlag.trans a.yieldFlag, b.drain.trans a.drain,
    b.tko.trans a.tko, b.keepalive.trans a.keepalive, b.refresh.trans a.refresh, b.wanted.trans a.wanted⟩

theorem Calm.foldl {α : Type} {f : State → α → State} (h : ∀ s a, Calm s (f s a)) (l : List α) (s : State) :
    Calm s (l.foldl f s) := by
  induction l generalizing s with
  | nil => exact Calm.refl s
  | cons a l ih => exact (h s a).trans (ih (f s a))

/-- What is left to show of `Safe` after a calm step: the transmitter and the hold queue. -/
theorem Calm.safe (c : Calm s t) (h : Safe s) (quiet : closedIsQuiet t) (stream : streamConfined t) (replay : replayBounded t)
    (hold : holdBounded t) : Safe t where
  queues := c.queues h.queues
  tolerance := by have := h.tolerance; unfold toleranceConfined at this ⊢; rwa [c.role, c.tko]
  quiet := quiet
  stream := stream
  replay := replay
  hold := hold
  refresh := by have := h.refresh; unfold refreshConfined at this ⊢; rwa [c.role, c.refresh, c.wanted]
  yielding := by have := h.yielding; unfold yieldConfined at this ⊢; rwa [c.role, c.yieldFlag, c.drain]
  burst := by have := h.burst; unfold burstConfined at this ⊢; rwa [c.role, c.tko]
  keepalive := by have := h.keepalive; unfold keepaliveConfined at this ⊢; rwa [c.role, c.keepalive]
  history := by have := h.history; unfold historyBounded at this ⊢; rwa [c.history]

/-- What names a hold entry's session. -/
def HoldEntry.tag (e : HoldEntry) : Nat × Word16 := (e.handle, e.epoch)

/-- The law of what waits for the peer reads no more than this. -/
theorem queueLaw_of_same (q : QueueLaw s)
    (records : ∀ h, (recordOf t h).handleState = (recordOf s h).handleState ∧ (recordOf t h).pending = (recordOf s h).pending ∧
      (recordOf t h).epoch = (recordOf s h).epoch)
    (stream : t.mir.stream = s.mir.stream) (dirty : t.mir.dirty = s.mir.dirty) (flight : removesInFlight t = removesInFlight s)
    (hold : (t.hold.map HoldEntry.tag).Sublist (s.hold.map HoldEntry.tag)) : QueueLaw t where
  dirty := by
    rw [dirty]
    exact ⟨q.dirty.1, fun h => by rw [(records h).2.1]; exact q.dirty.2 h⟩
  kinds h := by rw [(records h).1, (records h).2.1]; exact q.kinds h
  flight := by
    rw [flight]
    exact ⟨q.flight.1, fun h => by rw [(records h).1, (records h).2.1]; exact q.flight.2 h⟩
  closed c h := by rw [(records h).1]; exact q.closed (stream ▸ c) h
  hold := by
    refine ⟨?_, fun e he => ?_⟩
    · have sub := hold.map Prod.fst
      simp only [List.map_map] at sub
      exact q.hold.1.sublist sub
    · obtain ⟨e', he', tag⟩ := List.mem_map.1 (hold.subset (List.mem_map_of_mem he))
      have hh : e'.handle = e.handle := congrArg Prod.fst tag
      have hp : e'.epoch = e.epoch := congrArg Prod.snd tag
      rw [← hh, ← hp, (records _).1, (records _).2.2]
      exact q.hold.2 e' he'

/-- With nothing waiting, the law says that no handle is pending and none is RETIRED. -/
theorem queueLaw_of_idle (dirty : s.mir.dirty = []) (flight : removesInFlight s = []) (hold : s.hold = [])
    (records : ∀ h, (recordOf s h).pending = .none ∧ (recordOf s h).handleState ≠ .retired) : QueueLaw s where
  dirty := by rw [dirty]; exact ⟨List.nodup_nil, fun h => by simp [(records h).1]⟩
  kinds h := fun c => absurd (records h).1 c
  flight := by rw [flight]; exact ⟨List.nodup_nil, fun h => by simp [(records h).2]⟩
  closed _ h := (records h).2
  hold := by rw [hold]; exact ⟨List.nodup_nil, fun e he => (List.not_mem_nil he).elim⟩

/-- A calm step that leaves the transmitter, the hold queue and the table in all that the two laws read. -/
structure Steady (s t : State) : Prop extends Calm s t where
  stream    : t.mir.stream = s.mir.stream
  dirty     : t.mir.dirty = s.mir.dirty
  replay    : t.mir.replay = s.mir.replay
  openFrame : t.mir.openFrame = s.mir.openFrame
  dataPath  : t.mir.dataPath = s.mir.dataPath
  hold      : t.hold = s.hold
  records   : t.tbl.records = s.tbl.records

/-- A step whose fields show that it is steady. -/
theorem Steady.of_fields (calm : Calm s t := by exact Calm.of_fields) (stream : t.mir.stream = s.mir.stream := by rfl)
    (dirty : t.mir.dirty = s.mir.dirty := by rfl) (replay : t.mir.replay = s.mir.replay := by rfl)
    (openFrame : t.mir.openFrame = s.mir.openFrame := by rfl) (dataPath : t.mir.dataPath = s.mir.dataPath := by rfl)
    (hold : t.hold = s.hold := by rfl) (records : t.tbl.records = s.tbl.records := by rfl) : Steady s t :=
  ⟨calm, stream, dirty, replay, openFrame, dataPath, hold, records⟩

theorem Steady.refl (s : State) : Steady s s := Steady.of_fields

theorem Steady.trans (a : Steady s t) (b : Steady t u) : Steady s u :=
  ⟨a.toCalm.trans b.toCalm, b.stream.trans a.stream, b.dirty.trans a.dirty, b.replay.trans a.replay,
    b.openFrame.trans a.openFrame, b.dataPath.trans a.dataPath, b.hold.trans a.hold, b.records.trans a.records⟩

theorem Steady.foldl {α : Type} {f : State → α → State} (h : ∀ s a, Steady s (f s a)) (l : List α) (s : State) :
    Steady s (l.foldl f s) := by
  induction l generalizing s with
  | nil => exact Steady.refl s
  | cons a l ih => exact (h s a).trans (ih (f s a))

theorem Steady.recordOf (a : Steady s t) (h : Nat) : recordOf t h = recordOf s h := by
  simp only [Machine.recordOf, Tbl.record, a.records]

theorem Steady.kept (a : Steady s t) : Kept P s t := by
  intro h
  refine ⟨a.toCalm.safe h ?_ ?_ ?_ ?_, fun _ w => ⟨by rw [a.records]; exact w.sorted, ?_⟩⟩
  · have := h.quiet; unfold closedIsQuiet at this ⊢
    rwa [a.stream, a.replay, a.openFrame, a.dirty, a.hold, a.dataPath]
  · have := h.stream; unfold streamConfined at this ⊢
    rwa [a.stream, a.role]
  · have := h.replay; unfold replayBounded at this ⊢
    rwa [a.replay, a.openFrame]
  · have := h.hold; unfold holdBounded at this ⊢
    rwa [a.hold]
  · refine queueLaw_of_same w.law (fun h => ?_) a.stream a.dirty ?_ (by rw [a.hold])
    · rw [a.recordOf]; exact ⟨rfl, rfl, rfl⟩
    · unfold removesInFlight; rw [a.replay, a.openFrame]

/-! ## Reports, counters, frames handed over -/

theorem raise_steady (f : Flag) (s : State) : Steady s (raise f s) :=
  Steady.of_fields

theorem bumpBy_steady (c : Ctr) (n : Nat) (s : State) : Steady s (bumpBy c n s) :=
  Steady.of_fields

theorem bump_steady (c : Ctr) (s : State) : Steady s (bump c s) := bumpBy_steady c 1 s

theorem setErrRecord_steady (c : ErrClass) (r : ErrRecord) (s : State) :
    Steady s { s with flt := s.flt.setRecord c r } := by
  cases c <;> exact Steady.of_fields

theorem report_steady (c : ErrCode) (i : ErrInfo) (s : State) : Steady s (report c i s) :=
  (setErrRecord_steady _ _ s).trans (raise_steady _ _)

/-- Frames join a queue only while it has room. -/
theorem handToPort_steady (port : Port) (f : Frame) (s : State) : Steady s (handToPort port f s) := by
  rcases handToPort_cases port f s with ⟨room, e⟩ | ⟨_, e⟩
  · rw [e]
    have q : queuesBounded s → queuesBounded { s with prt := s.prt.setQueue port (s.prt.queue port ++ [f]) } := by
      rintro ⟨p, w, sq, m⟩
      cases port
      all_goals
        simp only [Prt.queue, queueRoom, Config.pQueueRoom, Config.wQueueRoom, Config.sQueueRoom] at room
        simp only [queuesBounded, Prt.setQueue, Prt.queue, List.length_append, List.length_singleton]
        omega
    cases port <;> exact Steady.of_fields (Calm.of_fields q)
  · rw [e]
    exact (bump_steady _ s).trans (report_steady _ _ _)

theorem sendMirror_steady (p : PathId) (b : List Byte) (s : State) : Steady s (sendMirror p b s) := by
  unfold sendMirror
  split
  · exact handToPort_steady _ _ s
  · split
    · exact handToPort_steady _ _ s
    · exact Steady.refl s

theorem sendNotice_steady (s : State) : Steady s (sendNotice s) :=
  Steady.trans (t := { s with flt := { s.flt with holdoff := .running s.cfg.noticeHoldoff } })
    Steady.of_fields (handToPort_steady _ _ _)

theorem marked_steady (s : State) (b : Bool) : Steady s { s with flt := { s.flt with noticeMark := b } } :=
  Steady.of_fields

theorem settle_steady (b : BitVec 9) (s : State) : Steady s (settle b s) := by
  unfold settle
  split
  · exact Steady.refl s
  · split
    · simp only
      split
      · exact sendNotice_steady s
      · exact (sendNotice_steady s).trans (marked_steady _ true)
    · exact marked_steady s true

theorem event_kept {f : State → State} (h : Kept P s (f s)) : Kept P s (event f s) := h.trans (settle_steady _ _).kept

end Sys2Proof.Machine
end

section
/-! SUPPORT. The law `Safe` and the law of what waits for the peer. Records and held frames: releases, marks, the fate of a
removed handle. -/

-- One proof at a time: proofs that wait for earlier checks would each take a thread.
set_option Elab.async false

namespace Sys2Proof.Machine

open Sys2Proof.Safety

variable {P : Prop} {s t u : State}

/-! ## Records and held frames -/

/-- A calm step that leaves the transmitter, and of each record what the law reads; held frames may leave. -/
theorem Calm.kept (c : Calm s t) (mir : t.mir = s.mir) (hold : (t.hold.map HoldEntry.tag).Sublist (s.hold.map HoldEntry.tag))
    (records : sparseSorted s.tbl.records = true → sparseSorted t.tbl.records = true ∧
      ∀ h, (recordOf t h).handleState = (recordOf s h).handleState ∧ (recordOf t h).pending = (recordOf s h).pending ∧
        (recordOf t h).epoch = (recordOf s h).epoch) : Kept P s t := by
  intro h
  refine ⟨c.safe h ?_ ?_ ?_ ?_, fun _ w => ⟨(records w.sorted).1, ?_⟩⟩
  · intro closed
    rw [mir] at closed ⊢
    obtain ⟨replay, fr, dirty, held, path⟩ := h.quiet closed
    refine ⟨replay, fr, dirty, ?_, path⟩
    rw [held] at hold
    exact List.map_eq_nil_iff.1 (List.sublist_nil.1 hold)
  · have := h.stream; unfold streamConfined at this ⊢; rwa [mir, c.role]
  · have := h.replay; unfold replayBounded at this ⊢; rwa [mir]
  · have := hold.length_le
    rw [List.length_map, List.length_map] at this
    exact this.trans h.hold
  · exact queueLaw_of_same w.law (records w.sorted).2 (by rw [mir]) (by rw [mir]) (by unfold removesInFlight; rw [mir]) hold

theorem setRecord_calm (h : Nat) (r : Record) (s : State) : Calm s (setRecord h r s) :=
  Calm.of_fields

theorem setRecord_sorted (hs : sparseSorted s.tbl.records = true) (h : Nat) (r : Record) :
    sparseSorted (setRecord h r s).tbl.records = true := putRecord_sorted hs h r

/-- A record written with what the law reads as it was. -/
theorem setRecord_kept (h : Nat) (r : Record) (s : State) (live : r.handleState = (recordOf s h).handleState := by rfl)
    (pending : r.pending = (recordOf s h).pending := by rfl) (epoch : r.epoch = (recordOf s h).epoch := by rfl) :
    Kept P s (setRecord h r s) :=
  (setRecord_calm h r s).kept rfl (List.Sublist.refl _) fun sorted => ⟨setRecord_sorted sorted h r, fun k => by
    rw [recordOf_setRecord sorted]
    split
    · next e => subst e; exact ⟨live, pending, epoch⟩
    · exact ⟨rfl, rfl, rfl⟩⟩

/-- Held frames that leave. -/
theorem fewerHeld_kept (s : State) (l : List HoldEntry) (sub : l.Sublist s.hold) : Kept P s { s with hold := l } :=
  Calm.kept Calm.of_fields rfl (sub.map _) fun sorted => ⟨sorted, fun _ => ⟨rfl, rfl, rfl⟩⟩

theorem clearReleaseSeq_kept (e : HoldEntry) (s : State) : Kept P s (clearReleaseSeq e s) := by
  unfold clearReleaseSeq
  simp only
  split
  · exact setRecord_kept _ _ s
  · exact Kept.refl s

theorem releaseHeld_kept (c : Ctr) (s : State) (e : HoldEntry) : Kept P s (releaseHeld c s e) :=
  (clearReleaseSeq_kept e s).trans
    (((handToPort_steady _ _ _).trans (bump_steady _ _)).trans (bump_steady _ _)).kept

theorem releaseWhere_kept (pick : HoldEntry → Bool) (c : Ctr) (s : State) : Kept P s (releaseWhere pick c s) :=
  (fewerHeld_kept s _ List.filter_sublist).trans (Kept.foldl (releaseHeld_kept c) _ _)

theorem flushHold_kept (s : State) : Kept P s (flushHold s) := by
  unfold flushHold
  split
  · exact Kept.refl s
  · exact (releaseWhere_kept _ _ s).trans (report_steady _ _ _).kept

theorem discardHeld_kept (h : Nat) (s : State) : Kept P s (discardHeld h s) := by
  unfold discardHeld
  split
  · exact (fewerHeld_kept s _ List.filter_sublist).trans (bump_steady _ _).kept
  · exact Kept.refl s

/-- The removed session holds no frame (R79). -/
theorem discardHeld_gone (h : Nat) (s : State) : ∀ e ∈ (discardHeld h s).hold, e.handle ≠ h := by
  unfold discardHeld
  split
  · intro e he
    simpa using (List.mem_filter.1 he).2
  · next none =>
    intro e he eq
    exact none (List.any_eq_true.2 ⟨e, he, by simp [eq]⟩)

/-! ## Marks (R87) -/

/-- A LIVE handle without a mark joins the dirty list. -/
theorem marked_law (w : Waits s) (h : Nat) (k : Pending) (live : (recordOf s h).handleState = .live)
    (pending : (recordOf s h).pending = .none) (kn : k ≠ .none) (kr : k ≠ .remove) :
    QueueLaw { setPending h k s with mir := { s.mir with dirty := s.mir.dirty ++ [h] } } := by
  have reads : ∀ i, recordOf { setPending h k s with mir := { s.mir with dirty := s.mir.dirty ++ [h] } } i =
      if i = h then { recordOf s h with pending := k } else recordOf s i := recordOf_setRecord w.sorted h _
  have out : h ∉ s.mir.dirty := fun m => (w.law.dirty.2 h).1 m pending
  refine ⟨⟨?_, fun i => ?_⟩, fun i => ?_, ⟨w.law.flight.1, fun i => ?_⟩, fun c i => ?_, w.law.hold.1, fun e he => ?_⟩
  · exact List.nodup_append'.2 ⟨w.law.dirty.1, List.nodup_singleton h, by simpa using out⟩
  · rw [reads, List.mem_append, List.mem_singleton, w.law.dirty.2]
    split
    · next e => simp [e, kn]
    · next e => simp [e]
  · rw [reads]
    split
    · exact fun _ => .inl ⟨live, kr⟩
    · exact w.law.kinds i
  · refine (w.law.flight.2 i).trans ?_
    rw [reads]
    split
    · next e => subst e; simp [live]
    · rfl
  · rw [reads]
    split
    · simp [live]
    · exact w.law.closed c i
  · rw [reads]
    split
    · next eq => rw [← eq]; exact w.law.hold.2 e he
    · exact w.law.hold.2 e he

/-- A LIVE handle's mark made stronger. -/
theorem remarked_law (w : Waits s) (h : Nat) (k : Pending) (live : (recordOf s h).handleState = .live)
    (pending : (recordOf s h).pending ≠ .none) (kn : k ≠ .none) (kr : k ≠ .remove) : QueueLaw (setPending h k s) := by
  have reads : ∀ i, recordOf (setPending h k s) i = if i = h then { recordOf s h with pending := k } else recordOf s i :=
    recordOf_setRecord w.sorted h _
  refine ⟨⟨w.law.dirty.1, fun i => ?_⟩, fun i => ?_, ⟨w.law.flight.1, fun i => ?_⟩, fun c i => ?_, w.law.hold.1, fun e he => ?_⟩
  · refine (w.law.dirty.2 i).trans ?_
    rw [reads]
    split
    · next e => subst e; simp [kn, pending]
    · rfl
  · rw [reads]
    split
    · exact fun _ => .inl ⟨live, kr⟩
    · exact w.law.kinds i
  · refine (w.law.flight.2 i).trans ?_
    rw [reads]
    split
    · next e => subst e; simp [live]
    · rfl
  · rw [reads]
    split
    · simp [live]
    · exact w.law.closed c i
  · rw [reads]
    split
    · next eq => rw [← eq]; exact w.law.hold.2 e he
    · exact w.law.hold.2 e he

/-- A change of the dirty list while the stream is OPEN, or to the empty list. -/
theorem dirty_safe (h : Safe s) (tbl : Tbl) (l : List Nat) (q : s.mir.stream = .closed → l = []) :
    Safe { s with tbl := tbl, mir := { s.mir with dirty := l } } :=
  { h with
    quiet := fun c => by
      obtain ⟨replay, fr, _, held, path⟩ := h.quiet c
      exact ⟨replay, fr, q c, held, path⟩ }

theorem setPending_safe (hs : Safe s) (h : Nat) (p : Pending) : Safe (setPending h p s) := { hs with }

theorem markDirty_kept (k : Pending) (h : Nat) (s : State) (kn : k ≠ .none) (kr : k ≠ .remove)
    (live : P → Waits s → (recordOf s h).handleState = .live) : Kept P s (markDirty k h s) := by
  unfold markDirty
  split
  · exact Kept.refl s
  · next opened =>
    cases pending : (recordOf s h).pending with
    | none =>
      exact fun hs => ⟨dirty_safe hs _ _ fun c => absurd c opened, fun p w =>
        ⟨setRecord_sorted w.sorted _ _, marked_law w h k (live p w) pending kn kr⟩⟩
    | update =>
      cases k with
      | create =>
        exact fun hs => ⟨setPending_safe hs _ _, fun p w => ⟨setRecord_sorted w.sorted _ _,
          remarked_law w h .create (live p w) (by rw [pending]; decide) kn kr⟩⟩
      | none => exact Kept.refl s
      | update => exact Kept.refl s
      | remove => exact Kept.refl s
    | create => exact Kept.refl s
    | remove => exact Kept.refl s

/-! ## Removal (R37, R38) -/

/-- The removed handle becomes FREE. -/
theorem freed_law (w : Waits s) (h : Nat) (tbl : Tbl) (e : Word16) (live : (recordOf s h).handleState = .live)
    (held : ∀ e ∈ s.hold, e.handle ≠ h) (reads : ∀ i, tbl.record i = if i = h then freedRecord e else recordOf s i) :
    QueueLaw { s with tbl := tbl, mir := { s.mir with dirty := s.mir.dirty.filter fun k => k != h } } := by
  have reads' : ∀ i, recordOf { s with tbl := tbl, mir := { s.mir with dirty := s.mir.dirty.filter fun k => k != h } } i =
      if i = h then freedRecord e else recordOf s i := reads
  refine ⟨⟨w.law.dirty.1.filter _, fun i => ?_⟩, fun i => ?_, ⟨w.law.flight.1, fun i => ?_⟩, fun c i => ?_, w.law.hold.1,
    fun e he => ?_⟩
  · rw [reads', List.mem_filter, w.law.dirty.2]
    split
    · next e => simp [e, freedRecord, Record.fresh]
    · next e => simp [e]
  · rw [reads']
    split
    · exact fun c => absurd rfl c
    · exact w.law.kinds i
  · refine (w.law.flight.2 i).trans ?_
    rw [reads']
    split
    · next e => subst e; simp [live, freedRecord, Record.fresh]
    · rfl
  · rw [reads']
    split
    · simp [freedRecord, Record.fresh]
    · exact w.law.closed c i
  · rw [reads', if_neg (held e he)]
    exact w.law.hold.2 e he

/-- The removed handle becomes RETIRED with its REMOVE pending. -/
theorem retired_law (w : Waits s) (h : Nat) (l : List Nat) (e : Word16) (q : RemovalReason)
    (live : (recordOf s h).handleState = .live) (opened : s.mir.stream ≠ .closed) (held : ∀ e ∈ s.hold, e.handle ≠ h)
    (hl : l = if (recordOf s h).pending = .none then s.mir.dirty ++ [h] else s.mir.dirty) :
    QueueLaw { setRecord h (retiredRecord e q) s with mir := { s.mir with dirty := l } } := by
  have reads : ∀ i, recordOf { setRecord h (retiredRecord e q) s with mir := { s.mir with dirty := l } } i =
      if i = h then retiredRecord e q else recordOf s i := recordOf_setRecord w.sorted h _
  have mem : ∀ i, i ∈ l ↔ i = h ∨ (recordOf s i).pending ≠ .none := fun i => by
    rw [hl]
    split
    · rw [List.mem_append, List.mem_singleton, w.law.dirty.2, or_comm]
    · next pending =>
      rw [w.law.dirty.2]
      exact ⟨.inr, fun c => c.elim (fun e => e ▸ pending) id⟩
  refine ⟨⟨?_, fun i => ?_⟩, fun i => ?_, ⟨w.law.flight.1, fun i => ?_⟩, fun c => absurd c opened, w.law.hold.1, fun e he => ?_⟩
  · show l.Nodup
    rw [hl]
    split
    · next pending =>
      have out : h ∉ s.mir.dirty := fun m => (w.law.dirty.2 h).1 m pending
      exact List.nodup_append'.2 ⟨w.law.dirty.1, List.nodup_singleton h, by simpa using out⟩
    · exact w.law.dirty.1
  · refine (mem i).trans ?_
    rw [reads]
    split
    · next e => simp [e, retiredRecord]
    · next e => simp [e]
  · rw [reads]
    split
    · exact fun _ => .inr ⟨rfl, rfl⟩
    · exact w.law.kinds i
  · refine (w.law.flight.2 i).trans ?_
    rw [reads]
    split
    · next e => subst e; simp [live, retiredRecord]
    · rfl
  · rw [reads, if_neg (held e he)]
    exact w.law.hold.2 e he

theorem settleHandle_kept (h : Nat) (r : Record) (q : RemovalReason) (g : Bool) (s : State) (hr : recordOf s h = r)
    (live : r.handleState = .live) (held : ∀ e ∈ s.hold, e.handle ≠ h) : Kept P s (settleHandle h r q g s) := by
  subst hr
  unfold settleHandle
  split
  · refine fun hs => ⟨dirty_safe hs _ _ fun c => by rw [(hs.quiet c).2.2.1]; rfl, fun _ w => ⟨?_, ?_⟩⟩
    · exact putRecord_sorted w.sorted h _
    · exact freed_law w h _ _ live held (record_setRecord w.sorted h _)
  · next fate =>
    have opened : s.mir.stream ≠ .closed := fun c => fate (by simp [becomesFree, c])
    simp only
    split
    · next pending =>
      exact fun hs => ⟨dirty_safe hs _ _ fun c => absurd c opened, fun _ w => ⟨setRecord_sorted w.sorted _ _,
        retired_law w h _ _ q live opened held (by rw [if_pos pending]; rfl)⟩⟩
    · next pending =>
      exact fun hs => ⟨{ hs with }, fun _ w => ⟨setRecord_sorted w.sorted _ _,
        retired_law w h s.mir.dirty _ q live opened held (by rw [if_neg pending])⟩⟩

theorem removeSession_kept (h : Nat) (q : RemovalReason) (g : Bool) (s : State) : Kept P s (removeSession h q g s) := by
  unfold removeSession
  simp only
  split
  · next live =>
    have unslotted : Steady s (bump (removalCounter q) { s with tbl :=
        ((s.tbl.dropSlot (recordOf s h).slotOrig).dropSlot (recordOf s h).slotReply).digestDrop h (recordOf s h).epoch }) :=
      Steady.of_fields
    refine (unslotted.kept.trans (discardHeld_kept h _)).trans (settleHandle_kept h _ q _ _ ?_ live (discardHeld_gone h _))
    have same := discardHeld_touches h (bump (removalCounter q) { s with tbl :=
        ((s.tbl.dropSlot (recordOf s h).slotOrig).dropSlot (recordOf s h).slotReply).digestDrop h (recordOf s h).epoch })
        .tbl (by decide)
    exact (congrArg (fun t : Tbl => t.record h) same).trans (unslotted.recordOf h)
  · exact Kept.refl s

/-! ## Clearing (R27) -/

/-- The table is cleared while the stream is CLOSED. -/
theorem clearTable_kept (s : State) (closed : s.mir.stream = .closed) : Kept P s (clearTable s) := by
  refine Kept.trans (t := { s with tbl := Tbl.cleared, hold := [] }) (fun hs => ⟨?_, fun _ _ => ⟨rfl, ?_⟩⟩)
    (bumpBy_steady _ _ _).kept
  · exact { hs with quiet := fun c => ⟨(hs.quiet c).1, (hs.quiet c).2.1, (hs.quiet c).2.2.1, rfl, (hs.quiet c).2.2.2.2⟩
                    hold := Nat.zero_le _ }
  · obtain ⟨replay, fr, dirty, _, _⟩ := hs.quiet closed
    exact queueLaw_of_idle dirty (by unfold removesInFlight; simp [replay, fr]) rfl fun h => ⟨rfl, nofun⟩

end Sys2Proof.Machine
end

section
/-! SUPPORT. The law `Safe` and the law of what waits for the peer. The shadow receiver's lists, the data path, the stream's
opening and its close. -/

-- One proof at a time: proofs that wait for earlier checks would each take a thread.
set_option Elab.async false

namespace Sys2Proof.Machine

open Sys2Proof.Safety

variable {P : Prop} {s t u : State}

/-! ## Hellos and the refresh list -/

/-- A step that leaves the transmitter, the hold queue and the record store. -/
theorem Kept.of_safety (safe : Safe s → Safe t) (mir : t.mir = s.mir) (hold : t.hold = s.hold)
    (records : t.tbl.records = s.tbl.records) : Kept P s t := fun hs =>
  ⟨safe hs, fun _ w => ⟨by rw [records]; exact w.sorted, queueLaw_of_same w.law
    (fun h => by simp only [recordOf, Tbl.record, records, and_self]) (by rw [mir]) (by rw [mir])
    (by unfold removesInFlight; rw [mir]) (by rw [hold])⟩⟩

theorem sendHello_steady (s : State) : Steady s (sendHello s) := by
  unfold sendHello
  split
  · exact Steady.refl s
  · exact ((sendMirror_steady _ _ s).trans (sendMirror_steady _ _ _)).trans
      Steady.of_fields

theorem setBulkWanted_kept (s : State) (standby : s.pai.role.isStandby = true) : Kept P s (setBulkWanted s) := by
  unfold setBulkWanted
  split
  · exact Kept.refl s
  · refine Kept.trans (t := { s with shd := { s.shd with bulkWanted := true } })
      (Kept.of_safety (fun hs => ?_) rfl rfl rfl) (sendHello_steady _).kept
    exact { hs with refresh := ⟨hs.refresh.1, hs.refresh.2.1, fun c => absurd (standby.symm.trans c) (by decide)⟩ }

theorem joinRefresh_kept (h : Nat) (s : State) (standby : s.pai.role.isStandby = true) : Kept P s (joinRefresh h s) := by
  unfold joinRefresh
  split
  · exact Kept.refl s
  · next out =>
    split
    · next room =>
      refine Kept.of_safety (fun hs => ?_) rfl rfl rfl
      refine { hs with refresh := ⟨?_, ?_, fun c => absurd (standby.symm.trans c) (by decide)⟩ }
      · show (s.shd.refresh ++ [h]).length ≤ _
        rw [List.length_append, List.length_singleton]
        exact room
      · exact List.nodup_append'.2 ⟨hs.refresh.2.1, List.nodup_singleton h, by simpa using out⟩
    · exact (report_steady _ _ s).kept.trans (setBulkWanted_kept _ standby)

/-- A handle leaves the refresh list, or all do. -/
theorem fewerRefresh_kept (s : State) (l : List Nat) (sub : l.Sublist s.shd.refresh) (w : Bool)
    (hw : s.shd.bulkWanted = false → w = false) (shd : Shd) (hl : shd.refresh = l) (hb : shd.bulkWanted = w) :
    Kept P s { s with shd := shd } := by
  refine Kept.of_safety (fun hs => { hs with refresh := ?_ }) rfl rfl rfl
  subst hl hb
  refine ⟨sub.length_le.trans hs.refresh.1, hs.refresh.2.1.sublist sub, fun c => ?_⟩
  obtain ⟨none, clear⟩ := hs.refresh.2.2 c
  exact ⟨List.sublist_nil.1 (none ▸ sub), hw clear⟩

theorem leaveRefresh_kept (h : Nat) (s : State) : Kept P s (leaveRefresh h s) :=
  fewerRefresh_kept s _ List.filter_sublist s.shd.bulkWanted id _ rfl rfl

/-! ## The data path -/

theorem retransmitOn_steady (p : Option PathId) (s : State) : Steady s (retransmitOn p s) := by
  unfold retransmitOn
  split
  · exact Steady.refl s
  · exact (Steady.foldl (fun s d => sendMirror_steady _ _ s) _ s).trans (bumpBy_steady _ _ _)

theorem restartReplayTimer_steady (s : State) : Steady s (restartReplayTimer s) :=
  Steady.of_fields

theorem suspend_steady (p : PathId) (s : State) : Steady s (suspend p s) := by
  cases p <;> exact Steady.of_fields

theorem endSuspensions_steady (s : State) : Steady s (endSuspensions s) :=
  Steady.of_fields

/-- A CLOSED stream has no path. -/
theorem choosePath_closed (closed : s.mir.stream = .closed) : choosePath s = none := by
  simp [choosePath, closed]

/-- The data path set to the one that R98 chooses. -/
theorem dataPath_kept (s : State) (n : Nat) (g : Option Word16) :
    Kept P s { s with mir := { s.mir with dataPath := choosePath s, replayCount := n, gapLatch := g } } := fun hs =>
  ⟨{ hs with
      quiet := fun c => by
        obtain ⟨replay, fr, dirty, held, _⟩ := hs.quiet c
        exact ⟨replay, fr, dirty, held, choosePath_closed c⟩ },
    fun _ w => ⟨w.sorted, { w.law with }⟩⟩

theorem rechoose_kept (s : State) : Kept P s (rechoose s) := by
  unfold rechoose
  simp only
  split
  · exact Kept.refl s
  · split
    · exact dataPath_kept s s.mir.replayCount s.mir.gapLatch
    · exact (dataPath_kept s 0 none).trans
        (((retransmitOn_steady _ _).trans (restartReplayTimer_steady _)).trans (raise_steady _ _)).kept

/-- The choice of a data path leaves what waits to be sent. -/
theorem rechoose_leaves (s : State) : (rechoose s).mir.stream = s.mir.stream ∧ (rechoose s).mir.replay = s.mir.replay ∧
    (rechoose s).mir.openFrame = s.mir.openFrame := by
  unfold rechoose
  simp only
  split
  · exact ⟨rfl, rfl, rfl⟩
  · split
    · exact ⟨rfl, rfl, rfl⟩
    · have again := ((retransmitOn_steady (choosePath s)
        { s with mir := { s.mir with dataPath := choosePath s, replayCount := 0, gapLatch := none } }).trans
          (restartReplayTimer_steady _)).trans (raise_steady .path _)
      exact ⟨again.stream, again.replay, again.openFrame⟩

theorem fcsCount_steady (s : State) (n : Nat) : Steady s { s with mir := { s.mir with fcsCount := n } } :=
  Steady.of_fields

theorem countFcs_kept (s : State) : Kept P s (countFcs s) := by
  unfold countFcs
  simp only
  have counted := fcsCount_steady s (min (s.mir.fcsCount + 1) 65535)
  split
  · split
    · exact Steady.kept Steady.of_fields
    · exact ((counted.trans (suspend_steady _ _)).trans (report_steady _ _ _)).kept.trans (rechoose_kept _)
  · exact counted.kept

/-! ## Close, opening and restart of the stream -/

theorem clearReleaseSeq_calm (e : HoldEntry) (s : State) : Calm s (clearReleaseSeq e s) := by
  unfold clearReleaseSeq
  simp only
  split
  · exact setRecord_calm _ _ s
  · exact Calm.refl s

theorem releaseHeld_calm (c : Ctr) (s : State) (e : HoldEntry) : Calm s (releaseHeld c s e) :=
  (clearReleaseSeq_calm e s).trans (((handToPort_steady _ _ _).trans (bump_steady _ _)).trans (bump_steady _ _)).toCalm

theorem disposeHold_calm (r : Role) (s : State) : Calm s (disposeHold r s) := by
  have left : ∀ l, Calm s { s with hold := l } := fun _ => Calm.of_fields
  unfold disposeHold
  split
  · exact Calm.refl s
  · split
    · exact (left _).trans (Calm.foldl (releaseHeld_calm _) _ _)
    · have dropped := ((left []).trans (Calm.foldl (fun t e => clearReleaseSeq_calm e t) s.hold _)).trans
        (bumpBy_steady .holdDropRole s.hold.length _).toCalm
      simp only
      split
      · exact dropped
      · exact dropped.trans (report_steady _ _ _).toCalm

theorem closeStream_calm (r : Role) (s : State) : Calm s (closeStream r s) := by
  by_cases closed : s.mir.stream = .closed
  · unfold closeStream; rw [if_pos closed]; exact Calm.refl s
  · obtain ⟨w, e, hw, _⟩ := closeStream_eq r s closed
    rw [e]
    refine Calm.trans ?_ (disposeHold_calm r w)
    rw [hw]
    exact Calm.of_fields

theorem freeAllRetired_sorted (hs : sparseSorted s.tbl.records = true) :
    sparseSorted (freeAllRetired s).tbl.records = true := (record_releaseAll s.tbl.retiredHandles hs 0).1

theorem closeStream_sorted (r : Role) (hs : sparseSorted s.tbl.records = true) :
    sparseSorted (closeStream r s).tbl.records = true := by
  by_cases closed : s.mir.stream = .closed
  · unfold closeStream; rw [if_pos closed]; exact hs
  · obtain ⟨w, e, _, ht⟩ := closeStream_eq r s closed
    rw [e]
    exact (disposeHold_sameTbl r w (by rw [ht]; exact freeAllRetired_sorted (clearDirty_sorted s hs))).sorted

theorem closeStream_kept (r : Role) (s : State) : Kept P s (closeStream r s) := by
  by_cases closed : s.mir.stream = .closed
  · unfold closeStream; rw [if_pos closed]; exact Kept.refl s
  · obtain ⟨mir, hold⟩ := closeStream_mir r s closed
    refine fun hs => ⟨(closeStream_calm r s).safe hs ?_ ?_ ?_ ?_, fun _ w => ⟨closeStream_sorted r w.sorted, ?_⟩⟩
    · intro _; rw [mir, hold]; exact ⟨rfl, rfl, rfl, rfl, rfl⟩
    · unfold streamConfined; rw [mir]; exact nofun
    · unfold replayBounded; rw [mir]; exact ⟨Nat.zero_le _, fun c => absurd rfl c⟩
    · unfold holdBounded; rw [hold]; exact Nat.zero_le _
    · refine queueLaw_of_idle (by rw [mir]; rfl) (by unfold removesInFlight; rw [mir]; rfl) hold fun h => ?_
      rw [(closeStream_records r s w.sorted closed).2 h]
      split
      · exact ⟨rfl, nofun⟩
      · next nr => exact ⟨rfl, nr⟩

/-- The old generation's marks, frames and RETIRED handles dropped: the held frames still are those of LIVE sessions. -/
theorem settled_law (w : Waits s) (dirty : t.mir.dirty = []) (flight : removesInFlight t = []) (hold : t.hold = s.hold)
    (reads : ∀ h, recordOf t h = if (recordOf s h).handleState = .retired then freedRecord (recordOf s h).epoch
      else { recordOf s h with pending := .none }) : QueueLaw t := by
  have idle : ∀ h, (recordOf t h).pending = .none ∧ (recordOf t h).handleState ≠ .retired := fun h => by
    rw [reads]
    split
    · exact ⟨rfl, nofun⟩
    · next nr => exact ⟨rfl, nr⟩
  refine ⟨?_, fun h c => absurd (idle h).1 c, ?_, fun _ h => (idle h).2, ?_⟩
  · rw [dirty]; exact ⟨List.nodup_nil, fun h => by simp [(idle h).1]⟩
  · rw [flight]; exact ⟨List.nodup_nil, fun h => by simp [(idle h).2]⟩
  · rw [hold]
    refine ⟨w.law.hold.1, fun e he => ?_⟩
    obtain ⟨live, epoch⟩ := w.law.hold.2 e he
    rw [reads, if_neg (by rw [live]; decide)]
    exact ⟨live, epoch⟩

/-- A record without its mirrored group, when it is LIVE (R85). -/
def ungrouped (r : Record) : Record := if r.handleState = .live then { r with body := { r.body with mirrored := none } } else r

theorem settleOldStream_kept (s : State) : Kept P s (settleOldStream s) := by
  have freed : Kept P s (freeAllRetired (clearDirty (clearReplay s))) := by
    refine fun hs => ⟨?_, fun _ w => ⟨freeAllRetired_sorted (clearDirty_sorted _ w.sorted), ?_⟩⟩
    · refine { hs with quiet := fun c => ?_, replay := ⟨Nat.zero_le _, fun c => absurd rfl c⟩ }
      obtain ⟨_, _, _, held, path⟩ := hs.quiet c
      exact ⟨rfl, rfl, rfl, held, path⟩
    · refine settled_law w rfl rfl rfl fun h => ?_
      rw [recordOf_freeAllRetired (clearDirty_sorted (clearReplay s) w.sorted),
        recordOf_clearDirty (s := clearReplay s) w.sorted]
      rfl
  have dropped : ∀ v, Kept P v (dropMirrored v) := fun v =>
    Calm.kept Calm.of_fields rfl (List.Sublist.refl _) fun sorted =>
      ⟨mapRecords_sorted ungrouped sorted, fun h => by
        rw [recordOf_map ungrouped rfl sorted (t := dropMirrored v) rfl]
        unfold ungrouped
        split <;> exact ⟨rfl, rfl, rfl⟩⟩
  exact (freed.trans (flushHold_kept _)).trans (dropped _)

theorem settleOldStream_mir (s : State) : (settleOldStream s).mir =
    { s.mir with dirty := [], replay := [], replayCount := 0, replayTimer := .stopped, gapLatch := none, openFrame := none } :=
  flushHold_touches _ .mir (by decide)

/-- The frame that a stream begins with: nothing else is in flight. -/
theorem firstFrame_kept (s : State) (opened : s.mir.stream = .opened) (replay : s.mir.replay = [])
    (none : s.mir.openFrame = none) (fr : OpenFrame) (hf : fr.removes = []) :
    Kept P s { s with mir := { s.mir with
      nextSeq := 0#16, sinceCheckpoint := 0, walk := .walking, cursor := 0, turn := .liveFirst, openFrame := some fr } } := fun hs =>
  ⟨{ hs with
      quiet := fun c => by cases opened.symm.trans c
      replay := ⟨hs.replay.1, fun _ => by show s.mir.replay.length < _; rw [replay]; decide⟩ },
    fun _ w => ⟨w.sorted, { w.law with
      closed := fun c => by cases opened.symm.trans c
      flight := by
        have same : removesInFlight s = [] := by unfold removesInFlight; rw [replay, none]; rfl
        have law := w.law.flight
        rw [same] at law
        unfold removesInFlight
        simp only [replay, hf]
        exact law }⟩⟩

theorem beginStream_kept (g : Word32) (s : State) (may : s.pai.role.mayStream = true) : Kept P s (beginStream g s) := by
  have numbered : Steady s { s with pai := { s.pai with pairGen := g } } :=
    Steady.of_fields
  have settled := (numbered.kept (P := P)).trans
    ((settleOldStream_kept _).trans (endSuspensions_steady _).kept)
  have mir := settleOldStream_mir { s with pai := { s.pai with pairGen := g } }
  have pai : (settleOldStream { s with pai := { s.pai with pairGen := g } }).pai = { s.pai with pairGen := g } :=
    settleOldStream_touches _ .pai (by decide)
  unfold beginStream
  simp only
  generalize settleOldStream { s with pai := { s.pai with pairGen := g } } = v at *
  split
  · have opened : Kept P (endSuspensions v)
        { endSuspensions v with mir := { (endSuspensions v).mir with stream := .opened } } := fun hs =>
      ⟨{ hs with
          quiet := nofun
          stream := fun _ => by show v.pai.role.mayStream = true; rw [pai]; exact may },
        fun _ w => ⟨w.sorted, { w.law with closed := nofun }⟩⟩
    have chosen := dataPath_kept (P := P) { endSuspensions v with mir := { (endSuspensions v).mir with stream := .opened } }
      v.mir.replayCount v.mir.gapLatch
    refine (((settled.trans opened).trans chosen).trans (firstFrame_kept _ rfl ?_ ?_ _ rfl)).trans
      ((bump_steady _ _).trans (raise_steady _ _)).kept
    · show v.mir.replay = _; rw [mir]
    · show v.mir.openFrame = _; rw [mir]
  · next open_ =>
    obtain ⟨stream, replay, fr⟩ := rechoose_leaves (endSuspensions v)
    refine ((settled.trans (rechoose_kept _)).trans (firstFrame_kept _ ?_ ?_ ?_ _ rfl)).trans
      ((bump_steady _ _).trans (raise_steady _ _)).kept
    · rw [stream]
      show v.mir.stream = _
      rw [mir]
      cases h : s.mir.stream
      · exact absurd h open_
      · rfl
    · rw [replay]; show v.mir.replay = _; rw [mir]
    · rw [fr]; show v.mir.openFrame = _; rw [mir]

end Sys2Proof.Machine
end

section
/-! SUPPORT. The law `Safe` and the law of what waits for the peer. The mirror transmitter: frames closed, deltas placed and
built, frames sent again and acknowledged. -/

-- One proof at a time: proofs that wait for earlier checks would each take a thread.
set_option Elab.async false

namespace Sys2Proof.Machine

open Sys2Proof.Safety

variable {P : Prop} {s t u : State}

/-! ## Frames closed (R75, R92) -/

theorem writeReleaseSeq_kept (q : Word16) (s : State) (c : Nat × Word16) : Kept P s (writeReleaseSeq q s c) := by
  have tags : Kept P s
      { s with hold := s.hold.map fun e => if takesSeq c e then { e with releaseSeq := some q } else e } := by
    refine Calm.kept Calm.of_fields rfl ?_ fun sorted => ⟨sorted, fun _ => ⟨rfl, rfl, rfl⟩⟩
    have same : ∀ e : HoldEntry, (if takesSeq c e then { e with releaseSeq := some q } else e).tag = e.tag := fun e => by
      split <;> rfl
    have tags : (s.hold.map fun e => if takesSeq c e then { e with releaseSeq := some q } else e).map HoldEntry.tag =
        s.hold.map HoldEntry.tag := by
      rw [List.map_map]
      exact List.map_congr_left fun e _ => same e
    rw [tags]
  unfold writeReleaseSeq
  split
  · simp only
    split
    · exact tags.trans (setRecord_kept _ _ _)
    · exact tags
  · exact Kept.refl s

/-- The open frame joins the replay queue: what is in flight stands in the same order. -/
theorem joinsReplay_kept (s : State) (fr : OpenFrame) (hf : s.mir.openFrame = some fr) (d : DataFrame)
    (hd : d.removes = fr.removes) (seq : Word16) (n : Nat) (tm : Timer) :
    Kept P s { s with mir := { s.mir with
      openFrame := none, nextSeq := seq, sinceCheckpoint := n, replay := s.mir.replay ++ [d], replayTimer := tm } } := by
  refine fun hs => ⟨?_, fun _ w => ⟨w.sorted, ?_⟩⟩
  · refine { hs with
      quiet := fun c => absurd (hf.symm.trans (hs.quiet c).2.1) (by simp)
      replay := ⟨?_, fun c => absurd rfl c⟩ }
    show (s.mir.replay ++ [d]).length ≤ _
    rw [List.length_append, List.length_singleton]
    exact hs.replay.2 (by rw [hf]; simp)
  · refine queueLaw_of_same w.law (fun _ => ⟨rfl, rfl, rfl⟩) rfl rfl ?_ (List.Sublist.refl _)
    unfold removesInFlight
    simp [hf, hd]

theorem closeFrame_kept (s : State) : Kept P s (closeFrame s) := by
  unfold closeFrame
  split
  · exact Kept.refl s
  · next fr hf =>
    have closed := (joinsReplay_kept (P := P) s fr hf
      { gen := s.pai.pairGen, seq := s.mir.nextSeq, deltas := fr.deltas, removes := fr.removes, creates := fr.creates } rfl
      (s.mir.nextSeq + 1#16) (min (s.mir.sinceCheckpoint + 1) 4096)
      (if s.mir.replay = [] then .running s.cfg.replayTimeout else s.mir.replayTimer)).trans
      (Kept.foldl (writeReleaseSeq_kept s.mir.nextSeq) fr.creates _)
    simp only
    split
    · exact closed
    · exact closed.trans ((sendMirror_steady _ _ _).trans (bump_steady _ _)).kept

/-- A frame closed leaves the marks and the stream. -/
theorem closeFrame_leaves (s : State) : (closeFrame s).mir.dirty = s.mir.dirty ∧ (closeFrame s).mir.stream = s.mir.stream := by
  unfold closeFrame
  split
  · exact ⟨rfl, rfl⟩
  · next fr _ =>
    have written : ∀ v : State, (fr.creates.foldl (writeReleaseSeq s.mir.nextSeq) v).mir = v.mir := fun v =>
      Touches.foldl (writeReleaseSeq_touches s.mir.nextSeq) fr.creates v .mir (by decide)
    have sent : ∀ p b v, (bump .dataSent (sendMirror p b v)).mir = v.mir := fun p b v =>
      sendMirror_touches p b v .mir (by decide)
    simp only
    split
    · rw [written]; exact ⟨rfl, rfl⟩
    · rw [sent, written]; exact ⟨rfl, rfl⟩

/-! ## Deltas placed (R89 to R91) -/

theorem writeMirrored_kept (h : Nat) (s : State) : Kept P s (writeMirrored h s) := setRecord_kept h _ s

theorem groupBuilt_kept (h : Nat) (s : State) : Kept P s (groupBuilt h s) := by
  unfold groupBuilt
  split
  · exact writeMirrored_kept h s
  · exact writeMirrored_kept h s
  · exact Kept.refl s
  · exact Kept.refl s

/-- A mirrored group built leaves what the law reads. -/
theorem groupBuilt_reads (hs : sparseSorted s.tbl.records = true) (h i : Nat) :
    (recordOf (groupBuilt h s) i).handleState = (recordOf s i).handleState ∧
    (recordOf (groupBuilt h s) i).pending = (recordOf s i).pending ∧
    (recordOf (groupBuilt h s) i).epoch = (recordOf s i).epoch := by
  have written : ∀ i, (recordOf (writeMirrored h s) i).handleState = (recordOf s i).handleState ∧
      (recordOf (writeMirrored h s) i).pending = (recordOf s i).pending ∧
      (recordOf (writeMirrored h s) i).epoch = (recordOf s i).epoch := fun i => by
    unfold writeMirrored
    simp only
    rw [recordOf_setRecord hs]
    split
    · next e => subst e; exact ⟨rfl, rfl, rfl⟩
    · exact ⟨rfl, rfl, rfl⟩
  unfold groupBuilt
  split
  · exact written i
  · exact written i
  · exact ⟨rfl, rfl, rfl⟩
  · exact ⟨rfl, rfl, rfl⟩

/-- The handle that a delta was built for: its mark is gone, and its REMOVE is in flight. -/
theorem built_law (w : Waits s) (h : Nat) (marked : (recordOf s h).pending ≠ .none)
    (dirty : t.mir.dirty = s.mir.dirty.filter fun k => k != h) (stream : t.mir.stream = s.mir.stream) (hold : t.hold = s.hold)
    (flight : removesInFlight t = removesInFlight s ++ (if (recordOf s h).pending = .remove then [h] else []))
    (same : ∀ i, (recordOf t i).handleState = (recordOf s i).handleState ∧ (recordOf t i).epoch = (recordOf s i).epoch)
    (pending : ∀ i, (recordOf t i).pending = if i = h then .none else (recordOf s i).pending) : QueueLaw t := by
  have out : h ∉ removesInFlight s := fun m => marked ((w.law.flight.2 h).1 m).2
  refine ⟨⟨?_, fun i => ?_⟩, fun i => ?_, ⟨?_, fun i => ?_⟩, fun c i => ?_, ?_⟩
  · rw [dirty]; exact w.law.dirty.1.filter _
  · rw [dirty, List.mem_filter, w.law.dirty.2, pending]
    split
    · next e => simp [e]
    · next e => simp [e]
  · rw [pending, (same i).1]
    split
    · exact fun c => absurd rfl c
    · exact w.law.kinds i
  · rw [flight]
    split
    · exact List.nodup_append'.2 ⟨w.law.flight.1, List.nodup_singleton h, by simpa using out⟩
    · rw [List.append_nil]; exact w.law.flight.1
  · rw [flight, List.mem_append, w.law.flight.2, (same i).1, pending]
    by_cases e : i = h
    · subst e
      rcases w.law.kinds i marked with ⟨live, nr⟩ | ⟨retired, remove⟩
      · simp [live, nr]
      · simp [retired, remove]
    · have no : i ∉ (if (recordOf s h).pending = .remove then [h] else []) := by
        split
        · simpa using e
        · simp
      simp [no, e]
  · rw [(same i).1]; exact w.law.closed (stream ▸ c) i
  · rw [hold]
    exact ⟨w.law.hold.1, fun e he => by rw [(same _).1, (same _).2]; exact w.law.hold.2 e he⟩

/-- The removes of the frame that a delta of a handle joins. -/
theorem addDelta_removes (h : Nat) (s : State) (fr : OpenFrame) :
    (addDelta (.live h) s fr).removes = fr.removes ++ (if (recordOf s h).pending = .remove then [h] else []) := by
  unfold addDelta
  simp only
  cases pending : (recordOf s h).pending <;> simp

theorem removesInFlight_openFrameOf (s : State) :
    removesInFlight s = s.mir.replay.flatMap DataFrame.removes ++ (openFrameOf s).removes := by
  unfold removesInFlight openFrameOf
  cases s.mir.openFrame <;> rfl

/-- A frame is open, or the replay queue has room for a new one, while the stream is OPEN. -/
def MayPlace (s : State) : Prop := s.mir.stream ≠ .closed ∧ (s.mir.openFrame ≠ none ∨ s.mir.replay.length < Config.replayRoom)

/-- The open frame takes a delta that is no REMOVE. -/
theorem openFrame_kept (s : State) (may : MayPlace s) (fr : OpenFrame) (hr : fr.removes = (openFrameOf s).removes) :
    Kept P s { s with mir := { s.mir with openFrame := some fr } } := by
  refine fun hs => ⟨{ hs with
    quiet := fun c => absurd c may.1
    replay := ⟨hs.replay.1, fun _ => may.2.elim hs.replay.2 id⟩ }, fun _ w => ⟨w.sorted, ?_⟩⟩
  refine queueLaw_of_same w.law (fun _ => ⟨rfl, rfl, rfl⟩) rfl rfl ?_ (List.Sublist.refl _)
  rw [removesInFlight_openFrameOf s]
  simp only [removesInFlight, hr]

theorem placeLive_kept (h : Nat) (s : State) (may : MayPlace s) (mem : h ∈ s.mir.dirty) :
    Kept P s (placeChoice (.live h) s) := by
  have mir : (groupBuilt h s).mir = s.mir := groupBuilt_touches h s .mir (by decide)
  have hold : (groupBuilt h s).hold = s.hold := groupBuilt_touches h s .hold (by decide)
  refine fun hs => ⟨?_, fun p w => ?_⟩
  · have group := ((groupBuilt_kept (P := P) h s) hs).1
    refine { group with
      quiet := fun c => ?_
      stream := fun c => group.stream ?_
      replay := ⟨?_, fun _ => ?_⟩ }
    · exact absurd (show s.mir.stream = .closed from mir ▸ c) may.1
    · exact c
    · show (groupBuilt h s).mir.replay.length ≤ _
      rw [mir]; exact hs.replay.1
    · show (groupBuilt h s).mir.replay.length < _
      rw [mir]; exact may.2.elim hs.replay.2 id
  · have marked : (recordOf s h).pending ≠ .none := (w.law.dirty.2 h).1 mem
    have sorted := ((groupBuilt_kept (P := P) h s hs).2 p w).sorted
    have reads : ∀ i, recordOf (placeChoice (.live h) s) i =
        if i = h then { recordOf (groupBuilt h s) h with pending := .none } else recordOf (groupBuilt h s) i :=
      recordOf_setRecord sorted h _
    refine ⟨setRecord_sorted sorted h _, built_law w h marked ?_ ?_ hold ?_ (fun i => ?_) fun i => ?_⟩
    · show (groupBuilt h s).mir.dirty.filter _ = _; rw [mir]
    · show (groupBuilt h s).mir.stream = _; rw [mir]
    · show (groupBuilt h s).mir.replay.flatMap DataFrame.removes ++ (addDelta (.live h) s (openFrameOf s)).removes = _
      rw [mir, addDelta_removes, removesInFlight_openFrameOf, List.append_assoc]
    · rw [reads]
      split
      · next e => subst e; exact ⟨(groupBuilt_reads w.sorted i i).1, (groupBuilt_reads w.sorted i i).2.2⟩
      · exact ⟨(groupBuilt_reads w.sorted h i).1, (groupBuilt_reads w.sorted h i).2.2⟩
    · rw [reads]
      split
      · rfl
      · exact (groupBuilt_reads w.sorted h i).2.1

/-- A choice is to be built: a live delta's handle is on the dirty list. -/
def Marked (c : Choice) (s : State) : Prop := ∀ h, c = .live h → h ∈ s.mir.dirty

theorem placeChoice_kept (c : Choice) (s : State) (may : MayPlace s) (marked : Marked c s) : Kept P s (placeChoice c s) := by
  cases c with
  | live h => exact placeLive_kept h s may (marked h rfl)
  | bulkRecord h =>
    have mir : (writeMirrored h s).mir = s.mir := writeMirrored_touches h s .mir (by decide)
    have walked : Steady (writeMirrored h s) (builtEffect (.bulkRecord h) s) :=
      Steady.of_fields
    refine ((writeMirrored_kept h s).trans walked.kept).trans (openFrame_kept _ ?_ _ ?_)
    · unfold MayPlace
      rw [walked.stream, walked.openFrame, walked.replay, mir]
      exact may
    · show (openFrameOf s).removes = (openFrameOf (builtEffect (.bulkRecord h) s)).removes
      have cfg : (builtEffect (.bulkRecord h) s).cfg = s.cfg := rfl
      unfold openFrameOf
      rw [walked.openFrame, mir, cfg]
  | bulkEnd =>
    refine Kept.trans (t := builtEffect .bulkEnd s)
      (Steady.kept Steady.of_fields)
      (openFrame_kept (builtEffect .bulkEnd s) may _ rfl)
  | checkpoint =>
    refine Kept.trans (t := builtEffect .checkpoint s)
      (Steady.kept Steady.of_fields)
      (openFrame_kept (builtEffect .checkpoint s) may _ rfl)

theorem buildChoice_kept (c : Choice) (s : State) (may : MayPlace s) (marked : Marked c s) : Kept P s (buildChoice c s) := by
  unfold buildChoice
  simp only
  split
  · exact (placeChoice_kept c s may marked).trans (closeFrame_kept _)
  · exact placeChoice_kept c s may marked

theorem commitChoice_steady (c : Choice) (s : State) : Steady s (commitChoice c s) := by
  unfold commitChoice
  split
  · exact Steady.of_fields
  · exact Steady.refl s

theorem buildOverflow_kept (c : Choice) (s : State) (may : MayPlace s) (marked : Marked c s) : Kept P s (buildOverflow c s) := by
  have commit := commitChoice_steady c s
  obtain ⟨dirty, stream⟩ := closeFrame_leaves (commitChoice c s)
  have closed := (commit.kept (P := P)).trans (closeFrame_kept (commitChoice c s))
  unfold buildOverflow
  simp only
  split
  · next room =>
    refine closed.trans (buildChoice_kept c _ ⟨?_, .inr room⟩ fun h e => ?_)
    · rw [stream, commit.stream]; exact may.1
    · rw [dirty, commit.dirty]; exact marked h e
  · exact closed

theorem chooseDelta_marked (c : Choice) (s : State) (h : chooseDelta s = some c) : Marked c s := by
  rintro i rfl
  unfold chooseDelta at h
  cases hd : s.mir.dirty with
  | nil =>
    simp only [hd] at h
    cases hw : s.mir.walk <;> simp only [hw] at h
    · split at h <;> cases h
    · cases ht : s.mir.turn <;> simp only [ht] at h <;> cases h
    · cases h
  | cons k rest =>
    simp only [hd] at h
    cases hw : s.mir.walk <;> simp only [hw] at h
    · cases h; exact List.mem_cons_self
    · cases ht : s.mir.turn <;> simp only [ht] at h
      · cases h; exact List.mem_cons_self
      · cases h
    · cases h; exact List.mem_cons_self

theorem advanceWalk_steady (s : State) : Steady s (advanceWalk s) := by
  unfold advanceWalk
  split
  · split <;> exact Steady.of_fields
  · exact Steady.refl s

theorem buildNext_kept (s : State) (may : MayPlace s) : Kept P s (buildNext s) := by
  unfold buildNext
  split
  · split
    · exact closeFrame_kept s
    · exact Kept.refl s
  · next c hc =>
    split
    · exact buildChoice_kept c s may (chooseDelta_marked c s hc)
    · exact buildOverflow_kept c s may (chooseDelta_marked c s hc)

theorem buildDelta_kept (s : State) : Kept P s (buildDelta s) := by
  unfold buildDelta
  split
  · exact Kept.refl s
  · next opened =>
    split
    · exact Kept.refl s
    · next room =>
      have walk := advanceWalk_steady s
      refine walk.kept.trans (buildNext_kept _ ⟨by rw [walk.stream]; exact opened, ?_⟩)
      rw [walk.openFrame, walk.replay]
      by_cases none : s.mir.openFrame = .none
      · exact .inr (Nat.lt_of_not_le fun full => room ⟨by simp [none], full⟩)
      · exact .inl none

/-! ## Retransmissions and acknowledgements (R94, R95, R97) -/

theorem suspendDataPath_steady (s : State) : Steady s (suspendDataPath s) := by
  unfold suspendDataPath
  split
  · exact Steady.refl s
  · exact suspend_steady _ s

theorem atReplayLimit_kept (s : State) (may : s.pai.role.mayStream = true) : Kept P s (atReplayLimit s) := by
  unfold atReplayLimit
  split
  · simp only
    generalize hv : report .mir2 { ErrInfo.none with place := s.mir.dataPath.map pathPlace } s = v
    have filed : Steady s v := hv ▸ report_steady _ _ s
    have suspended : Steady s (clearReplayCount (suspendDataPath v)) :=
      (filed.trans (suspendDataPath_steady v)).trans
        Steady.of_fields
    have chosen := (suspended.kept (P := P)).trans (rechoose_kept _)
    have role : (rechoose (clearReplayCount (suspendDataPath v))).pai = (clearReplayCount (suspendDataPath v)).pai :=
      rechoose_touches _ .pai (by decide)
    split
    · refine chosen.trans ((report_steady _ _ _).kept.trans (beginStream_kept _ _ ?_))
      rw [report_pai, role, suspended.role]
      exact may
    · exact chosen
  · exact Kept.refl s

/-- A whole-queue retransmission, up to the replay limit. -/
theorem resend_kept (s : State) (p : Option PathId) (g : Option Word16) (may : s.pai.role.mayStream = true) :
    Kept P s (atReplayLimit (restartReplayTimer { retransmitOn p s with
      mir := { (retransmitOn p s).mir with replayCount := (retransmitOn p s).mir.replayCount + 1, gapLatch := g } })) := by
  have again : Steady s (restartReplayTimer { retransmitOn p s with
      mir := { (retransmitOn p s).mir with replayCount := (retransmitOn p s).mir.replayCount + 1, gapLatch := g } }) :=
    (retransmitOn_steady p s).trans Steady.of_fields
  exact again.kept.trans (atReplayLimit_kept _ (by rw [again.role]; exact may))

theorem replayExpired_kept (s : State) (may : s.pai.role.mayStream = true) : Kept P s (replayExpired s) :=
  resend_kept s _ _ may

theorem gapRetransmit_kept (n : Word16) (s : State) (may : s.pai.role.mayStream = true) : Kept P s (gapRetransmit n s) :=
  resend_kept s _ _ may

/-- The oldest frames acknowledged: the RETIRED handles of their REMOVEs are FREE. -/
theorem acked_law (w : Waits s) (l rest : List Nat) (hl : removesInFlight s = l ++ rest) (dirty : t.mir.dirty = s.mir.dirty)
    (stream : t.mir.stream = s.mir.stream) (hold : t.hold = s.hold) (flight : removesInFlight t = rest)
    (reads : ∀ h, recordOf t h = if h ∈ l ∧ (recordOf s h).handleState = .retired then freedRecord (recordOf s h).epoch
      else recordOf s h) : QueueLaw t := by
  have law := w.law.flight
  rw [hl] at law
  have acked : ∀ h, h ∈ l → (recordOf s h).handleState = .retired ∧ (recordOf s h).pending = .none := fun h m =>
    (law.2 h).1 (List.mem_append_left _ m)
  have pending : ∀ h, (recordOf t h).pending = (recordOf s h).pending := fun h => by
    rw [reads]
    split
    · next c => rw [(acked h c.1).2]; rfl
    · rfl
  have state : ∀ h, h ∉ l → recordOf t h = recordOf s h := fun h m => by rw [reads, if_neg fun c => m c.1]
  have freed : ∀ h, h ∈ l → (recordOf t h).handleState = .free := fun h m => by
    rw [reads, if_pos ⟨m, (acked h m).1⟩]; rfl
  refine ⟨⟨by rw [dirty]; exact w.law.dirty.1, fun h => by rw [dirty, pending]; exact w.law.dirty.2 h⟩, fun h c => ?_,
    ⟨?_, fun h => ?_⟩, fun c h => ?_, ?_⟩
  · rw [pending] at c
    have m : h ∉ l := fun m => c (acked h m).2
    rw [state h m]
    exact w.law.kinds h c
  · rw [flight]; exact (List.nodup_append'.1 law.1).2.1
  · rw [flight]
    by_cases m : h ∈ l
    · have no : h ∉ rest := (List.nodup_append'.1 law.1).2.2 m
      simp [no, freed h m]
    · rw [state h m, ← law.2, List.mem_append]
      simp [m]
  · by_cases m : h ∈ l
    · rw [freed h m]; decide
    · rw [state h m]; exact w.law.closed (stream ▸ c) h
  · rw [hold]
    refine ⟨w.law.hold.1, fun e he => ?_⟩
    obtain ⟨live, epoch⟩ := w.law.hold.2 e he
    rw [state e.handle fun m => by rw [(acked _ m).1] at live; cases live]
    exact ⟨live, epoch⟩

theorem takeAck_kept (k : Nat) (s : State) : Kept P s (takeAck k s) := by
  have taken : Kept P s
      { s with
        mir := { s.mir with replay := s.mir.replay.drop k, replayCount := 0, gapLatch := none }
        tbl := ((s.mir.replay.take k).flatMap DataFrame.removes).foldl Tbl.releaseRetired s.tbl } := by
    refine fun hs => ⟨{ hs with quiet := fun c => ?_, replay := ⟨?_, fun c => ?_⟩ }, fun _ w => ⟨?_, ?_⟩⟩
    · obtain ⟨replay, fr, dirty, held, path⟩ := hs.quiet c
      exact ⟨by rw [replay]; exact List.drop_nil, fr, dirty, held, path⟩
    · exact (by rw [List.length_drop]; omega : (s.mir.replay.drop k).length ≤ s.mir.replay.length).trans hs.replay.1
    · exact lt_of_le_of_lt (by rw [List.length_drop]; omega : (s.mir.replay.drop k).length ≤ s.mir.replay.length)
        (hs.replay.2 c)
    · exact (record_releaseAll _ w.sorted 0).1
    · refine acked_law w ((s.mir.replay.take k).flatMap DataFrame.removes)
        (removesInFlight { s with mir := { s.mir with replay := s.mir.replay.drop k } }) ?_ rfl rfl rfl rfl fun h =>
        (record_releaseAll _ w.sorted h).2
      unfold removesInFlight
      rw [← List.append_assoc, ← List.flatMap_append, List.take_append_drop]
  unfold takeAck
  exact taken.trans ((releaseWhere_kept _ _ _).trans (restartReplayTimer_steady _).kept)

theorem receiveAck_kept (g : Word32) (n : Word16) (gap : Bool) (s : State) : Kept P s (receiveAck g n gap s) := by
  refine Kept.of_safe fun hs => ?_
  unfold receiveAck
  split
  · exact (bump_steady _ s).kept
  · next closed =>
    have may : s.pai.role.mayStream = true := hs.stream (by cases h : s.mir.stream <;> simp_all)
    split
    · exact (bump_steady _ s).kept
    · simp only
      split
      · split
        · exact gapRetransmit_kept _ s may
        · exact (bump_steady _ s).kept
      · split
        · have role : (takeAck (n - oldestSeq s.mir).toNat s).pai = s.pai := takeAck_touches _ s .pai (by decide)
          split
          · exact (takeAck_kept _ s).trans (gapRetransmit_kept _ _ (by rw [role]; exact may))
          · exact takeAck_kept _ s
        · exact ((report_steady _ _ s).trans (bump_steady _ _)).kept

end Sys2Proof.Machine
end

section
/-! SUPPORT. The law `Safe` and the law of what waits for the peer. Role changes, faults, the checks of slots and records; and
the canonical stores and free runs that a lookup and an install count on, `Indexed`. -/

-- One proof at a time: proofs that wait for earlier checks would each take a thread.
set_option Elab.async false

namespace Sys2Proof.Machine

open Sys2Proof.Safety

variable {P : Prop} {s t u : State}

/-! ## A role change (R139) -/

/-- What a role change counts on: it brings the items confined to roles into their bounds itself. -/
structure Changeable (s : State) : Prop where
  queues  : queuesBounded s
  quiet   : closedIsQuiet s
  replay  : replayBounded s
  hold    : holdBounded s
  refresh : refreshConfined s

theorem Changeable.of_safe (h : Safe s) : Changeable s := ⟨h.queues, h.quiet, h.replay, h.hold, h.refresh⟩

theorem shdAfter_confined (from_ to_ : Role) (s : State) (h : refreshConfined s) (hf : s.pai.role = from_) :
    (shdAfter from_ to_ s).refresh.length ≤ Config.refreshRoom ∧ (shdAfter from_ to_ s).refresh.Nodup ∧
      (to_.isStandby = false → (shdAfter from_ to_ s).refresh = [] ∧ (shdAfter from_ to_ s).bulkWanted = false) := by
  obtain ⟨length, nodup, confined⟩ := h
  rw [hf] at confined
  unfold shdAfter
  split
  · exact ⟨Nat.zero_le _, List.nodup_nil, fun _ => ⟨rfl, rfl⟩⟩
  · next leaves =>
    split
    · next enters => exact ⟨length, nodup, fun c => absurd (enters.2.symm.trans c) (by decide)⟩
    · refine ⟨length, nodup, fun c => confined ?_⟩
      cases hb : from_.isStandby
      · rfl
      · exact absurd ⟨hb, c⟩ leaves

/-- A role change leads to a state that a run may pass through. -/
theorem changeRole_safe (to_ : Role) (cause : Cause) (h : Changeable s) : Safe (changeRole to_ cause s) := by
  have ch := changeRole_changed to_ cause s
  generalize changeRole to_ cause s = t at ch
  have role : t.pai.role = to_ := by rw [ch.pai]; rfl
  have keepalive := congrArg Flt.keepalive ch.rest
  have mgt : t.mgtQueue = s.mgtQueue := ch.blocks .mgtQueue (by decide)
  obtain ⟨p, w, sq, m⟩ := h.queues
  constructor
  case queues =>
    unfold queuesBounded
    rw [ch.prt, mgt]
    refine ⟨p, ?_, ?_, m⟩ <;> (simp only [List.length_append, List.length_take]; omega)
  case tolerance =>
    intro c
    rw [role] at c
    rw [ch.tko.tolerance, ch.tko.grace, if_neg c, if_neg c]
    exact ⟨rfl, rfl⟩
  case quiet =>
    intro c
    by_cases st : streamStays to_ s
    · obtain ⟨mir, hold⟩ := ch.stays st
      rw [mir] at c ⊢
      rw [hold]
      exact h.quiet c
    · obtain ⟨mir, hold⟩ := ch.closes st
      rw [mir, hold]
      exact ⟨rfl, rfl, rfl, rfl, rfl⟩
  case stream =>
    intro c
    rw [role, Role.mayStream_iff]
    by_cases st : streamStays to_ s
    · rw [(ch.stays st).1] at c
      exact st.resolve_left fun closed => by cases c.symm.trans closed
    · rw [(ch.closes st).1] at c; cases c
  case replay =>
    unfold replayBounded
    by_cases st : streamStays to_ s
    · rw [(ch.stays st).1]; exact h.replay
    · rw [(ch.closes st).1]; exact ⟨Nat.zero_le _, fun c => absurd rfl c⟩
  case hold =>
    unfold holdBounded
    by_cases st : streamStays to_ s
    · rw [(ch.stays st).2]; exact h.hold
    · rw [(ch.closes st).2]; exact Nat.zero_le _
  case refresh =>
    unfold refreshConfined
    rw [role, ch.shd]
    exact shdAfter_confined _ to_ s h.refresh rfl
  case yielding =>
    intro c
    rw [role] at c
    rw [ch.pai]
    exact ⟨rfl, if_neg c⟩
  case burst => exact fun c => ch.tko.ended (role ▸ c)
  case keepalive =>
    intro c
    rw [role] at c
    refine keepalive.trans (if_pos ?_)
    cases to_ <;> simp_all [Role.keepaliveRuns]
  case history =>
    unfold historyBounded
    rw [ch.pai]
    simp only [paiAfter, List.length_drop, List.length_append, List.length_singleton, Config.historyRoom]
    omega

theorem streamAtChange_sorted (r : Role) (hs : sparseSorted s.tbl.records = true) :
    sparseSorted (streamAtChange r s).tbl.records = true := by
  unfold streamAtChange
  split
  · exact hs
  · exact closeStream_sorted r hs

theorem changeRole_sorted (to_ : Role) (cause : Cause) (hs : sparseSorted s.tbl.records = true) :
    sparseSorted (changeRole to_ cause s).tbl.records = true := by
  unfold changeRole
  simp only
  generalize hv : raise .role (addHistory s.pai.role to_ cause { s with pai := { s.pai with role := to_ } }) = v
  have sorted : sparseSorted v.tbl.records = true := by rw [← hv]; exact hs
  generalize hu : streamAtChange to_ (standbyAtChange s.pai.role to_ cause v) = u
  have settled : sparseSorted u.tbl.records = true := by
    rw [← hu]; exact streamAtChange_sorted to_ (standbyAtChange_sameTbl s.pai.role to_ cause v sorted).sorted
  have rest : Touches [.prt, .flt, .pai, .tko, .tim] u _ :=
    (listenAtChange_touches to_ u).mono.trans <| (yieldAtChange_touches to_ _).mono.trans <|
    (takeoverAtChange_touches s.pai.role to_ _).mono.trans <| (burstAtChange_touches s.pai.role to_ _).mono.trans <|
    (keepaliveAtChange_touches to_ _).mono.trans <| (patrolAtChange_touches to_ _).mono.trans <|
    (detachAtChange_touches to_ _).mono.trans (sendHello_touches _).mono
  rw [rest .tbl (by decide)]
  exact settled

/-- A role change keeps the law of what waits for the peer: it changes nothing of it, or closes the stream. -/
theorem changeRole_waits (to_ : Role) (cause : Cause) (w : Waits s) : Waits (changeRole to_ cause s) := by
  have ch := changeRole_changed to_ cause s
  refine ⟨changeRole_sorted to_ cause w.sorted, ?_⟩
  generalize changeRole to_ cause s = t at ch
  have reads := (ch.tbl w.sorted).record
  by_cases st : streamStays to_ s
  · obtain ⟨mir, hold⟩ := ch.stays st
    refine queueLaw_of_same w.law (fun h => ?_) (by rw [mir]) (by rw [mir]) (by unfold removesInFlight; rw [mir]) (by rw [hold])
    rw [reads]
    simp only [st, not_true_eq_false, false_and, if_false, if_true, and_self]
  · obtain ⟨mir, hold⟩ := ch.closes st
    refine queueLaw_of_idle (by rw [mir]; rfl) (by unfold removesInFlight; rw [mir]; rfl) hold fun h => ?_
    rw [reads]
    simp only [st, not_false_eq_true, true_and, if_false]
    split
    · exact ⟨rfl, nofun⟩
    · next nr => exact ⟨rfl, nr⟩

theorem changeRole_kept (to_ : Role) (cause : Cause) (s : State) : Kept P s (changeRole to_ cause s) := fun hs =>
  ⟨changeRole_safe to_ cause (Changeable.of_safe hs), fun _ w => changeRole_waits to_ cause w⟩

theorem changeRole_role (to_ : Role) (cause : Cause) (s : State) : (changeRole to_ cause s).pai.role = to_ := by
  rw [(changeRole_changed to_ cause s).pai]; rfl

/-! ## Faults (R46, R138, R178) -/

theorem raiseFault_kept (c : ErrCode) (i : ErrInfo) (s : State) : Kept P s (raiseFault c i s) := by
  unfold raiseFault
  simp only
  split
  · exact (report_steady _ _ s).kept
  · exact (report_steady _ _ s).kept.trans (changeRole_kept _ _ _)

/-- Behind a fault the part is in FAULTED or DETACHED. -/
theorem raiseFault_role (c : ErrCode) (i : ErrInfo) (s : State) : (raiseFault c i s).pai.role.mayStream = false := by
  unfold raiseFault
  simp only
  split
  · next c => rcases c with c | c <;> (rw [report_pai, c]; rfl)
  · rw [changeRole_role]; rfl

/-- Outside the roles that may stream the stream is CLOSED. -/
theorem safe_closed (h : Safe s) (c : s.pai.role.mayStream = false) : s.mir.stream = .closed := by
  cases e : s.mir.stream
  · rfl
  · exact absurd ((h.stream e).symm.trans c) (by decide)

theorem tableFault_kept (i : ErrInfo) (c : Ctr) (s : State) : Kept P s (tableFault i c s) :=
  ((bump_steady c s).kept.trans (raiseFault_kept _ _ _)).then fun safe =>
    clearTable_kept _ (safe_closed safe (raiseFault_role _ _ _))

/-! ## Parity checks and lookups (R31, R44 to R48) -/

theorem removeSession_role (h : Nat) (q : RemovalReason) (g : Bool) (s : State) : (removeSession h q g s).pai = s.pai :=
  removeSession_touches h q g s .pai (by decide)

theorem removeParity_kept (h : Nat) (g : Bool) (s : State) : Kept P s (removeParity h g s) := by
  unfold removeParity
  simp only
  split
  · next standby => exact (removeSession_kept h _ g s).trans (joinRefresh_kept h _ (by rw [removeSession_role]; exact standby))
  · exact removeSession_kept h _ g s

theorem checkSlot_kept (pos : Nat) (s : State) : Kept P s (checkSlot pos s).1 := by
  unfold checkSlot
  split
  · exact Kept.refl s
  · split
    · exact Kept.refl s
    · split
      · exact ((report_steady _ _ s).trans (bump_steady _ _)).kept.trans (removeParity_kept _ _ _)
      · exact tableFault_kept _ _ s

theorem checkRecord_kept (h : Nat) (s : State) : Kept P s (checkRecord h s).1 := by
  unfold checkRecord
  simp only
  split
  · exact tableFault_kept _ _ s
  · split
    · exact ((report_steady _ _ s).trans (bump_steady _ _)).kept.trans (removeParity_kept _ _ _)
    · exact Kept.refl s

theorem checkSlots_kept (ps : List Nat) (s : State) : Kept P s (checkSlots ps s).1 := by
  induction ps generalizing s with
  | nil => exact Kept.refl s
  | cons p ps ih =>
    have first := checkSlot_kept (P := P) p s
    unfold checkSlots
    split
    · next e => rw [e] at first; exact first
    · next _ e => rw [e] at first; exact first.trans (ih _)

theorem lookup_kept (k : Key) (s : State) : Kept P s (lookup k s).1 := by
  have slots := checkSlots_kept (P := P) (keyPositions s.cfg.hashSeed k) s
  unfold lookup
  split
  · next e => rw [e] at slots; exact slots
  · next e =>
    rw [e] at slots
    split
    · exact slots
    · next sl _ =>
      have record := checkRecord_kept (P := P) sl.handle ‹State›
      split
      · next e' => rw [e'] at record; exact slots.trans record
      · next _ e' => rw [e'] at record; exact slots.trans record

/-! ## What a lookup leaves of the table's laws

An INSTALL and a hit count on the laws of the table behind the lookups that come before them. -/

/-- The head of the free list is FREE, and an occupied slot is one of those that the record of a LIVE handle names. -/
structure Indexed (t : Tbl) : Prop where
  records : sparseSorted t.records = true
  slots   : sparseSorted t.slots = true
  runs    : ∀ r ∈ t.free, 0 < r.count
  free    : ∀ h ∈ freeHandles t.free, (t.record h).handleState = .free
  names   : ∀ pos sl, t.slot pos = some sl → (t.record sl.handle).handleState = .live ∧
    (pos = (t.record sl.handle).slotOrig ∨ pos = (t.record sl.handle).slotReply)

theorem Indexed.of_laws {t : Tbl} (a : TableLaw t) (b : SlotLaw t) : Indexed t where
  records := a.sorted
  slots := b.sorted
  runs r hr := (a.runs r hr).1
  free h hh := by
    by_cases used : h < Config.handles
    · exact (a.free_iff h used).1 hh
    · exact a.used h (Nat.le_of_not_lt used)
  names pos sl hp := by
    obtain ⟨live, e⟩ := b.names pos sl hp
    refine ⟨live, ?_⟩
    cases hd : sl.dir <;> rw [hd] at e
    · exact .inl e
    · exact .inr e

theorem Indexed.cleared : Indexed Tbl.cleared where
  records := rfl
  slots := rfl
  runs := by simp [Tbl.cleared, Config.handles]
  free _ _ := rfl
  names := nofun

theorem freePush_runs {f : List Run} (hf : ∀ r ∈ f, 0 < r.count) (h : Nat) : ∀ r ∈ freePush f h, 0 < r.count := by
  induction f with
  | nil => simp [freePush]
  | cons q f ih =>
    cases f with
    | nil =>
      have hq := hf q List.mem_cons_self
      unfold freePush joinRun
      rw [if_neg (Nat.ne_of_gt hq)]
      simp only
      split
      · simp
      · intro r hr
        rcases List.mem_cons.1 hr with e | hr
        · rw [e]; exact hq
        · rw [List.mem_singleton.1 hr]; exact Nat.one_pos
    | cons q' f =>
      intro r hr
      unfold freePush at hr
      rcases List.mem_cons.1 hr with e | hr
      · rw [e]; exact hf q List.mem_cons_self
      · exact ih (fun r hr => hf r (List.mem_cons_of_mem _ hr)) r hr

/-- The handle that an INSTALL takes is FREE. -/
theorem Indexed.head_free {t : Tbl} (i : Indexed t) {h : Nat} (e : freeHead t.free = some h) :
    (t.record h).handleState = .free := by
  apply i.free
  unfold freeHead at e
  unfold freeHandles
  cases hf : t.free with
  | nil => rw [hf] at e; cases e
  | cons r f =>
    rw [hf] at e
    obtain rfl : r.first = h := Option.some.inj e
    have count := i.runs r (by rw [hf]; exact List.mem_cons_self)
    rw [List.flatMap_cons, List.mem_append, List.mem_range'_1]
    exact .inl ⟨Nat.le_refl _, by omega⟩

/-- The table without the two slots of a handle's session, and its handle out of the digest. -/
def Tbl.unplaced (t : Tbl) (h : Nat) : Tbl :=
  ((t.dropSlot (t.record h).slotOrig).dropSlot (t.record h).slotReply).digestDrop h (t.record h).epoch

/-- The table that a removal leaves (R37, R38). -/
theorem removeSession_tbl (h : Nat) (q : RemovalReason) (g : Bool) (s : State) :
    (removeSession h q g s).tbl = s.tbl ∨ ((recordOf s h).handleState = .live ∧
      ((removeSession h q g s).tbl = (s.tbl.unplaced h).release h ∨
        (removeSession h q g s).tbl = (s.tbl.unplaced h).setRecord h (retiredRecord (recordOf s h).epoch q))) := by
  unfold removeSession
  simp only
  split
  · next live =>
    refine .inr ⟨live, ?_⟩
    generalize hv : discardHeld h (bump (removalCounter q) { s with tbl :=
      ((s.tbl.dropSlot (recordOf s h).slotOrig).dropSlot (recordOf s h).slotReply).digestDrop h (recordOf s h).epoch }) = v
    have tbl : v.tbl = s.tbl.unplaced h := by rw [← hv]; exact discardHeld_touches h _ .tbl (by decide)
    unfold settleHandle
    split
    · exact .inl (by rw [← tbl])
    · simp only
      split <;> exact .inr (by rw [← tbl]; rfl)
  · exact .inl rfl

/-- A LIVE handle's session taken out of the table: its slots are empty, its record is `r`, and it may join the free list when
it is FREE. -/
theorem Indexed.removed {t v : Tbl} (i : Indexed t) (h : Nat) (live : (t.record h).handleState = .live) (r : Record)
    (records : v.records = putRecord t.records h r) (slots : v.slots = (t.unplaced h).slots)
    (free : v.free = t.free ∨ (v.free = freePush t.free h ∧ r.handleState = .free)) : Indexed v := by
  have reads : ∀ k, v.record k = if k = h then r else t.record k := fun k => by
    have := record_setRecord i.records h r k
    simp only [Tbl.record, Tbl.setRecord, records] at this ⊢
    exact this
  have out : h ∉ freeHandles t.free := fun m => by cases live.symm.trans (i.free h m)
  constructor
  case records => rw [records]; exact putRecord_sorted i.records h r
  case slots => rw [slots]; exact sparseDrop_sorted (sparseDrop_sorted i.slots _) _
  case runs =>
    rcases free with e | ⟨e, _⟩ <;> rw [e]
    · exact i.runs
    · exact freePush_runs i.runs h
  case free =>
    intro k hk
    rw [reads]
    rcases free with e | ⟨e, fr⟩
    · rw [e] at hk
      rw [if_neg fun c : k = h => out (c ▸ hk)]
      exact i.free k hk
    · split
      · exact fr
      · next ne =>
        rw [e, freeHandles_freePush, List.mem_append, List.mem_singleton] at hk
        exact i.free k (hk.resolve_right ne)
  case names =>
    intro pos sl hp
    have slot : v.slot pos = if pos = (t.record h).slotReply then none
        else if pos = (t.record h).slotOrig then none else t.slot pos := by
      have a := slot_dropSlot (t := t.dropSlot (t.record h).slotOrig) (sparseDrop_sorted i.slots _) (t.record h).slotReply pos
      rw [slot_dropSlot i.slots] at a
      simp only [Tbl.slot, slots] at a ⊢
      exact a
    rw [slot] at hp
    split at hp
    · cases hp
    · split at hp
      · cases hp
      · next nr no =>
        obtain ⟨l, e⟩ := i.names pos sl hp
        have ne : sl.handle ≠ h := fun c => by rw [c] at e; exact e.elim no nr
        rw [reads, if_neg ne]
        exact ⟨l, e⟩

theorem Indexed.removeSession (i : Indexed s.tbl) (h : Nat) (q : RemovalReason) (g : Bool) :
    Indexed (removeSession h q g s).tbl := by
  rcases removeSession_tbl h q g s with e | ⟨live, e | e⟩ <;> rw [e]
  · exact i
  · exact i.removed h live (freedRecord ((s.tbl.unplaced h).record h).epoch) rfl rfl (.inr ⟨rfl, rfl⟩)
  · exact i.removed h live (retiredRecord (recordOf s h).epoch q) rfl rfl (.inl rfl)

theorem Indexed.removeParity (i : Indexed s.tbl) (h : Nat) (g : Bool) : Indexed (removeParity h g s).tbl := by
  unfold Machine.removeParity
  simp only
  split
  · have same : (joinRefresh h (Machine.removeSession h .parity g s)).tbl = _ := joinRefresh_touches h _ .tbl (by decide)
    rw [same]
    exact i.removeSession h _ g
  · exact i.removeSession h _ g

theorem Indexed.checkSlot (i : Indexed s.tbl) (pos : Nat) : Indexed (checkSlot pos s).1.tbl := by
  unfold Machine.checkSlot
  split
  · exact i
  · split
    · exact i
    · split
      · exact Indexed.removeParity (s := bump _ (report _ _ s)) i _ _
      · exact Indexed.cleared

theorem Indexed.checkRecord (i : Indexed s.tbl) (h : Nat) : Indexed (checkRecord h s).1.tbl := by
  unfold Machine.checkRecord
  simp only
  split
  · exact Indexed.cleared
  · split
    · exact Indexed.removeParity (s := bump _ (report _ _ s)) i _ _
    · exact i

theorem Indexed.checkSlots (ps : List Nat) (i : Indexed s.tbl) : Indexed (checkSlots ps s).1.tbl := by
  induction ps generalizing s with
  | nil => exact i
  | cons p ps ih =>
    have first := i.checkSlot p
    unfold Machine.checkSlots
    split
    · next e => rw [e] at first; exact first
    · next _ e => rw [e] at first; exact ih first

/-- Behind a lookup the laws stand that the next operation counts on, and a hit is of a LIVE handle. -/
theorem Indexed.lookup (i : Indexed s.tbl) (k : Key) : Indexed (lookup k s).1.tbl ∧
    ∀ h d, (lookup k s).2 = some (h, d) → (recordOf (lookup k s).1 h).handleState = .live := by
  have slots := Indexed.checkSlots (keyPositions s.cfg.hashSeed k) i
  unfold Machine.lookup
  split
  · next e => rw [e] at slots; exact ⟨slots, nofun⟩
  · next v e =>
    rw [e] at slots
    split
    · exact ⟨slots, nofun⟩
    · next sl hsl =>
      have record := slots.checkRecord sl.handle
      split
      · next w good =>
        rw [good] at record
        refine ⟨record, fun h d hit => ?_⟩
        obtain ⟨rfl, _⟩ := Prod.mk.inj (Option.some.inj hit)
        have same : w = v := by
          unfold Machine.checkRecord at good
          simp only at good
          split at good
          · cases good
          · split at good
            · cases good
            · exact (Prod.mk.inj good).1.symm
        obtain ⟨pos, _, found⟩ := List.exists_of_findSome?_eq_some hsl
        rw [same]
        exact (slots.names pos sl (Option.filter_eq_some_iff.1 found).1).1
      · next _ e' => rw [e'] at record; exact ⟨record, nofun⟩

end Sys2Proof.Machine
end

section
/-! SUPPORT. The law `Safe` and the law of what waits for the peer. The fast path, the ports, the shadow receiver's deltas,
hellos and the mirror frames. -/

-- One proof at a time: proofs that wait for earlier checks would each take a thread.
set_option Elab.async false

namespace Sys2Proof.Machine

open Sys2Proof.Safety

variable {P : Prop} {s t u : State}

/-! ## The fast path -/

theorem sendException_steady (r : Reason) (z h : Option Nat) (f : Frame) (s : State) : Steady s (sendException r z h f s) :=
  (handToPort_steady _ _ s).trans (bump_steady _ _)

theorem refuseFrame_steady (c : Ctr) (z h : Nat) (f : Frame) (s : State) : Steady s (refuseFrame c z h f s) := by
  unfold refuseFrame
  simp only
  split
  · exact (bump_steady c s).trans (sendException_steady _ _ _ _ _)
  · exact (bump_steady c s).trans (bump_steady _ _)

/-- A LIVE record written reads back, whatever the store's order. -/
theorem recordOf_written (h : Nat) (r : Record) (s : State) (live : r.handleState = .live) :
    recordOf (setRecord h r s) h = r := by
  have fresh : r ≠ Record.fresh := fun e => by rw [e] at live; cases live
  simp [recordOf, setRecord, Tbl.setRecord, Tbl.record, putRecord, fresh, sparseFind_put]

theorem reports_steady (h : Nat) (ns : List ErrCode) (s : State) :
    Steady s (ns.foldl (fun s c => report c (ErrInfo.ofHandle h) s) s) :=
  Steady.foldl (fun s c => report_steady c _ s) ns s

theorem markAfter_kept (h : Nat) (old new : Body) (s : State) (live : P → (recordOf s h).handleState = .live) :
    Kept P s (markAfter h old new s) := by
  unfold markAfter
  split
  · exact (markDirty_kept .update h s (by decide) (by decide) fun p _ => live p).trans (bump_steady _ _).kept
  · exact Kept.refl s

theorem writeBack_kept (h : Nat) (old new : Body) (ns : List ErrCode) (s : State)
    (live : P → (recordOf s h).handleState = .live) : Kept P s (writeBack h old new ns s) := by
  have reported := reports_steady h ns (setRecord h { recordOf s h with body := new } s)
  unfold writeBack
  simp only
  refine ((setRecord_kept h _ s).trans reported.kept).trans (markAfter_kept h old new _ fun p => ?_)
  rw [reported.recordOf, recordOf_written]
  · exact live p
  · exact live p

theorem trackHit_kept (z h : Nat) (d : Dir) (f : Frame) (s : State) (live : P → (recordOf s h).handleState = .live) :
    Kept P s (trackHit z h d f s) := by
  unfold trackHit
  simp only
  split
  · exact (writeBack_kept h _ _ _ s live).trans ((handToPort_steady _ _ _).trans (bump_steady _ _)).kept
  · exact (refuseFrame_steady _ _ _ _ s).kept
  · exact (removeSession_kept h _ _ s).trans (handToPort_steady _ _ _).kept

theorem fastPath_kept (f : Frame) (s : State) (i : P → Indexed s.tbl) : Kept P s (fastPath f s) := by
  unfold fastPath
  split
  · exact (sendException_steady _ _ _ _ s).kept
  · next k _ =>
    have looked := lookup_kept (P := P) k s
    have found := fun p => (i p).lookup k
    split
    · next e => rw [e] at looked; exact looked.trans (sendException_steady _ _ _ _ _).kept
    · next e =>
      rw [e] at looked found
      split
      · exact looked.trans (bump_steady _ _).kept
      · exact looked.trans (trackHit_kept _ _ _ _ _ fun p => (found p).2 _ _ rfl)

/-! ## The ports -/

theorem enqueueRequest_kept (f : Frame) (s : State) : Kept P s (enqueueRequest f s) := by
  unfold enqueueRequest
  split
  · next room =>
    refine Kept.of_safety (fun hs => { hs with queues := ?_ }) rfl rfl rfl
    obtain ⟨p, w, sq, _⟩ := hs.queues
    refine ⟨p, w, sq, ?_⟩
    show (s.mgtQueue ++ [f]).length ≤ 8
    rw [List.length_append, List.length_singleton]
    exact room
  · exact ((bump_steady _ s).trans (report_steady _ _ _)).kept

theorem classP_kept (f : Frame) (s : State) : Kept P s (classP f s) := by
  unfold classP processorOut
  split
  · exact enqueueRequest_kept f s
  · split
    · exact (handToPort_steady _ _ s).kept
    · exact (bump_steady _ s).kept

/-- A received frame keeps what its consumer keeps (R1). -/
theorem receive_kept (port : Port) (f : RxFrame) (go : Frame → State → State) (s : State)
    (h : ∀ g, Kept P (bump (rxCounter port) s) (go g (bump (rxCounter port) s))) : Kept P s (receive port f go s) := by
  unfold receive
  split
  · simp only
    split
    · exact (bump_steady _ s).kept.trans (countFcs_kept _)
    · exact (bump_steady _ s).kept
  · split
    · exact (bump_steady _ s).kept
    · exact (bump_steady _ s).kept.trans (h _)

theorem transmitted_kept (port : Port) (s : State) : Kept P s (transmitted port s) := by
  unfold transmitted
  split
  · exact Kept.refl s
  · next f rest hq =>
    refine Kept.of_safety (fun hs => { hs with queues := ?_ }) rfl rfl rfl
    obtain ⟨p, w, sq, m⟩ := hs.queues
    cases port
    all_goals
      simp only [Prt.queue] at hq
      simp only [hq, List.length_cons] at p w sq
      refine ⟨?_, ?_, ?_, m⟩ <;> simp only [bump, bumpBy, Prt.setQueue, Prt.setSent] <;> omega

/-! ## The shadow receiver -/

theorem whileStandby_kept {f : State → State} (h : s.pai.role.isStandby = true → Kept P s (f s)) :
    Kept P s (whileStandby f s) := by
  unfold whileStandby
  split
  · next standby => exact h standby
  · exact Kept.refl s

theorem mayStream_of_standby {r : Role} (h : r.isStandby = true) : r.mayStream = false := by
  cases r with
  | standbySync => rfl
  | standbyReady => rfl
  | _ => cases h

theorem removeCollision_kept (h : Nat) (k : Key) (s : State) : Kept P s (removeCollision h k s) := by
  have looked := lookup_kept (P := P) k s
  unfold removeCollision
  split
  · next e =>
    rw [e] at looked
    split
    · exact looked
    · exact looked.trans (removeSession_kept _ _ _ _)
  · next e => rw [e] at looked; exact looked

/-- Keys placed leave the records and the free list. -/
theorem insertKeys_leaves {t v : Tbl} {seed : Word16} {a b : Key} {h p q : Nat} (e : t.insertKeys seed a b h = some (v, p, q)) :
    v.records = t.records ∧ v.free = t.free := by
  unfold Tbl.insertKeys at e
  split at e
  · cases e
  · simp only at e
    split at e
    · cases e
    · cases e; exact ⟨rfl, rfl⟩

/-- While the stream is CLOSED no handle is pending or RETIRED. -/
theorem idle_of_closed (hs : Safe s) (w : Waits s) (closed : s.mir.stream = .closed) (h : Nat) :
    (recordOf s h).pending = .none ∧ (recordOf s h).handleState ≠ .retired := by
  refine ⟨Classical.byContradiction fun c => ?_, w.law.closed closed h⟩
  have m := (w.law.dirty.2 h).2 c
  rw [(hs.quiet closed).2.2.1] at m
  cases m

theorem placeRecord_kept (h : Nat) (e : Word16) (w : Whole) (s : State) (standby : s.pai.role.isStandby = true) :
    Kept P s (placeRecord h e w s) := by
  unfold placeRecord
  split
  · exact (report_steady _ _ s).kept.trans (joinRefresh_kept h _ standby)
  · next t p q ins =>
    obtain ⟨records, _⟩ := insertKeys_leaves ins
    simp only
    generalize hr : Record.mk .live e .none none p q true (Body.cleared.withWhole w s.shd.adoptedGen s.tim.seconds) true = r
    refine Kept.trans (t := { s with tbl := ({ (t.setRecord h r) with free := freeTake t.free h }).digestAdd h e }) ?_
      ((bumpBy_steady _ _ _).kept.trans (leaveRefresh_kept h _))
    refine fun hs => ⟨{ hs with }, fun _ w => ?_⟩
    have sorted : sparseSorted t.records = true := by rw [records]; exact w.sorted
    refine ⟨putRecord_sorted sorted h r, ?_⟩
    have closed := safe_closed hs (mayStream_of_standby standby)
    obtain ⟨replay, fr, dirty, held, _⟩ := hs.quiet closed
    refine queueLaw_of_idle dirty (by unfold removesInFlight; simp [replay, fr]) held fun k => ?_
    have reads : recordOf { s with tbl := ({ (t.setRecord h r) with free := freeTake t.free h }).digestAdd h e } k =
        if k = h then r else t.record k := record_setRecord sorted h r k
    rw [reads]
    split
    · rw [← hr]; exact ⟨rfl, nofun⟩
    · have same : t.record k = recordOf s k := by simp only [Tbl.record, recordOf, records]
      rw [same]
      exact idle_of_closed hs w closed k

theorem placeDelta_kept (h : Nat) (e : Word16) (w : Whole) (s : State) : Kept P s (placeDelta h e w s) := by
  unfold placeDelta
  refine (checkRecord_kept h s).trans (whileStandby_kept fun _ => ?_)
  simp only
  split
  · exact (setRecord_kept h _ _).trans (leaveRefresh_kept h _)
  · exact (((removeSession_kept h _ _ _).trans (removeCollision_kept h _ _)).trans
      (whileStandby_kept fun _ => removeCollision_kept h _ _)).trans
      (whileStandby_kept fun standby => placeRecord_kept h e w _ standby)

theorem checkNamed_kept (h : Nat) (e : Word16) (s : State) : Kept P s (checkNamed h e s) := by
  unfold checkNamed
  split
  · exact checkRecord_kept h s
  · exact Kept.refl s

theorem updateRecord_kept (h : Nat) (e : Word16) (i : Image) (s : State) (standby : s.pai.role.isStandby = true) :
    Kept P s (updateRecord h e i s) := by
  unfold updateRecord
  split
  · exact setRecord_kept h _ s
  · exact (bump_steady _ s).kept.trans (joinRefresh_kept h _ standby)

theorem removeRecord_kept (h : Nat) (e : Word16) (s : State) : Kept P s (removeRecord h e s) := by
  unfold removeRecord
  refine Kept.trans ?_ (leaveRefresh_kept h _)
  split
  · exact removeSession_kept h _ _ s
  · exact (bump_steady _ s).kept

theorem beginBulk_kept (n : Word32) (s : State) : Kept P s (beginBulk n s) := by
  have begun := (fewerRefresh_kept (P := P) s [] (List.nil_sublist _) false (fun _ => rfl)
    { s.shd with bulkWanted := false, refresh := [], bulkStart := n.toNat } rfl rfl).trans (raise_steady .bulk _).kept
  unfold beginBulk
  simp only
  split
  · exact begun.trans (changeRole_kept _ _ _)
  · exact begun

theorem purgeOne_kept (s : State) (h : Nat) : Kept P s (purgeOne s h) := by
  unfold purgeOne
  refine whileStandby_kept fun _ => (checkRecord_kept h s).trans (whileStandby_kept fun _ => ?_)
  split
  · exact removeSession_kept h _ _ _
  · exact Kept.refl _

theorem compareDigest_kept (k : CompareKind) (g : Word32) (q : Word16) (n m : Word32) (s : State)
    (standby : s.pai.role.isStandby = true) : Kept P s (compareDigest k g q n m s) := by
  have written : Steady s { s with shd := { s.shd with lastCompare := some (comparison k g q n m s) } } :=
    Steady.of_fields
  unfold compareDigest
  simp only
  split
  · exact (written.trans (bump_steady _ _)).kept
  · exact ((written.trans (bump_steady _ _)).trans (report_steady _ _ _)).kept.trans (setBulkWanted_kept _ standby)

theorem endBulk_kept (g : Word32) (q : Word16) (n m : Word32) (s : State) : Kept P s (endBulk g q n m s) := by
  unfold endBulk
  refine (Kept.foldl purgeOne_kept s.tbl.liveHandles s).trans (whileStandby_kept fun standby => ?_)
  have compared := (compareDigest_kept (P := P) .bulkEnd g q n m _ standby).trans (raise_steady .bulk _).kept
  simp only
  split
  · exact compared.trans (changeRole_kept _ _ _)
  · exact compared

theorem applyDelta_kept (id : FrameId) (first : Bool) (d : Delta) (s t : State) (standby : s.pai.role.isStandby = true)
    (h : applyDelta id first d s = some t) : Kept P s t := by
  cases d with
  | place k e w =>
    simp only [applyDelta] at h
    split at h
    · cases h; exact placeDelta_kept k e w s
    · cases h
  | update k e i =>
    simp only [applyDelta] at h
    split at h
    · cases h
    · cases h
      exact (checkNamed_kept k e s).trans (whileStandby_kept fun standby => updateRecord_kept k e i _ standby)
  | remove k e =>
    simp only [applyDelta] at h
    cases h
    exact (checkNamed_kept k e s).trans (whileStandby_kept fun _ => removeRecord_kept k e _)
  | bulkBegin n =>
    simp only [applyDelta] at h
    split at h
    · cases h; exact beginBulk_kept n s
    · cases h
  | compare k n m =>
    cases k <;> (simp only [applyDelta] at h; cases h)
    · exact endBulk_kept _ _ n m s
    · exact compareDigest_kept _ _ _ n m s standby

theorem malformed_kept (id : FrameId) (s : State) (standby : s.pai.role.isStandby = true) : Kept P s (malformed id s) :=
  (report_steady _ _ s).kept.trans (setBulkWanted_kept _ standby)

theorem applyDeltas_kept (id : FrameId) (fuel : Nat) (first : Bool) (bs : List Byte) (s : State)
    (standby : s.pai.role.isStandby = true) : Kept P s (applyDeltas id fuel first bs s) := by
  induction fuel generalizing first bs s with
  | zero => unfold applyDeltas; exact Kept.refl s
  | succ fuel ih =>
    cases bs with
    | nil => unfold applyDeltas; exact Kept.refl s
    | cons b bs =>
      unfold applyDeltas
      split
      · exact malformed_kept id s standby
      · split
        · exact malformed_kept id s standby
        · next applied =>
          have one := applyDelta_kept (P := P) id first _ s _ standby applied
          split
          · next still => exact one.trans (ih false _ _ still)
          · exact one

theorem sendAck_steady (p : PathId) (g : Bool) (s : State) : Steady s (sendAck p g s) :=
  Steady.trans (t := { s with shd := { s.shd with unacked := 0, ackTimer := .stopped } })
    Steady.of_fields
    ((sendMirror_steady _ _ _).trans (bump_steady _ _))

theorem countAccepted_steady (s : State) : Steady s (countAccepted s) := by
  unfold countAccepted
  simp only
  split
  · exact sendAck_steady _ _ s
  · exact Steady.of_fields

theorem acceptFrame_kept (p : PathId) (fid : FrameId) (ds : List Byte) (s : State) (standby : s.pai.role.isStandby = true) :
    Kept P s (acceptFrame p fid ds s) := by
  have accepted : Steady s (bump .shdAccept { s with shd := { s.shd with expectedSeq := fid.seq + 1#16, ackPath := p } }) :=
    Steady.of_fields
  refine accepted.kept.trans ((applyDeltas_kept fid _ true ds _ ?_).trans
    (whileStandby_kept fun _ => (countAccepted_steady _).kept))
  exact standby

theorem receiveData_kept (p : PathId) (bs : List Byte) (s : State) : Kept P s (receiveData p bs s) := by
  unfold receiveData
  simp only
  split
  · exact (bump_steady _ s).kept
  · next standby =>
    have standby : s.pai.role.isStandby = true := by simpa using standby
    split
    · split
      · have adopted : Steady s (adoptGen (word32At bs 4) s) :=
          Steady.of_fields
        exact adopted.kept.trans (acceptFrame_kept _ _ _ _ standby)
      · exact (bump_steady _ s).kept
    · split
      · unfold takeCurrent
        simp only
        split
        · exact acceptFrame_kept _ _ _ s standby
        · split <;> exact ((bump_steady _ s).trans (sendAck_steady _ _ _)).kept
      · exact (bump_steady _ s).kept

/-! ## The pairing controller -/

theorem watchPeer_steady (before s : State) : Steady s (watchPeer before s) := by
  unfold watchPeer
  split
  · exact Steady.refl s
  · exact raise_steady _ s

theorem setPath_steady (p : PathId) (st : PathState) (s : State) : Steady s { s with pai := s.pai.setPath p st } := by
  cases p <;> exact Steady.of_fields

theorem latchJudgment_steady (p : PathId) (j : Judgment) (s : State) : Steady s (latchJudgment p j s) := by
  unfold latchJudgment
  split
  · exact Steady.refl s
  · simp only
    split
    · exact (setPath_steady p _ s).trans (raise_steady _ _)
    · exact ((setPath_steady p _ s).trans (raise_steady _ _)).trans (report_steady _ _ _)

theorem revertElapsed_steady (n : Nat) (s : State) : Steady s { s with mir := { s.mir with revertElapsed := n } } :=
  Steady.of_fields

theorem helloOnPath_kept (p : PathId) (s : State) : Kept P s (helloOnPath p s) := by
  unfold helloOnPath
  simp only
  split
  · exact (setPath_steady p _ s).kept
  · split
    · exact (((setPath_steady p _ s).trans (revertElapsed_steady 0 _)).trans (raise_steady _ _)).kept.trans (rechoose_kept _)
    · exact ((setPath_steady p _ s).trans (raise_steady _ _)).kept.trans (rechoose_kept _)

theorem openStream_kept (h : Hello) (s : State) (may : s.pai.role.mayStream = true) : Kept P s (openStream h s) := by
  unfold openStream
  simp only
  split
  · exact beginStream_kept _ s may
  · exact (report_steady _ _ s).kept.trans (beginStream_kept _ _ may)

theorem takeRefresh_kept (h : Hello) (s : State) : Kept P s (takeRefresh h s) := by
  have mark : ∀ s k, Kept P s (markRefresh s k) := fun s k => by
    unfold markRefresh
    split
    · next live => exact markDirty_kept .create _ s (by decide) (by decide) fun _ _ => live
    · exact Kept.refl s
  unfold takeRefresh
  split
  · exact Kept.foldl mark _ s
  · exact Kept.refl s

theorem mirrorHello_kept (r : Role) (h : Hello) (s : State) : Kept P s (mirrorHello r h s) := by
  unfold mirrorHello
  split
  · exact closeStream_kept r s
  · refine Kept.trans ?_ (takeRefresh_kept h _)
    split
    · next opens =>
      refine openStream_kept h s ?_
      simp only [opensStream, Bool.and_eq_true] at opens
      exact opens.1.1.1
    · exact Kept.refl s

theorem latchActive_steady (h : Hello) (s : State) : Steady s (latchActive h s) := by
  unfold latchActive
  split
  · exact Steady.of_fields
  · exact Steady.refl s

theorem reportRule_steady (p : PathId) (c : Cause) (s : State) : Steady s (reportRule p c s) := by
  unfold reportRule
  split
  · exact report_steady _ _ s
  · exact report_steady _ _ s
  · exact Steady.refl s

theorem governHello_kept (p : PathId) (h : Hello) (s : State) : Kept P s (governHello p h s) := by
  unfold governHello
  split
  · exact (mirrorHello_kept _ h s).trans (latchActive_steady h _).kept
  · exact (mirrorHello_kept _ h s).trans
      (((latchActive_steady h _).trans (reportRule_steady p _ _)).kept.trans (changeRole_kept _ _ _))

theorem receiveHello_kept (p : PathId) (bs : List Byte) (s : State) : Kept P s (receiveHello p bs s) := by
  have noted : ∀ h s, Steady s (noteHello h s) := fun h s =>
    Steady.of_fields
  have peer : ∀ (r : PeerRecord) (s : State), Steady s { s with pai := { s.pai with peer := some r } } := fun r s =>
    Steady.of_fields
  have taken : ∀ h s, Kept P s (takeHello p h s) := fun h s => by
    have on := (noted h s).kept.trans (helloOnPath_kept (P := P) p (noteHello h s))
    unfold takeHello
    simp only
    split
    · exact on.trans (((peer { hello := h, path := p } _).trans (watchPeer_steady s _)).kept.trans (governHello_kept p h _))
    · exact on.trans (watchPeer_steady s _).kept
  unfold receiveHello
  simp only
  split
  · exact (latchJudgment_steady p _ s).kept.trans (taken _ _)
  · exact (latchJudgment_steady p _ s).kept

theorem losePeer_kept (s : State) : Kept P s (losePeer s) := by
  unfold losePeer
  split
  · exact closeStream_kept _ s
  · exact (closeStream_kept _ s).trans (changeRole_kept _ _ _)

theorem pathDown_kept (p : PathId) (s : State) : Kept P s (pathDown p s) := by
  have down : ∀ v : State, Steady s v →
      Kept P s (watchPeer s (rechoose (raise .path (report .pai4 (ErrInfo.ofPlace (pathPlace p)) v)))) :=
    fun v hv => ((hv.trans (report_steady _ _ v)).trans (raise_steady _ _)).kept.trans
      ((rechoose_kept _).trans (watchPeer_steady s _).kept)
  unfold pathDown
  simp only
  split
  · exact (down _ (setPath_steady p _ s)).trans (losePeer_kept _)
  · exact down _ (setPath_steady p _ s)

theorem mirrorDispatch_kept (p : PathId) (bs : List Byte) (s : State) : Kept P s (mirrorDispatch p bs s) := by
  unfold mirrorDispatch
  split
  · exact receiveHello_kept p bs s
  · exact receiveData_kept p bs s
  · exact receiveAck_kept _ _ _ s
  · exact ((bump_steady _ s).trans (report_steady _ _ _)).kept

theorem takeW_kept (f : Frame) (s : State) (i : P → Indexed s.tbl) : Kept P s (takeW f s) := by
  unfold takeW classedW throughGate
  split
  · exact (handToPort_steady _ _ s).kept
  · split
    · exact mirrorDispatch_kept _ _ s
    · split
      · exact fastPath_kept f s i
      · exact (bump_steady _ s).kept
    · split
      · exact (handToPort_steady _ _ s).kept
      · exact (bump_steady _ s).kept
    · exact (handToPort_steady _ _ s).kept

theorem takeS_kept (f : Frame) (s : State) : Kept P s (takeS f s) := by
  unfold takeS
  split
  · exact (bump_steady _ s).kept
  · split
    · exact mirrorDispatch_kept _ _ s
    · exact ((bump_steady _ s).trans (report_steady _ _ _)).kept

end Sys2Proof.Machine
end

section
/-! SUPPORT. The law `Safe` and the law of what waits for the peer. Sessions installed, found and removed, and the agent's
requests. -/

-- One proof at a time: proofs that wait for earlier checks would each take a thread.
set_option Elab.async false

namespace Sys2Proof.Machine

open Sys2Proof.Safety

variable {P : Prop} {s t u : State}

/-! ## Sessions (R33 to R41) -/

/-- A step may count on the law that it is to keep. -/
theorem Kept.of_waits (h : Kept (P ∧ Waits s) s t) : Kept P s t := fun hs => ⟨(h hs).1, fun p w => (h hs).2 ⟨p, w⟩ w⟩

/-- A FREE handle becomes LIVE with nothing pending. -/
theorem installed_law (w : Waits s) (h : Nat) (free : (recordOf s h).handleState = .free) (r : Record)
    (live : r.handleState = .live) (pending : r.pending = .none) (tbl : Tbl)
    (reads : ∀ i, tbl.record i = if i = h then r else recordOf s i) : QueueLaw { s with tbl := tbl } := by
  have reads' : ∀ i, recordOf { s with tbl := tbl } i = if i = h then r else recordOf s i := reads
  have none : (recordOf s h).pending = .none := Classical.byContradiction fun c => by
    rcases w.law.kinds h c with ⟨l, _⟩ | ⟨l, _⟩ <;> cases free.symm.trans l
  refine ⟨⟨w.law.dirty.1, fun i => ?_⟩, fun i => ?_, ⟨w.law.flight.1, fun i => ?_⟩, fun c i => ?_, w.law.hold.1, fun e he => ?_⟩
  · refine (w.law.dirty.2 i).trans ?_
    rw [reads']
    split
    · next e => rw [e, none, pending]
    · rfl
  · rw [reads']
    split
    · exact fun c => absurd pending c
    · exact w.law.kinds i
  · refine (w.law.flight.2 i).trans ?_
    rw [reads']
    split
    · next e => rw [e, free, live]; simp
    · rfl
  · rw [reads']
    split
    · rw [live]; decide
    · exact w.law.closed c i
  · have held := w.law.hold.2 e he
    rw [reads', if_neg fun c : e.handle = h => by rw [c, free] at held; cases held.1]
    exact held

/-- What the enclosed frame of an INSTALL counts on: the session is LIVE, holds no frame, and awaits its CREATE only while the
stream is OPEN. -/
structure Fresh (P : Prop) (h : Nat) (s : State) : Prop where
  live    : (recordOf s h).handleState = .live
  pending : s.mir.stream = .closed → (recordOf s h).pending ≠ .create
  unheld  : P → ∀ e ∈ s.hold, e.handle ≠ h

theorem offerHold_kept (hold : Bool) (h : Nat) (f : Frame) (s : State) (fr : Fresh P h s) : Kept P s (offerHold hold h f s) := by
  unfold offerHold
  split
  · exact ((handToPort_steady _ _ s).trans (bump_steady _ _)).kept
  · next offer =>
    have create : (recordOf s h).pending = .create := by
      by_cases c : (recordOf s h).pending = .create
      · exact c
      · exact absurd (.inr c) offer
    split
    · exact (((bump_steady _ s).trans (report_steady _ _ _)).trans ((handToPort_steady _ _ _).trans (bump_steady _ _))).kept
    · next room =>
      refine Kept.trans (t := { s with hold := s.hold ++
        [{ handle := h, epoch := (recordOf s h).epoch, frame := f, timer := .running s.cfg.holdTimeout, releaseSeq := none }] })
        (fun hs => ⟨{ hs with quiet := fun c => absurd create (fr.pending c), hold := ?_ }, fun p w => ⟨w.sorted, ?_⟩⟩)
        (bump_steady _ _).kept
      · unfold holdBounded
        simp only [List.length_append, List.length_singleton]
        omega
      · refine { w.law with hold := ⟨?_, fun e he => ?_⟩ }
        · rw [List.map_append]
          refine List.nodup_append'.2 ⟨w.law.hold.1, List.nodup_singleton h, ?_⟩
          rw [List.map_singleton, List.disjoint_singleton]
          intro m
          obtain ⟨e, he, eq⟩ := List.mem_map.1 m
          exact fr.unheld p e he eq
        · rcases List.mem_append.1 he with he | he
          · exact w.law.hold.2 e he
          · rw [List.mem_singleton.1 he]; exact ⟨fr.live, rfl⟩

theorem markDirty_live (k : Pending) (h : Nat) (live : (recordOf s h).handleState = .live) :
    (recordOf (markDirty k h s) h).handleState = .live := by
  have set : ∀ p, (recordOf (setPending h p s) h).handleState = .live := fun p => by
    unfold setPending
    rw [recordOf_written]
    · exact live
    · exact live
  unfold markDirty
  split
  · exact live
  · split
    · exact set _
    · exact set .create
    · exact live
    · exact live
    · exact live

theorem markDirty_stream (k : Pending) (h : Nat) (s : State) : (markDirty k h s).mir.stream = s.mir.stream := by
  unfold markDirty
  split
  · rfl
  · split <;> rfl

theorem markAfter_stream (h : Nat) (old new : Body) (s : State) : (markAfter h old new s).mir.stream = s.mir.stream := by
  unfold markAfter
  split
  · exact markDirty_stream .update h s
  · rfl

theorem markAfter_closed (h : Nat) (old new : Body) (closed : s.mir.stream = .closed) : markAfter h old new s = s := by
  unfold markAfter
  rw [if_neg fun c => by rw [closed] at c; cases c.1]

theorem writeBack_fresh (h : Nat) (b : Body) (ns : List ErrCode) (fr : Fresh P h s) :
    Fresh P h (writeBack h (recordOf s h).body b ns s) := by
  have hold : (writeBack h (recordOf s h).body b ns s).hold = s.hold := writeBack_touches h _ b ns s .hold (by decide)
  have reported := reports_steady h ns (setRecord h { recordOf s h with body := b } s)
  unfold writeBack at hold ⊢
  simp only at hold ⊢
  generalize ns.foldl (fun s c => report c (ErrInfo.ofHandle h) s) (setRecord h { recordOf s h with body := b } s) = v at *
  have record : recordOf v h = { recordOf s h with body := b } := by
    rw [reported.recordOf, recordOf_written]; exact fr.live
  have live : (recordOf v h).handleState = .live := by rw [record]; exact fr.live
  refine ⟨?_, fun closed => ?_, by rw [hold]; exact fr.unheld⟩
  · unfold markAfter
    split
    · exact markDirty_live .update h live
    · exact live
  · rw [markAfter_stream] at closed
    rw [markAfter_closed h _ _ closed, record]
    exact fr.pending (reported.stream.symm.trans closed)

theorem passEnclosed_kept (i : Install) (h : Nat) (f : Frame) (s : State) (fr : Fresh P h s) :
    Kept P s (passEnclosed i h f s) := by
  unfold passEnclosed
  simp only
  split
  · exact offerHold_kept _ h _ s fr
  · split
    · exact (writeBack_kept h _ _ _ s fun _ => fr.live).trans (offerHold_kept _ h _ _ (writeBack_fresh h _ _ fr))
    · exact (refuseFrame_steady _ _ _ _ s).kept
    · exact Kept.refl s

/-- A session made: its handle was FREE, so that no frame of it is held. -/
theorem makeSession_kept (i : Install) (h : Nat) (t : Tbl) (p q : Nat) (s : State) (records : t.records = s.tbl.records)
    (free : P → (recordOf s h).handleState = .free) : Kept P s (makeSession i h t p q s) := by
  have written : Kept P s { s with tbl :=
      ({ (t.setRecord h (installRecord s i h p q)) with free := freePop t.free }).digestAdd h (installRecord s i h p q).epoch } := by
    refine fun hs => ⟨{ hs with }, fun hp w => ?_⟩
    have sorted : sparseSorted t.records = true := by rw [records]; exact w.sorted
    refine ⟨putRecord_sorted sorted h (installRecord s i h p q),
      installed_law w h (free hp) (installRecord s i h p q) rfl rfl _ fun k => ?_⟩
    have same : t.record k = recordOf s k := by simp only [Tbl.record, recordOf, records]
    rw [← same]
    exact record_setRecord sorted h (installRecord s i h p q) k
  unfold makeSession
  simp only
  refine (written.trans (((bumpBy_steady _ _ _).trans (bump_steady _ _)).trans (reports_steady h _ _)).kept).trans
    (markDirty_kept .create h _ (by decide) (by decide) fun _ _ => ?_)
  rw [(reports_steady h _ _).recordOf]
  exact congrArg Record.handleState (recordOf_written h (installRecord s i h p q) { s with tbl := t } rfl)

theorem makeSession_fresh (i : Install) (h : Nat) (t : Tbl) (p q : Nat) (s : State) (unheld : P → ∀ e ∈ s.hold, e.handle ≠ h) :
    Fresh P h (makeSession i h t p q s) := by
  have hold : (makeSession i h t p q s).hold = s.hold := makeSession_touches i h t p q s .hold (by decide)
  unfold makeSession at hold ⊢
  simp only at hold ⊢
  generalize hv : bump .installOk (bumpBy .stashInsert (stashCount p q) { s with tbl :=
    ({ (t.setRecord h (installRecord s i h p q)) with free := freePop t.free }).digestAdd h (installRecord s i h p q).epoch }) = v at *
  have reported := reports_steady h (newBody s i).2 v
  generalize (newBody s i).2.foldl (fun s c => report c (ErrInfo.ofHandle h) s) v = u at *
  have record : recordOf u h = installRecord s i h p q := by
    rw [reported.recordOf, ← hv]
    exact recordOf_written h (installRecord s i h p q) { s with tbl := t } rfl
  refine ⟨markDirty_live .create h (by rw [record]; rfl), fun closed => ?_, by rw [hold]; exact unheld⟩
  rw [markDirty_stream] at closed
  unfold markDirty
  rw [if_pos closed, record]
  exact nofun

theorem refuseInstall_steady (st : Status) (p : List Byte) (s : State) : Steady s (refuseInstall st p s).1 := bump_steady _ s

theorem installFree_kept (i : Install) (s : State) (x : P → Indexed s.tbl) : Kept P s (installFree i s).1 := by
  refine Kept.of_waits ?_
  unfold installFree
  split
  · exact (refuseInstall_steady _ _ s).kept
  · next h head =>
    split
    · exact (refuseInstall_steady _ _ s).kept
    · next t p q ins =>
      have free : P ∧ Waits s → (recordOf s h).handleState = .free := fun c => (x c.1).head_free head
      have made := makeSession_kept i h t p q s (insertKeys_leaves ins).1 free
      have fresh : Fresh (P ∧ Waits s) h (makeSession i h t p q s) := makeSession_fresh i h t p q s fun c e he eq => by
        have live := (c.2.law.hold.2 e he).1
        rw [eq, free c] at live
        cases live
      simp only
      split
      · exact made
      · exact made.trans (passEnclosed_kept i h _ _ fresh)

/-- Check 4 keeps what the check behind it keeps (R34). -/
theorem installUnlessFound_kept (k : Key) (go : State → State × Answer) (s : State) (x : P → Indexed s.tbl)
    (h : ∀ t, (P → Indexed t.tbl) → Kept P t (go t).1) : Kept P s (installUnlessFound k go s).1 := by
  have looked := lookup_kept (P := P) k s
  unfold installUnlessFound
  simp only
  split
  · exact looked.trans (refuseInstall_steady _ _ _).kept
  · exact looked.trans (h _ fun p => ((x p).lookup k).1)

theorem answerInstall_kept (r : Request) (s : State) (x : P → Indexed s.tbl) : Kept P s (answerInstall r s).1 := by
  unfold answerInstall install
  split
  · split
    · exact (refuseInstall_steady _ _ s).kept
    · split
      · exact (refuseInstall_steady _ _ s).kept
      · exact installUnlessFound_kept _ _ s x fun t x =>
          installUnlessFound_kept _ _ t x fun t x => installFree_kept _ t x
  · exact Kept.refl s

theorem answerFind_kept (r : Request) (s : State) : Kept P s (answerFind r s).1 := by
  unfold answerFind
  split
  · exact Kept.refl s
  · exact lookup_kept _ s

theorem answerRemove_kept (r : Request) (s : State) : Kept P s (answerRemove r s).1 := by
  have byHandle : Kept P s (removeByHandle r.payload s).1 := by
    unfold removeByHandle
    simp only
    split
    · exact Kept.refl s
    · split
      · exact removeSession_kept _ _ _ s
      · exact Kept.refl s
  have byKey : Kept P s (removeByKey r.payload s).1 := by
    have looked := lookup_kept (P := P) (readKey r.payload 4) s
    unfold removeByKey
    simp only
    split
    · exact looked
    · exact looked.trans (removeSession_kept _ _ _ _)
  unfold answerRemove
  split
  · exact Kept.refl s
  · split
    · exact Kept.refl s
    · split
      · exact byHandle
      · split
        · exact byKey
        · exact Kept.refl s

/-! ## Requests (R163, R164) -/

theorem respond_steady (r : Request) (a : Answer) (s : State) : Steady s (respond r a s) := by
  unfold respond
  split
  · exact (bump_steady _ s).trans (handToPort_steady _ _ _)
  · exact handToPort_steady _ _ s

/-- The request at the head leaves the queue. -/
theorem dequeue_kept (f : Frame) (rest : List Frame) (s : State) (h : s.mgtQueue = f :: rest) : Kept P s (dequeue rest s) := by
  refine Kept.of_safety (fun hs => { hs with queues := ?_ }) rfl rfl rfl
  obtain ⟨p, w, sq, m⟩ := hs.queues
  rw [h, List.length_cons] at m
  exact ⟨p, w, sq, by show rest.length ≤ 8; omega⟩

theorem serve_kept (hd : Handler) (r : Request) (f : Frame) (rest : List Frame) (s : State) (h : s.mgtQueue = f :: rest)
    (hh : Kept P (dequeue rest s) (hd r (dequeue rest s)).1) : Kept P s (serve hd r rest s) :=
  ((dequeue_kept f rest s h).trans hh).trans
    (((settle_steady _ _).trans (respond_steady _ _ _)).trans (settle_steady _ _)).kept

/-- A management row keeps what its handler keeps. -/
theorem takeRequest_kept (row : Row) (hd : Handler) (s : State) (hh : ∀ r t, t.tbl = s.tbl → Kept P t (hd r t).1) :
    Kept P s (takeRequest row hd s) := by
  unfold takeRequest
  split
  · exact Kept.refl s
  · next f rest hq =>
    split
    · exact serve_kept hd _ f rest s hq (hh _ _ rfl)
    · exact Kept.refl s

theorem takeRunt_kept (s : State) : Kept P s (takeRunt s) := by
  unfold takeRunt
  split
  · exact Kept.refl s
  · next f rest hq =>
    split
    · exact event_kept ((dequeue_kept f rest s hq).trans
        (Steady.kept Steady.of_fields))
    · exact Kept.refl s

end Sys2Proof.Machine
end

section
/-! SUPPORT. The law `Safe` and the law of what waits for the peer: the agent's handlers, the timers, the resets, and the step. -/

-- One proof at a time: proofs that wait for earlier checks would each take a thread.
set_option Elab.async false

namespace Sys2Proof.Machine

open Sys2Proof.Safety

variable {P : Prop} {s t u : State}

/-! ## READ and WRITE (R165 to R172, R180) -/

theorem captureAll_kept {c : Nat → State → State × List Byte} (h : ∀ i s, Kept P s (c i s).1) (is : List Nat) (s : State) :
    Kept P s (captureAll c is s).1 := by
  induction is generalizing s with
  | nil => exact Kept.refl s
  | cons i is ih => exact (h i s).trans (ih _)

theorem capture_kept (o : Object) (i : Nat) (s : State) : Kept P s (capture o i s).1 := by
  cases o
  case session => exact checkRecord_kept i s
  all_goals exact Kept.refl s

theorem clearCounter_steady (i : Nat) (s : State) : Steady s (clearCounter i s) :=
  Steady.of_fields

theorem answerRead_kept (r : Request) (s : State) : Kept P s (answerRead r s).1 := by
  unfold answerRead
  split
  · exact Kept.refl s
  · exact captureAll_kept (capture_kept _) _ s

theorem answerReadClear_kept (r : Request) (s : State) : Kept P s (answerReadClear r s).1 := by
  unfold answerReadClear
  split
  · exact Kept.refl s
  · exact captureAll_kept (fun i s => (clearCounter_steady i s).kept) _ s

theorem applyEntry_steady (o : Object) (s : State) (e : Nat × List Byte) : Steady s (applyEntry o s e) := by
  cases o <;> exact Steady.of_fields

/-- The keepalive timer set in a role that runs it, or stopped. -/
theorem keepalive_kept (s : State) (k : Timer) (h : s.pai.role.keepaliveRuns = false → k = .stopped) :
    Kept P s { s with flt := { s.flt with keepalive := k } } :=
  Kept.of_safety (fun hs => { hs with keepalive := h }) rfl rfl rfl

/-- Outside the roles that run it the timer is stopped, so a write that restarts it is in one of them. -/
theorem keepaliveAfterWrite_kept (old : Nat) (s : State) : Kept P s (keepaliveAfterWrite old s) := by
  refine Kept.of_safe fun safe => ?_
  unfold keepaliveAfterWrite
  simp only
  split
  · exact Kept.refl s
  · split
    · exact keepalive_kept s .stopped fun _ => rfl
    · split
      · next starts =>
        refine keepalive_kept s _ fun rests => ?_
        rcases starts with runs | ⟨_, runs⟩
        · exact absurd (safe.keepalive rests) runs
        · rw [rests] at runs; cases runs
      · exact Kept.refl s

theorem answerWrite_kept (r : Request) (s : State) : Kept P s (answerWrite r s).1 := by
  unfold answerWrite
  split
  · exact Kept.refl s
  · simp only
    split
    · exact Kept.refl s
    · split
      · exact Kept.refl s
      · split
        · exact Kept.refl s
        · exact (Steady.foldl (applyEntry_steady _) _ s).kept.trans (keepaliveAfterWrite_kept _ _)

/-! ## KEEPALIVE and the CONTROL actions (10.5) -/

theorem control_kept {act : Handler} (r : Request) (s : State) (h : Kept P s (act r s).1) : Kept P s (control act r s).1 := by
  unfold control
  split
  · exact h
  · exact Kept.refl s

theorem answerKeepalive_kept (r : Request) (s : State) : Kept P s (answerKeepalive r s).1 := by
  unfold answerKeepalive
  split
  · next runs =>
    unfold done startKeepalive
    split
    · exact Kept.refl s
    · exact keepalive_kept s _ fun rests => by rw [rests] at runs; cases runs
  · exact Kept.refl s

/-- A role change behind a step that may leave the keepalive timer running in a role without one. -/
theorem Kept.changeRole (r : Role) (c : Cause) (safe : Safe s → Changeable t) (waits : Waits s → Waits t) :
    Kept P s (changeRole r c t) := fun hs => ⟨changeRole_safe r c (safe hs), fun _ w => changeRole_waits r c (waits w)⟩

theorem startKeepalive_changeable (h : Changeable s) : Changeable (startKeepalive s) := by
  unfold startKeepalive
  split
  · exact h
  · exact { h with }

theorem startKeepalive_waits (w : Waits s) : Waits (startKeepalive s) := by
  unfold startKeepalive
  split
  · exact w
  · exact ⟨w.sorted, queueLaw_of_same w.law (fun _ => ⟨rfl, rfl, rfl⟩) rfl rfl rfl (List.Sublist.refl _)⟩

theorem startKeepalive_change_kept (s : State) (r : Role) (c : Cause) : Kept P s (changeRole r c (startKeepalive s)) :=
  Kept.changeRole r c (startKeepalive_changeable ∘ Changeable.of_safe) startKeepalive_waits

theorem clearPairing_steady (s : State) : Steady s (clearPairing s) := by
  have cleared : Steady s { s with
      pai := { s.pai with primary := s.pai.primary.started, secondary := s.pai.secondary.started, peer := none,
                          peerActiveSeen := false }
      prt := { s.prt with peerMac := none } } :=
    Steady.of_fields
  unfold clearPairing
  simp only
  split
  · exact cleared
  · exact cleared.trans (raise_steady _ _)

theorem answerStart_kept (r : Request) (s : State) : Kept P s (answerStart r s).1 := by
  unfold answerStart
  split
  · exact Kept.refl s
  · split
    · exact Kept.refl s
    · exact (clearPairing_steady s).kept.trans (startKeepalive_change_kept _ _ _)

/-- In a role without a stream the table is cleared. -/
theorem clearTable_role_kept (s : State) (c : s.pai.role.mayStream = false) : Kept P s (clearTable s) :=
  Kept.of_safe fun safe => clearTable_kept s (safe_closed safe c)

theorem answerStop_kept (r : Request) (s : State) : Kept P s (answerStop r s).1 := by
  unfold answerStop
  split
  · exact Kept.refl s
  · exact (changeRole_kept _ _ s).trans (clearTable_role_kept _ (by rw [changeRole_role]; rfl))

theorem answerTake_kept (r : Request) (s : State) : Kept P s (answerTake r s).1 := by
  unfold answerTake
  split
  · exact changeRole_kept _ _ s
  · exact Kept.refl s

theorem answerYield_kept (r : Request) (s : State) : Kept P s (answerYield r s).1 := by
  unfold answerYield
  split
  · exact changeRole_kept _ _ s
  · exact Kept.refl s

theorem answerResume_kept (r : Request) (s : State) : Kept P s (answerResume r s).1 := by
  unfold answerResume
  split
  · next faulted =>
    exact (clearTable_role_kept s (by rw [faulted]; rfl)).trans (startKeepalive_change_kept _ _ _)
  · exact Kept.refl s

theorem reportEnds_steady (s : State) : Steady s (reportEnds s) := by
  have first : Steady s (if s.mir.suspendedPrimary then report .mir4 (ErrInfo.ofPlace (pathPlace .primary)) s else s) := by
    split
    · exact report_steady _ _ s
    · exact Steady.refl s
  unfold reportEnds
  simp only
  split
  · exact first.trans (report_steady _ _ _)
  · exact first

theorem answerResumePath_kept (r : Request) (s : State) : Kept P s (answerResumePath r s).1 := by
  unfold answerResumePath
  split
  · exact Kept.refl s
  · exact ((reportEnds_steady s).trans (endSuspensions_steady _)).kept.trans (rechoose_kept _)

theorem answerForceFault_kept (r : Request) (s : State) : Kept P s (answerForceFault r s).1 := by
  unfold answerForceFault
  split
  · exact Kept.refl s
  · exact raiseFault_kept _ _ s

theorem answerClearErrors_kept (r : Request) (s : State) : Kept P s (answerClearErrors r s).1 := by
  unfold answerClearErrors
  split
  · exact Kept.refl s
  · exact (setErrRecord_steady _ _ s).kept

theorem answerClearStatus_kept (r : Request) (s : State) : Kept P s (answerClearStatus r s).1 := by
  unfold answerClearStatus
  split
  · exact Kept.refl s
  · exact Steady.kept Steady.of_fields

theorem tim_steady (s : State) (tim : Tim) : Steady s { s with tim := tim } :=
  Steady.of_fields

theorem answerClockSet_kept (r : Request) (s : State) : Kept P s (answerClockSet r s).1 := by
  unfold answerClockSet
  split
  · exact Kept.refl s
  · exact (fcsCount_steady s 0).kept.trans (tim_steady _ { s.tim with seconds := r.argument, ms := 0, acc := 0#32 }).kept

/-! ## A tick (R154) -/

/-- A timer stopped stays so; one that runs is confined to its role as before. -/
theorem tick_safe (h : Safe s) : Safe (tick s) where
  queues := h.queues
  tolerance c := by
    obtain ⟨zero, grace⟩ := h.tolerance c
    exact ⟨zero, congrArg Timer.tick grace⟩
  quiet c := by
    obtain ⟨replay, fr, dirty, hold, path⟩ := h.quiet c
    exact ⟨replay, by simp [tick, Mir.tick, fr], dirty, by simp [tick, hold], path⟩
  stream := h.stream
  replay := ⟨h.replay.1, fun c => h.replay.2 fun e => c (by simp [tick, Mir.tick, e])⟩
  hold := by
    have := h.hold
    unfold holdBounded at this ⊢
    rwa [show (tick s).hold = s.hold.map fun e => { e with timer := e.timer.tick } from rfl, List.length_map]
  refresh := h.refresh
  yielding c := by
    obtain ⟨flag, timer⟩ := h.yielding c
    exact ⟨flag, congrArg Timer.tick timer⟩
  burst c := congrArg Burst.tick (h.burst c)
  keepalive c := congrArg Timer.tick (h.keepalive c)
  history := h.history

theorem tick_kept (s : State) : Kept P s (tick s) := fun hs => ⟨tick_safe hs, fun _ w => ⟨w.sorted, by
  refine queueLaw_of_same w.law (fun _ => ⟨rfl, rfl, rfl⟩) rfl rfl ?_ ?_
  · unfold removesInFlight
    simp only [tick, Mir.tick]
    cases s.mir.openFrame <;> rfl
  · rw [show (tick s).hold = s.hold.map fun e => { e with timer := e.timer.tick } from rfl, List.map_map]
    exact List.Sublist.refl _⟩⟩

/-! ## What a tick makes due -/

theorem atTick_kept {d : State → Bool} {f : State → State} (s : State) (h : d s = true → Kept P s (f s)) :
    Kept P s (atTick d f s) := by
  refine event_kept ?_
  unfold whenDue
  split
  · next due => exact h (Bool.and_eq_true_iff.1 due).2
  · exact Kept.refl s

theorem visitSlot_kept (pos : Nat) (go : State → State) (h : ∀ t, Kept P t (go t)) (s : State) :
    Kept P s (visitSlot pos go s) := by
  have looked := checkSlot_kept (P := P) pos s
  unfold visitSlot
  split
  · next e => rw [e] at looked; exact looked.trans (h _)
  · next e => rw [e] at looked; exact looked

theorem visitExpiry_kept (h : Nat) (s : State) : Kept P s (visitExpiry h s) := by
  unfold visitExpiry
  split
  · exact removeSession_kept _ _ _ s
  · exact Kept.refl s

theorem visitHandle_kept (s : State) (h : Nat) : Kept P s (visitHandle s h) := by
  have looked := checkRecord_kept (P := P) h s
  unfold visitHandle
  split
  · next e =>
    rw [e] at looked
    simp only
    split
    · exact looked.trans (visitSlot_kept _ _ (visitSlot_kept _ _ (visitExpiry_kept h)) _)
    · exact looked
  · next e => rw [e] at looked; exact looked

theorem patrolStep_kept (s : State) : Kept P s (patrolStep s) := by
  have walked : Kept P s ((patrolHandles s.tim.cursor s.cfg.patrolRate).foldl visitHandle s) :=
    Kept.foldl visitHandle_kept _ s
  unfold patrolStep
  simp only
  split
  · exact walked.trans ((tim_steady _ _).trans (bump_steady _ _)).kept
  · exact walked.trans (tim_steady _ _).kept

theorem firstDue_sublist {l es : List HoldEntry} {e : HoldEntry} (h : firstDue l = some (e, es)) : es.Sublist l := by
  induction l generalizing es with
  | nil => cases h
  | cons x l ih =>
    unfold firstDue at h
    split at h
    · cases h; exact List.sublist_cons_self _ _
    · obtain ⟨⟨d, ds⟩, found, eq⟩ := Option.map_eq_some_iff.1 h
      cases eq
      exact (ih found).cons_cons _

theorem holdExpired_kept (s : State) : Kept P s (holdExpired s) := by
  unfold holdExpired
  split
  · exact Kept.refl s
  · next e es due =>
    exact ((fewerHeld_kept s es (firstDue_sublist due)).trans (releaseHeld_kept _ _ _)).trans (report_steady _ _ _).kept

/-- Frames are outstanding only while the stream is OPEN, in a role that may have it. -/
theorem mayStream_of_outstanding (h : Safe s) (outstanding : s.mir.replay ≠ []) : s.pai.role.mayStream = true := by
  refine h.stream ?_
  cases st : s.mir.stream with
  | closed => exact absurd (h.quiet st).1 outstanding
  | opened => rfl

theorem replayEvent_kept (s : State) : Kept P s (replayEvent s) := by
  refine Kept.of_safe fun safe => atTick_kept s fun due => replayExpired_kept s (mayStream_of_outstanding safe fun none => ?_)
  simp [replayDue, none] at due

theorem revertExpired_kept (s : State) : Kept P s (revertExpired s) :=
  ((report_steady _ _ s).trans (endSuspensions_steady _)).kept.trans (rechoose_kept _)

theorem setYieldFlag_kept (s : State) (yielding : s.pai.role = .yielding) : Kept P s (setYieldFlag s) := by
  have flagged : Kept P s { s with pai := { s.pai with yieldFlag := true, drainTimer := .stopped } } :=
    Kept.of_safety (fun hs => { hs with yielding := fun c => absurd yielding c }) rfl rfl rfl
  exact flagged.trans (sendHello_steady _).kept

/-- The drain timer runs in YIELDING alone. -/
theorem drainEvent_kept (s : State) : Kept P s (drainEvent s) := by
  refine Kept.of_safe fun safe => atTick_kept s fun due => ?_
  have reported := report_steady .pai5 (ErrInfo.ofSeq s.mir.dirty.length) s
  refine reported.kept.trans (setYieldFlag_kept _ (reported.role.trans ?_))
  by_contra other
  rw [(safe.yielding other).2] at due
  cases due

theorem sendRound_steady (s : State) : Steady s (sendRound s) :=
  Steady.foldl (fun s _ => (handToPort_steady _ _ s).trans (bump_steady _ _)) _ s

/-- A burst runs in the active roles alone. -/
theorem spacingEvent_kept (s : State) : Kept P s (spacingEvent s) := by
  refine Kept.of_safe fun safe => atTick_kept s fun due => ?_
  have sent := sendRound_steady s
  refine sent.kept.trans (Kept.of_safety (fun hs => { hs with burst := fun rests => ?_ }) rfl rfl rfl)
  have idle := safe.burst ((congrArg Role.isActive sent.role).symm.trans rests)
  rw [spacingDue, idle] at due
  cases due

theorem keepaliveExpired_kept (s : State) : Kept P s (keepaliveExpired s) :=
  (keepalive_kept s .stopped fun _ => rfl).trans (raiseFault_kept _ _ _)

theorem holdoffExpired_kept (s : State) : Kept P s (holdoffExpired s) := by
  unfold holdoffExpired
  split
  · exact ((marked_steady s false).trans (sendNotice_steady _)).kept
  · exact Steady.kept Steady.of_fields

theorem holdEvent_kept (s : State) : Kept P s (holdEvent s) := atTick_kept s fun _ => holdExpired_kept s

theorem tickEvents_kept (e : State → State) (h : e ∈ tickEvents) (s : State) : Kept P s (e s) := by
  simp only [tickEvents, List.mem_cons, List.not_mem_nil, or_false] at h
  rcases h with rfl | rfl | rfl | rfl | rfl | rfl | rfl | rfl | rfl | rfl | rfl | rfl | rfl | rfl | rfl
  · exact atTick_kept s fun _ => patrolStep_kept s
  · exact Kept.foldl (fun t _ => holdEvent_kept t) s.hold s
  · exact atTick_kept s fun _ => closeFrame_kept s
  · exact replayEvent_kept s
  · exact atTick_kept s fun _ => revertExpired_kept s
  · exact atTick_kept s fun _ => (sendAck_steady _ _ s).kept
  · exact atTick_kept s fun _ => (sendHello_steady s).kept
  · exact atTick_kept s fun _ => pathDown_kept .primary s
  · exact atTick_kept s fun _ => pathDown_kept .secondary s
  · exact atTick_kept s fun _ => changeRole_kept _ _ s
  · exact drainEvent_kept s
  · exact atTick_kept s fun _ => changeRole_kept _ _ s
  · exact spacingEvent_kept s
  · exact atTick_kept s fun _ => keepaliveExpired_kept s
  · exact atTick_kept s fun _ => holdoffExpired_kept s

theorem endTick_kept (s : State) : Kept P s (endTick s) :=
  endTick_induct (R := Kept P) Kept.refl Kept.trans tickEvents_kept s

theorem referenceCycle_kept (s : State) : Kept P s (referenceCycle s) := by
  unfold referenceCycle addIncrement
  split
  · refine (endTick_kept s).trans ?_
    simp only
    split
    · exact (tim_steady _ _).kept
    · exact (tim_steady _ _).kept.trans (tick_kept _)
  · exact Kept.refl s

theorem clockTick_kept (s : State) : Kept P s (clockTick s) := by
  unfold clockTick nextTick
  split
  · exact ((endTick_kept s).trans (tim_steady _ _).kept).trans (tick_kept _)
  · exact Kept.refl s

theorem clockHalt_kept (s : State) : Kept P s (clockHalt s) := by
  have ended : Kept P s (if haltWaits s then endTick s else s) := by
    split
    · exact endTick_kept s
    · exact Kept.refl s
  exact ended.trans (takeRequest_kept _ _ _ fun r t _ => control_kept r t (tim_steady t _).kept)

theorem drained_kept (s : State) :
    Kept P s (event (whenDue (s.pai.role == .yielding && !s.pai.yieldFlag && isDrained s) setYieldFlag) s) := by
  refine event_kept ?_
  unfold whenDue
  split
  · next due => exact setYieldFlag_kept s (by simp_all)
  · exact Kept.refl s

/-! ## Resets (R3, R185) -/

/-- Nothing is left in the part but what no law reads, and what the ports and the history hold within their bounds. -/
structure Blank (t : State) : Prop where
  queues  : queuesBounded t
  history : historyBounded t
  mir     : t.mir = Mir.reset
  hold    : t.hold = []
  tbl     : t.tbl = Tbl.cleared
  tko     : t.tko = Tko.reset
  shd     : t.shd.refresh = [] ∧ t.shd.bulkWanted = false
  yielding : t.pai.yieldFlag = false ∧ t.pai.drainTimer = .stopped
  keepalive : t.flt.keepalive = .stopped

theorem Blank.kept (b : Blank t) : Kept P s t := fun _ =>
  ⟨{ queues := b.queues
     tolerance := fun _ => by rw [b.tko]; exact ⟨rfl, rfl⟩
     quiet := fun _ => by rw [b.mir]; exact ⟨rfl, rfl, rfl, b.hold, rfl⟩
     stream := fun c => by rw [b.mir] at c; cases c
     replay := by unfold replayBounded; rw [b.mir]; exact ⟨Nat.zero_le _, fun c => absurd rfl c⟩
     hold := by unfold holdBounded; rw [b.hold]; exact Nat.zero_le _
     refresh := by unfold refreshConfined; rw [b.shd.1]; exact ⟨Nat.zero_le _, List.nodup_nil, fun _ => ⟨rfl, b.shd.2⟩⟩
     yielding := fun _ => b.yielding
     burst := fun _ => by rw [b.tko]; rfl
     keepalive := fun _ => b.keepalive
     history := b.history },
   fun _ _ => ⟨by rw [b.tbl]; rfl, queueLaw_of_idle (by rw [b.mir]; rfl) (by unfold removesInFlight; rw [b.mir]; rfl) b.hold
     fun h => by unfold recordOf; rw [b.tbl]; exact ⟨rfl, nofun⟩⟩⟩

theorem powerOn_kept (s : State) : Kept P s (powerOn s) :=
  Blank.kept ⟨⟨show 1 ≤ 64 by omega, Nat.zero_le _, Nat.zero_le _, Nat.zero_le _⟩, Nat.zero_le _, rfl, rfl, rfl, rfl,
    ⟨rfl, rfl⟩, ⟨rfl, rfl⟩, rfl⟩

/-- No frame is left by a reset. -/
theorem queuesBounded_emptied (t : State) (p : t.prt = resetPrt s) (m : t.mgtQueue = []) : queuesBounded t := by
  unfold queuesBounded
  rw [p, m]
  exact ⟨Nat.zero_le _, Nat.zero_le _, Nat.zero_le _, Nat.zero_le _⟩

theorem pinReset_kept (s : State) : Kept P s (pinReset s) :=
  (Blank.kept ⟨queuesBounded_emptied (s := s) _ rfl rfl, Nat.zero_le _, rfl, rfl, rfl, rfl, ⟨rfl, rfl⟩, ⟨rfl, rfl⟩, rfl⟩).trans
    (sendNotice_steady _).kept

/-- A role history takes one record, and loses its oldest when it has more than its room. -/
theorem logSoftReset_history (h : Safe s) : (logSoftReset s).pai.history.length ≤ Config.historyRoom := by
  unfold logSoftReset
  split
  · exact h.history
  · simp only [addHistory, List.length_drop, List.length_append, List.length_singleton, Config.historyRoom]
    omega

theorem softReset_kept (s : State) : Kept P s (softReset s) := by
  refine Kept.of_safe fun safe => Kept.trans (Blank.kept ?_) (sendNotice_steady _).kept
  exact ⟨queuesBounded_emptied (s := s) _ rfl rfl, logSoftReset_history safe, rfl, rfl, rfl, rfl, ⟨rfl, rfl⟩, ⟨rfl, rfl⟩, rfl⟩

theorem takeSoftReset_kept (s : State) : Kept P s (takeSoftReset s) := by
  unfold takeSoftReset
  split
  · exact Kept.refl s
  · next f rest waits =>
    simp only
    split
    · split
      · exact (softReset_kept s).trans (respond_steady _ _ _).kept
      · exact serve_kept _ _ f rest s waits (Kept.refl _)
    · exact Kept.refl s

/-! ## The step -/

/-- Every command keeps `Safe`, and on a table that meets its own laws the law of what waits for the peer. -/
theorem exec_kept (c : Instr) (s t : State) (h : exec c s = .next t) : Kept (Indexed s.tbl) s t := by
  have acts {u : State} (e : exec c s = .next u) : t = u := by rw [h] at e; cases e; rfl
  have row (k : Row) (hd : Handler) (e : exec c s = .next (takeRequest k hd s))
      (keeps : ∀ r u, Kept (Indexed s.tbl) u (hd r u).1) : Kept (Indexed s.tbl) s t := by
    rw [acts e]; exact takeRequest_kept k hd s fun r u _ => keeps r u
  cases c with
  | powerOn => rw [acts rfl]; exact powerOn_kept s
  | pinReset => rw [acts rfl]; exact pinReset_kept s
  | softReset => rw [acts rfl]; exact takeSoftReset_kept s
  | pPortFrameReceive f => rw [acts rfl]; exact event_kept (receive_kept .p f _ s fun g => classP_kept g _)
  | wPortFrameReceive f => rw [acts rfl]; exact event_kept (receive_kept .w f _ s fun g => takeW_kept g _ id)
  | sPortFrameReceive f => rw [acts rfl]; exact event_kept (receive_kept .s f _ s fun g => takeS_kept g _)
  | frameTransmitComplete port => rw [acts rfl]; exact transmitted_kept port s
  | clockTick => rw [acts rfl]; exact clockTick_kept s
  | patrolStep => rw [acts rfl]; exact tickEvents_kept patrolEvent (by simp [tickEvents]) s
  | holdTimeout => rw [acts rfl]; exact holdEvent_kept s
  | coalesceTimerExpiry => rw [acts rfl]; exact tickEvents_kept coalesceEvent (by simp [tickEvents]) s
  | replayTimerExpiry => rw [acts rfl]; exact replayEvent_kept s
  | revertTimerExpiry => rw [acts rfl]; exact tickEvents_kept revertEvent (by simp [tickEvents]) s
  | ackTimerExpiry => rw [acts rfl]; exact tickEvents_kept ackEvent (by simp [tickEvents]) s
  | helloTimerExpiry => rw [acts rfl]; exact tickEvents_kept helloEvent (by simp [tickEvents]) s
  | deadTimerExpiry path => rw [acts rfl]; exact atTick_kept s fun _ => pathDown_kept path s
  | listenTimerExpiry => rw [acts rfl]; exact tickEvents_kept listenEvent (by simp [tickEvents]) s
  | drainTimerExpiry => rw [acts rfl]; exact drainEvent_kept s
  | graceTimerExpiry => rw [acts rfl]; exact tickEvents_kept graceEvent (by simp [tickEvents]) s
  | announceSpacingExpiry => rw [acts rfl]; exact spacingEvent_kept s
  | keepaliveTimerExpiry => rw [acts rfl]; exact tickEvents_kept keepaliveEvent (by simp [tickEvents]) s
  | noticeHoldoffExpiry => rw [acts rfl]; exact tickEvents_kept holdoffEvent (by simp [tickEvents]) s
  | drained => rw [acts rfl]; exact drained_kept s
  | deltaBuild => rw [acts rfl]; exact event_kept (buildDelta_kept s)
  | read => exact row .read answerRead rfl answerRead_kept
  | readCountersClear => exact row .readCountersClear answerReadClear rfl answerReadClear_kept
  | write => exact row .write answerWrite rfl answerWrite_kept
  | writeConfig => exact row .writeConfig answerWrite rfl answerWrite_kept
  | writeZones => exact row .writeZones answerWrite rfl answerWrite_kept
  | writeTimeouts => exact row .writeTimeouts answerWrite rfl answerWrite_kept
  | writeStatus => exact row .writeStatus answerWrite rfl answerWrite_kept
  | writeClock => exact row .writeClock answerWrite rfl answerWrite_kept
  | install =>
    rw [acts rfl]
    exact takeRequest_kept .install answerInstall s fun r u same => answerInstall_kept r u fun i => same ▸ i
  | find => exact row .find answerFind rfl answerFind_kept
  | remove => exact row .remove answerRemove rfl answerRemove_kept
  | keepalive => exact row .keepalive answerKeepalive rfl answerKeepalive_kept
  | start => exact row .start _ rfl fun r u => control_kept r u (answerStart_kept r u)
  | stop => exact row .stop _ rfl fun r u => control_kept r u (answerStop_kept r u)
  | take => exact row .take _ rfl fun r u => control_kept r u (answerTake_kept r u)
  | yield => exact row .yield _ rfl fun r u => control_kept r u (answerYield_kept r u)
  | resume => exact row .resume _ rfl fun r u => control_kept r u (answerResume_kept r u)
  | resumePath => exact row .resumePath _ rfl fun r u => control_kept r u (answerResumePath_kept r u)
  | forceFault => exact row .forceFault _ rfl fun r u => control_kept r u (answerForceFault_kept r u)
  | clearErrors => exact row .clearErrors _ rfl fun r u => control_kept r u (answerClearErrors_kept r u)
  | clearStatus => exact row .clearStatus _ rfl fun r u => control_kept r u (answerClearStatus_kept r u)
  | clockRun => exact row .clockRun _ rfl fun r u => control_kept r u (tim_steady u _).kept
  | clockHalt => rw [acts rfl]; exact clockHalt_kept s
  | clockSet => exact row .clockSet _ rfl fun r u => control_kept r u (answerClockSet_kept r u)
  | runtRequest => rw [acts rfl]; exact takeRunt_kept s
  | undefinedCommand => exact row .undefined answerUndefined rfl fun _ u => Kept.refl u

/-- The queue of commands is read by no law. -/
theorem pending_kept (s : State) (l : List Instr) : Kept P s { s with pending := l } :=
  Steady.kept Steady.of_fields

theorem step_kept (h : step s = .next t) : Kept (Indexed s.tbl) s t := by
  unfold step at h
  split at h
  · cases h; exact referenceCycle_kept s
  · next c rest _ => exact (pending_kept s rest).trans (exec_kept c { s with pending := rest } t h)

end Sys2Proof.Machine

namespace Sys2Proof.Proofs

open Sys2Proof.Machine Sys2Proof.Safety

/-- Settles O7: each operation keeps `Safe` and, on a table that meets its laws, the law of what waits for the peer; a step is
made of operations. -/
theorem stepKeepsSafe : Obligations.StepKeepsSafe := by
  intro s t safe next
  obtain ⟨safe', waits⟩ := step_kept next safe
  exact ⟨safe', fun table slots law => (waits (Indexed.of_laws table slots) ⟨table.sorted, law⟩).law⟩

end Sys2Proof.Proofs
end

section
/-! SUPPORT. The resets: what the ports last sent, the flags that stay, the notice behind a reset; and the obligations about them. -/

-- One proof at a time: proofs that wait for earlier checks would each take a thread.
set_option Elab.async false

namespace Sys2Proof.Machine

open Sys2Proof.Safety

variable {s t : State}

/-! ## What a reset leaves at the ports (R3) -/

/-- A reset that puts `cutSent` on the wire cuts short at most the head frames. -/
theorem cutShort_of_sent (h : ∀ port, t.prt.sent port = cutSent s port) : CutShort s t := by
  intro port
  rw [h]
  unfold cutSent
  split
  · exact .inl rfl
  · next f rest queue =>
    split
    · exact .inr ⟨f, rest, _, queue, rfl⟩
    · exact .inl rfl

/-- A notice handed to an empty P-port stands there alone, and the holdoff runs. -/
theorem sendNotice_empty (h : s.prt.pQueue = []) : sendNotice s = { s with
    prt := { s.prt with pQueue := [noticeFrame s] }, flt := { s.flt with holdoff := .running s.cfg.noticeHoldoff } } := by
  have room : s.prt.pQueue.length < 64 := by rw [h]; decide
  refine (handToP_room (s := { s with flt := { s.flt with holdoff := .running s.cfg.noticeHoldoff } }) room).trans ?_
  rw [h]
  rfl

/-! ## PIN_RESET -/

/-- The state of a PIN_RESET before its notice. -/
def pinned (s : State) : State :=
  { State.reset with
    prt := resetPrt s
    flt := ({ State.reset.flt with logFault := s.flt.logFault }).afterReset .pin s.pai.role (nextCount s)
    pending := s.pending
    freeCount := s.freeCount + 1 }

theorem pinReset_eq (s : State) : pinReset s = { pinned s with
    prt := { (pinned s).prt with pQueue := [noticeFrame (pinned s)] }, flt := { (pinned s).flt with holdoff := .running 10 } } :=
  sendNotice_empty (s := pinned s) rfl

/-- Of the four records the FAULT record alone can hold an error after a PIN_RESET. -/
theorem pinned_flags (s : State) : (pinned s).flt.flags = if s.flt.logFault.first.isSome then 0x101#9 else 0x001#9 := by
  show resetFlags { State.reset.flt with logFault := s.flt.logFault } = _
  simp only [resetFlags, keptFlag, State.reset, ErrRecord.empty]
  generalize s.flt.logFault.first.isSome = filed
  cases filed
  · simp only [Option.isSome_none, Bool.false_eq_true, if_false]; decide
  · simp only [Option.isSome_none, Bool.false_eq_true, if_false, if_true]; decide

/-! ## SOFT_RESET -/

/-- The state of a SOFT_RESET before its notice. -/
def softened (s : State) : State :=
  { State.reset with
    cfg := s.cfg
    zones := s.zones
    timeouts := s.timeouts
    prt := resetPrt s
    shd := { Shd.reset with adoptedGen := s.shd.adoptedGen }
    pai := (logSoftReset s).pai.softReset
    tim := s.tim.softReset
    flt := (logSoftReset s).flt.afterReset .soft s.pai.role (nextCount s)
    pending := s.pending
    freeCount := s.freeCount + 1 }

theorem softReset_eq (s : State) : softReset s = { softened s with
    prt := { (softened s).prt with pQueue := [noticeFrame (softened s)] },
    flt := { (softened s).flt with holdoff := .running s.cfg.noticeHoldoff } } :=
  sendNotice_empty (s := softened s) rfl

/-- A SOFT_RESET request of 8 bytes takes effect and is answered OK. -/
theorem takeSoftReset_commanded {r : Request} {rest : List Frame} (c : Commanded 8#8 s r rest) :
    takeSoftReset s = respond r (Answer.only .ok) (softReset s) := by
  have row : r.row = .softReset := commanded_row c
  obtain ⟨⟨f, queue, read, _⟩, _, eight, _⟩ := c
  unfold takeSoftReset
  simp only [queue, read]
  rw [if_pos row, if_pos eight]

/-- The response of a SOFT_RESET stands behind the notice. -/
theorem softReset_answered (r : Request) (s : State) : respond r (Answer.only .ok) (softReset s) = { softened s with
    prt := { (softened s).prt with pQueue := [noticeFrame (softened s), responseFrame r (Answer.only .ok) s] },
    flt := { (softened s).flt with holdoff := .running s.cfg.noticeHoldoff } } := by
  have room : (softReset s).prt.pQueue.length < 64 := by rw [softReset_eq]; exact show 1 < 64 by decide
  show handToPort .p (responseFrame r (Answer.only .ok) (softReset s)) (softReset s) = _
  rw [handToP_room room, softReset_eq]
  rfl

/-- The role history takes a record outside DETACHED, and keeps 8. -/
theorem logSoftReset_pai (s : State) : (logSoftReset s).pai = { s.pai with
    history := if s.pai.role = .detached then s.pai.history
      else (s.pai.history ++ [RoleRecord.mk s.pai.role .detached .softReset s.tim.seconds s.tim.ms]).drop
        (s.pai.history.length + 1 - 8) } := by
  unfold logSoftReset
  split
  · rfl
  · have pai : (endBurst s).pai = s.pai := by unfold endBurst; split; rfl; simp only; split <;> rfl
    have tim : (endBurst s).tim = s.tim := by unfold endBurst; split; rfl; simp only; split <;> rfl
    simp only [addHistory, pai, tim, List.length_append, List.length_singleton, Config.historyRoom]

/-- What SOFT_RESET files: TKO2 for a burst with rounds left, outside DETACHED. -/
def softNote (s : State) : ErrRecord :=
  match s.tko.burst with
  | .idle => s.flt.logNote
  | .running n _ => if s.pai.role = .detached ∨ n = 0 then s.flt.logNote
    else s.flt.logNote.report .tko2 (ErrInfo.ofSeq n) s.tim.seconds s.tim.ms

theorem logSoftReset_logs (s : State) : (logSoftReset s).flt.logNote = softNote s ∧
    (logSoftReset s).flt.logDegraded = s.flt.logDegraded ∧ (logSoftReset s).flt.logLoss = s.flt.logLoss ∧
    (logSoftReset s).flt.logFault = s.flt.logFault := by
  unfold logSoftReset softNote
  by_cases detached : s.pai.role = .detached
  · simp only [detached, true_or, if_true, and_self, and_true]
    split <;> rfl
  · simp only [detached, false_or]
    unfold endBurst
    cases burst : s.tko.burst with
    | idle => exact ⟨rfl, rfl, rfl, rfl⟩
    | running n timer =>
      simp only
      by_cases spent : n = 0
      · simp only [if_pos spent]; exact ⟨rfl, rfl, rfl, rfl⟩
      · simp only [if_neg spent]; exact ⟨rfl, rfl, rfl, rfl⟩

/-- The errors of the other classes are those before. -/
theorem logSoftReset_flt (s : State) : (logSoftReset s).flt = { (logSoftReset s).flt with
    logDegraded := s.flt.logDegraded, logLoss := s.flt.logLoss, logFault := s.flt.logFault } := by
  obtain ⟨_, degraded, loss, fault⟩ := logSoftReset_logs s
  rw [← degraded, ← loss, ← fault]

end Sys2Proof.Machine

namespace Sys2Proof.Proofs

open Sys2Proof.Machine Sys2Proof.Safety

/-- Settles O8: each value is read off `State.reset`; the free list is one run, and every counter is at a place of a vector of
zeros. -/
theorem resetHoldsTheStatedValues : Obligations.ResetHoldsTheStatedValues := by
  have zones : ∀ i : Fin 8, State.reset.zones[i] = { enabled := false, announce := false, vlan := 1, mac := 0#48, ip := 0#32 } :=
    fun i => by simp [State.reset, Zone.default]
  have free : freeHandles State.reset.tbl.free = List.range 32768 := by
    simp [State.reset, Tbl.cleared, freeHandles, Config.handles, List.range_eq_range']
  have counters : ∀ c : Ctr, counter State.reset c = 0#32 := fun c => by simp [counter, State.reset]
  have logs : ∀ c : ErrClass, (State.reset.flt.record c).first = none := fun c => by cases c <;> rfl
  exact ⟨rfl, zones, rfl, ⟨rfl, rfl, rfl, rfl⟩, ⟨fun _ => rfl, fun _ => rfl, free, rfl, rfl⟩, rfl,
    ⟨rfl, rfl, rfl, rfl, rfl, rfl, rfl, rfl, rfl, rfl, rfl, rfl, rfl, rfl, rfl, rfl⟩,
    ⟨rfl, rfl, rfl, rfl, rfl, rfl, rfl, rfl, rfl, rfl⟩, ⟨rfl, rfl, rfl, rfl, rfl, rfl, rfl, rfl, rfl, rfl, rfl, rfl⟩, rfl,
    ⟨rfl, rfl, rfl, rfl, rfl, rfl⟩, rfl, logs, counters, rfl, rfl, rfl, rfl, rfl, rfl⟩

/-- Settles O9: power-on is the reset state but for the wire, and a pin reset keeps the FAULT record and its flag besides. -/
theorem powerOnAndPinReset : Obligations.PowerOnAndPinReset := by
  intro s
  refine ⟨⟨powerOn s, rfl, cutShort_of_sent fun port => by cases port <;> rfl, rfl⟩, pinReset s, rfl, ?_, ?_⟩
  · rw [pinReset_eq]
    exact cutShort_of_sent fun port => by cases port <;> rfl
  · rw [pinReset_eq, ← pinned_flags]
    rfl

/-- Settles O10: the request at the head makes the soft reset, whose notice and response join an empty P-port. -/
theorem softResetKeepsConfigurationAndLogs : Obligations.SoftResetKeepsConfigurationAndLogs := by
  intro s r rest commanded
  obtain ⟨note, degraded, loss, fault⟩ := logSoftReset_logs s
  have answered := softReset_answered r s
  refine ⟨respond r (Answer.only .ok) (softReset s), congrArg Host.Outcome.next (takeSoftReset_commanded commanded), ?_, ?_, ?_, ?_⟩
  · rw [answered]
    exact cutShort_of_sent fun port => by cases port <;> rfl
  · rw [answered]
    exact congrArg₂ (fun (p : Pai) (f : Flt) => ({ softened s with
      prt := { (softened s).prt with pQueue := [noticeFrame (softened s), responseFrame r (Answer.only .ok) s] }
      pai := p.softReset
      flt := { f.afterReset .soft s.pai.role (nextCount s) with
        flags := (softened s).flt.flags, holdoff := .running s.cfg.noticeHoldoff } } : State))
      (logSoftReset_pai s) (logSoftReset_flt s)
  · rw [answered]
    exact note
  · rw [answered]
    show resetFlags (logSoftReset s).flt = _
    unfold resetFlags keptFlag
    rw [degraded, loss, fault]
    rfl

end Sys2Proof.Proofs
end

section
/-! SUPPORT. The ports' commands: what an event ends as, the checks of the gate said in the spec's words, and the obligations about
the frames that arrive and leave. -/

-- One proof at a time: proofs that wait for earlier checks would each take a thread.
set_option Elab.async false

namespace Sys2Proof.Machine

open Sys2Proof.Safety

variable {s u : State} {f : State → State}

/-! ## Events by their effect -/

/-- An event whose effect is known ends there, after at most one notice. -/
theorem event_becomes (e : f s = u) : Noticed u (event f s) := e ▸ event_noticed f s

/-- An event whose effect is known and raises no flag ends there. -/
theorem event_is (e : f s = u) (flags : u.flt.flags = s.flt.flags) : event f s = u := by
  rw [event_quiet (by rw [e]; exact flags), e]

/-! ## The receive check (R1) -/

theorem receive_badFcs {g : RxFrame} (bad : g.fcsGood = false) (port : Port) (go : Frame → State → State) (s : State) :
    receive port g go s = if port = .s then countFcs (bump (fcsCounter port) s) else bump (fcsCounter port) s := by
  unfold receive
  rw [if_pos (by rw [bad]; decide)]

theorem receive_badLength {g : RxFrame} (good : g.fcsGood = true) (len : g.bytes.length < 64 ∨ 1522 < g.bytes.length) (port : Port)
    (go : Frame → State → State) (s : State) : receive port g go s = bump (lengthCounter port) s := by
  have wrong : lengthGood g = false := Bool.eq_false_iff.2 fun h => by
    obtain ⟨least, greatest⟩ := Bool.and_eq_true_iff.1 h
    have least : 64 ≤ g.bytes.length := of_decide_eq_true least
    have greatest : g.bytes.length ≤ 1522 := of_decide_eq_true greatest
    omega
  unfold receive
  rw [if_neg (by rw [good]; decide), if_pos (by rw [wrong]; decide)]

/-- Below the threshold, and without a stream, a bad FCS of the S-port is only counted. -/
theorem countFcs_below (h : s.mir.stream = .closed ∨ min (s.mir.fcsCount + 1) 65535 ≠ s.cfg.fcsThreshold) :
    countFcs s = { s with mir := { s.mir with fcsCount := min (s.mir.fcsCount + 1) 65535 } } := by
  unfold countFcs
  refine if_neg ?_
  rintro ⟨opened, reached⟩
  rcases h with closed | below
  · rw [closed] at opened; cases opened
  · exact below reached

/-! ## The gate (1.4) -/

theorem gate_closed_iff (s : State) :
    s.pai.role ∈ [Role.listen, .standbySync, .standbyReady, .faulted] ↔ ¬ (s.pai.role = .detached ∨ gateOpen s = true) := by
  unfold gateOpen
  cases s.pai.role <;> decide

/-- R12's two claims. A frame that passed R1 is long enough to hold an ARP sender. -/
theorem claimsVirtual_iff (s : State) (g : Frame) (long : 60 ≤ g.length) : claimsVirtual s g = true ↔
    (∃ p ∈ enabledZones s.zones, p.2.mac = (headerOf s g).src) ∨
      ((headerOf s g).etype = 0x0806#16 ∧ ∃ p ∈ enabledZones s.zones, p.2.ip ≠ 0#32 ∧
        p.2.ip = word32At g ((headerOf s g).off + 14)) := by
  have fits : (headerOf s g).off + 18 ≤ g.length := by
    unfold headerOf readHeader
    split <;> simp only <;> omega
  unfold claimsVirtual
  rw [Bool.or_eq_true]
  refine or_congr (by simp [isVirtualMac]) ?_
  by_cases arp : (headerOf s g).etype = 0x0806#16
  · simp [arpSender, arp, fits, isVirtualIp, and_comm]
  · simp [arpSender, arp]

theorem passes_long {f : RxFrame} {g : Frame} (p : Passes f g) : 60 ≤ g.length := by
  obtain ⟨_, least, _, rfl⟩ := p
  rw [List.length_take]
  omega

/-! ## W-port frames by their class (R7, R11) -/

theorem takeW_outside (d : s.pai.role ≠ .detached) (g : Frame) : takeW g s = classedW g s := if_neg d

theorem throughGate_open (o : s.pai.role.isActive = true) (go : State → State) : throughGate go s = go s := if_pos o

theorem throughGate_closed (c : s.pai.role.isActive = false) (go : State → State) : throughGate go s = bump .gateDrop s :=
  if_neg (by unfold gateOpen; rw [c]; decide)

/-! ## Mirror frames (R9) -/

/-- A message type that is none of the three. -/
theorem mirrorDispatch_unknown (path : PathId) {p : List Byte} (s : State) (one : byteAt p 0 ≠ 1#8) (two : byteAt p 0 ≠ 2#8)
    (three : byteAt p 0 ≠ 3#8) :
    mirrorDispatch path p s = report .prt2 (ErrInfo.ofPlace (pathPlace path)) (bump .mirrorBad s) := by
  unfold mirrorDispatch
  split
  · next e => exact absurd (BitVec.eq_of_toNat_eq e) one
  · next e => exact absurd (BitVec.eq_of_toNat_eq e) two
  · next e => exact absurd (BitVec.eq_of_toNat_eq e) three
  · rfl

/-! ## A transmission that ends (R2) -/

/-- The path after the head frame of a port has left. -/
def prtAfter (port : Port) (f : Frame) (rest : List Frame) (p : Prt) : Prt :=
  (p.setQueue port rest).setSent port { bytes := padTo 60 f, fcsGood := true }

theorem transmitted_head {port : Port} {g : Frame} {rest : List Frame} (h : s.prt.queue port = g :: rest) :
    transmitted port s = bump (txCounter port) { s with prt := prtAfter port g rest s.prt } := by
  unfold transmitted
  rw [h]
  rfl

end Sys2Proof.Machine

namespace Sys2Proof.Proofs

open Sys2Proof.Machine Sys2Proof.Safety

/-- Settles O11: either check ends the frame before its consumer, and no flag rises. -/
theorem badFramesAreOnlyCounted : Obligations.BadFramesAreOnlyCounted := by
  intro f s
  have ends {c : Instr} {port : Port} {go : Frame → State → State} {u : State}
      (row : exec c s = .next (event (receive port f go) s)) (e : receive port f go s = u)
      (flags : u.flt.flags = s.flt.flags) : exec c s = .next u := row.trans (congrArg _ (event_is e flags))
  refine ⟨fun bad => ⟨?_, ?_, fun below => ?_⟩, fun good len => ⟨?_, ?_, ?_⟩⟩
  · exact ends rfl (receive_badFcs bad .p classP s) rfl
  · exact ends rfl (receive_badFcs bad .w takeW s) rfl
  · refine ends rfl ((receive_badFcs bad .s takeS s).trans (countFcs_below (s := bump .sFcs s) below)) rfl
  · exact ends rfl (receive_badLength good len .p classP s) rfl
  · exact ends rfl (receive_badLength good len .w takeW s) rfl
  · exact ends rfl (receive_badLength good len .s takeS s) rfl

/-- Settles O12: the class is read off the EtherType, and the queue has room or has not. -/
theorem managementFrameWaitsForTheAgent : Obligations.ManagementFrameWaitsForTheAgent := by
  intro f g s passes mgmt
  have taken : receive .p f classP s = enqueueRequest g (bump .pRx s) := (receive_passes passes classP s).trans (if_pos mgmt)
  refine ⟨fun room => ?_, fun full => ⟨_, rfl, event_becomes (taken.trans (if_neg ?_))⟩⟩
  · exact congrArg Host.Outcome.next (event_is (taken.trans (if_pos room)) rfl)
  · exact Nat.not_lt.2 full

/-- Settles O13: a frame that is not the agent's passes unless the gate is closed and it claims a virtual address. -/
theorem processorFrameMeetsTheGate : Obligations.ProcessorFrameMeetsTheGate := by
  intro f g s passes other claims closed
  have taken : receive .p f classP s = processorOut g (bump .pRx s) := (receive_passes passes classP s).trans (if_neg other)
  have gate : closed ↔ ¬ (s.pai.role = .detached ∨ gateOpen s = true) := gate_closed_iff s
  have claim : claimsVirtual s g = true ↔ claims := claimsVirtual_iff s g (passes_long passes)
  refine ⟨fun ⟨shut, claimed⟩ => ?_, fun passed => ⟨_, rfl, event_becomes (taken.trans (if_pos ?_))⟩⟩
  · refine congrArg Host.Outcome.next (event_is (taken.trans (if_neg ?_)) rfl)
    rintro (detached | active | none)
    · exact gate.1 shut (.inl detached)
    · exact gate.1 shut (.inr active)
    · exact none (claim.2 claimed)
  · by_contra stopped
    refine passed ⟨gate.2 fun opened => stopped ?_, claim.1 ?_⟩
    · exact opened.elim .inl fun active => .inr (.inl active)
    · by_contra none
      exact stopped (.inr (.inr none))

/-- Settles O14, class by class. -/
theorem wPortFrameMeetsTheGate : Obligations.WPortFrameMeetsTheGate := by
  intro f g s passes outside
  have taken : receive .w f takeW s = classedW g (bump .wRx s) :=
    (receive_passes passes takeW s).trans (takeW_outside (s := bump .wRx s) outside g)
  have classed {c : WClass} (h : classW s g = c) : classW (bump .wRx s) g = c := h
  refine ⟨fun shut virtual => ?_, fun opened virtual => ?_, fun opened arp => ?_, fun tunnel => ?_, fun other => ?_⟩
  · refine congrArg Host.Outcome.next (event_is (taken.trans ?_) rfl)
    unfold classedW
    rcases virtual with virtual | arp
    · rw [classed virtual]; exact throughGate_closed (s := bump .wRx s) shut _
    · rw [classed arp]; exact throughGate_closed (s := bump .wRx s) shut _
  · refine ⟨_, rfl, event_becomes (taken.trans ?_)⟩
    unfold classedW
    rw [classed virtual]
    exact throughGate_open (s := bump .wRx s) opened _
  · refine ⟨_, rfl, event_becomes (taken.trans ?_)⟩
    unfold classedW
    rw [classed arp]
    exact throughGate_open (s := bump .wRx s) opened _
  · exact ⟨_, rfl, event_becomes (receive_tunnelled passes tunnel outside)⟩
  · refine ⟨_, rfl, event_becomes (taken.trans ?_)⟩
    unfold classedW
    rw [classed other]

/-- Settles O15: in DETACHED no frame is classed; elsewhere the EtherType and the message type decide. -/
theorem detachedIsAWire : Obligations.DetachedIsAWire := by
  refine ⟨fun f g s passes => ⟨fun detached => ⟨?_, ?_⟩, fun outside stray => ?_⟩, ?_⟩
  · exact ⟨_, rfl, event_becomes ((receive_passes passes takeW s).trans (if_pos detached))⟩
  · exact congrArg Host.Outcome.next (event_is ((receive_passes passes takeS s).trans (if_pos detached)) rfl)
  · have other : isMirrorS (bump .sRx s) g = false := by
      unfold isMirrorS
      rcases stray with tag | type
      · simp [tag]
      · simp [type]
    exact ⟨_, rfl, event_becomes ((receive_passes passes takeS s).trans ((if_neg outside).trans
      (if_neg fun mirror => Bool.false_ne_true (other.symm.trans mirror))))⟩
  · intro path s c p arrives outside one two three
    obtain ⟨f, effect, row⟩ := arrives_event arrives outside
    refine ⟨_, row, event_becomes (effect.trans ((mirrorDispatch_unknown path _ one two three).trans ?_))⟩
    cases path <;> rfl

/-- Settles O16: the head frame leaves its own port, and each other port's items are read past the update. -/
theorem transmissionCompletes : Obligations.TransmissionCompletes := by
  intro port f rest s queue
  refine ⟨transmitted port s, rfl, ?_⟩
  rw [transmitted_head queue]
  refine ⟨?_, ?_, ?_, ?_, fun q other => ?_⟩
  · cases port <;> rfl
  · cases port <;> rfl
  · cases port <;> rfl
  · cases port <;> rfl
  · cases port <;> cases q <;> first | exact absurd rfl other | exact ⟨rfl, rfl⟩

end Sys2Proof.Proofs
end

section
/-! SUPPORT. The fast path: what becomes of a frame by the lookup's and the tracker's answer, the tracker's answer for a segment of
an OPEN session, and the obligations about them. -/

-- One proof at a time: proofs that wait for earlier checks would each take a thread.
set_option Elab.async false

namespace Sys2Proof.Machine

open Sys2Proof.Safety

variable {s : State} {f : RxFrame} {g : Frame} {z h : Nat} {d : Dir}

/-! ## The fast path by its lookup (R15) -/

theorem fastPath_refused {r : Reason} {zone : Option Nat} (p : parseFrame s.zones (headerOf s g) g = .refused r zone) :
    fastPath g s = sendException r zone none g s := by
  unfold fastPath
  rw [p]

theorem fastPath_misses {k : Key} (p : parseFrame s.zones (headerOf s g) g = .keyed z k) (m : Misses s k) :
    fastPath g s = sendException .miss (some z) none g s := by
  unfold fastPath
  rw [p]
  simp only [lookup_misses m]

theorem fastPath_finds {k : Key} (p : parseFrame s.zones (headerOf s g) g = .keyed z k) (m : Finds s k h d) :
    fastPath g s = if isHeld s h then bump .holdDropSecond s else trackHit z h d g s := by
  unfold fastPath
  rw [p]
  simp only [lookup_finds m]

theorem isHeld_iff (s : State) (h : Nat) : isHeld s h = true ↔ ∃ e ∈ s.hold, e.handle = h := by simp [isHeld]

/-- A hit of a session with a held frame (R78). -/
theorem receive_held (r : Reaches s f g z h d) (held : ∃ e ∈ s.hold, e.handle = h) :
    receive .w f takeW s = bump .holdDropSecond (bump .wRx s) := by
  obtain ⟨enters, k, keyed, finds⟩ := r
  rw [receive_enters enters, fastPath_finds (s := bump .wRx s) keyed finds]
  exact if_pos ((isHeld_iff s h).2 held)

/-- Another hit meets the tracker. -/
theorem receive_hits (r : Hits s f g z h d) : receive .w f takeW s = trackHit z h d g (bump .wRx s) := by
  obtain ⟨⟨enters, k, keyed, finds⟩, free⟩ := r
  rw [receive_enters enters, fastPath_finds (s := bump .wRx s) keyed finds]
  refine if_neg fun held => ?_
  obtain ⟨e, mem, eq⟩ := (isHeld_iff s h).1 held
  exact free e mem eq

/-- An accepted frame: its record is written back, and it leaves rewritten by the W-port (R23, R49). -/
theorem trackHit_accepts {b' : Body} {ns : List ErrCode}
    (a : judge (recordOf s h).body d g (headerOf s g).off (tolerance s) s.tim.seconds = .accept b' ns) :
    trackHit z h d g s = bump .hitFwd (handToPort .w (rewriteFrame s.cfg s.zones (recordOf s h).body d g)
      (writeBack h (recordOf s h).body b' ns s)) := by
  unfold trackHit
  simp only [a]

/-! ## The write-back and its mark (R49, R71) -/

/-- The record written, and the errors filed. -/
def written (h : Nat) (b' : Body) (ns : List ErrCode) (s : State) : State :=
  ns.foldl (fun u c => report c (ErrInfo.ofHandle h) u) (setRecord h { recordOf s h with body := b' } s)

theorem written_keeps (h : Nat) (b' : Body) (ns : List ErrCode) (s : State) :
    (written h b' ns s).mir = s.mir ∧ (written h b' ns s).cfg = s.cfg :=
  ⟨foldl_same (f := fun u c => report c (ErrInfo.ofHandle h) u) (g := State.mir) (fun _ _ => rfl) ns _,
    foldl_same (f := fun u c => report c (ErrInfo.ofHandle h) u) (g := State.cfg) (fun _ _ => rfl) ns _⟩

/-- An UPDATE marked: only a session with nothing pending changes. -/
theorem markDirty_update (opened : s.mir.stream = .opened) (h : Nat) : markDirty .update h s = markedUpdate h s := by
  unfold markDirty markedUpdate
  rw [if_neg (by rw [opened]; exact nofun)]
  cases pending : (recordOf s h).pending with
  | none => rfl
  | create => rfl
  | update => rfl
  | remove => rfl

theorem dirChanged_iff (a b : DirTracker) : dirChanged a b = true ↔
    a.seeded ≠ b.seeded ∨ a.edgeValid ≠ b.edgeValid ∨ a.scaleOffered ≠ b.scaleOffered ∨ a.wscale ≠ b.wscale := by
  simp [dirChanged, or_assoc]

/-- R71's criteria, in the spec's words. -/
theorem updateDue_iff (s : State) (m : Mirrored) (b b' : Body) : updateDue s.cfg m b b' = true ↔ updateMeets s m b b' := by
  have dirs (Q : Dir → Prop) : (∃ d, Q d) ↔ Q .orig ∨ Q .reply :=
    ⟨fun ⟨d, q⟩ => by cases d <;> simp [q], fun q => q.elim (⟨_, ·⟩) (⟨_, ·⟩)⟩
  unfold updateDue updateMeets
  simp only [dirs, Body.dir, ← dirChanged_iff, Bool.or_eq_true, Bool.and_eq_true, bne_iff_ne, ne_eq, edgeMoved, decide_eq_true_eq,
    or_assoc]

/-- The three ends of a write-back, by the mirrored group. -/
theorem writeBack_unmarked {b b' : Body} {ns : List ErrCode}
    (none : s.mir.stream = .closed ∨ b'.mirrored = none ∨ ∃ m, b'.mirrored = some m ∧ ¬ updateMeets s m b b') :
    writeBack h b b' ns s = written h b' ns s := by
  obtain ⟨mir, cfg⟩ := written_keeps h b' ns s
  show markAfter h b b' (written h b' ns s) = _
  unfold markAfter
  rw [mir, cfg]
  refine if_neg ?_
  rintro ⟨opened, due⟩
  rcases none with closed | absent | ⟨m, present, unmet⟩
  · rw [closed] at opened; cases opened
  · rw [absent] at due; cases due
  · rw [present] at due
    exact unmet ((updateDue_iff s m b b').1 due)

theorem writeBack_marked {b b' : Body} {ns : List ErrCode} {m : Mirrored} (opened : s.mir.stream = .opened)
    (present : b'.mirrored = some m) (met : updateMeets s m b b') :
    writeBack h b b' ns s = bump .trkMark (markedUpdate h (written h b' ns s)) := by
  obtain ⟨mir, cfg⟩ := written_keeps h b' ns s
  rw [← markDirty_update (mir ▸ opened : (written h b' ns s).mir.stream = .opened)]
  show markAfter h b b' (written h b' ns s) = _
  unfold markAfter
  rw [mir, cfg]
  exact if_pos ⟨opened, by rw [present]; exact (updateDue_iff s m b b').2 met⟩

/-! ## What the tracker leaves of a record -/

@[simp] theorem account_mirrored (b : Body) (d : Dir) (total : Nat) (now : Word32) :
    (account b d total now).mirrored = b.mirrored := by cases d <;> rfl

@[simp] theorem setDir_mirrored (b : Body) (d : Dir) (t : DirTracker) : (b.setDir d t).mirrored = b.mirrored := by cases d <;> rfl

theorem finFromOpen_mirrored (b : Body) (d : Dir) (g : Segment) : (finFromOpen b d g).mirrored = b.mirrored := by
  unfold finFromOpen
  split
  · exact setDir_mirrored _ _ _
  · rfl

theorem transition_mirrored (b : Body) (d : Dir) (g : Segment) : (transition b d g).1.mirrored = b.mirrored := by
  unfold transition
  split
  · cases d
    · exact setDir_mirrored _ _ _
    · simp only [decideScaling]
      split <;> rfl
  · simp only
    split
    · exact finFromOpen_mirrored _ d g
    · rfl
  · exact finFromOpen_mirrored b d g
  · simp only
    split
    · exact setDir_mirrored _ _ _
    · rfl
  · simp only
    split <;> rfl
  · rfl
  · rfl
  · rfl

/-- The mirrored group is not the tracker's. -/
theorem judgeTcp_mirrored {b b' : Body} {d : Dir} {g : Segment} {tol total : Nat} {now : Word32} {ns : List ErrCode}
    (a : judgeTcp b d g tol total now = .accept b' ns) : b'.mirrored = b.mirrored := by
  have learns (t : DirTracker) : (account (transition (b.setDir d t) d g).1 d total now).mirrored = b.mirrored := by
    rw [account_mirrored, transition_mirrored, setDir_mirrored]
  unfold judgeTcp at a
  split at a
  · split at a
    · cases a
    · cases a; exact account_mirrored _ d total now
  · split at a
    · cases a
    · split at a
      · cases a
      · simp only at a
        split at a
        · cases a; exact learns _
        · split at a
          · cases a
          · cases a; exact learns _

/-! ## A segment of an OPEN session (R57, R60, R65 to R67) -/

/-- The record of an OPEN session after an accepted segment, but for its two trackers. -/
def OpenAccounted (b : Body) (d : Dir) (g : Segment) (total : Nat) (now : Word32) (b' : Body) : Prop :=
  b' = { b with
    state := if g.hasFin = true then .drainOne else .opened
    finOrder := if g.hasFin = true then some d else b.finOrder
    dirOrig := b'.dirOrig, dirReply := b'.dirReply, lastSeen := now
    packetsOrig := if d = .orig then satAdd32 b.packetsOrig 1 else b.packetsOrig
    packetsReply := if d = .reply then satAdd32 b.packetsReply 1 else b.packetsReply
    bytesOrig := if d = .orig then satAdd48 b.bytesOrig total else b.bytesOrig
    bytesReply := if d = .reply then satAdd48 b.bytesReply total else b.bytesReply }

/-- The direction's tracker becomes t, with the FIN's end; the other stands. -/
theorem opened_learns {b : Body} (opened : b.state = .opened) (d : Dir) (g : Segment) (total : Nat) (now : Word32)
    (t : DirTracker) : ∃ b', account (transition (b.setDir d t) d g).1 d total now = b' ∧ (transition (b.setDir d t) d g).2 = [] ∧
      b'.dir d.other = b.dir d.other ∧ b'.dir d = { t with finEnd := if g.hasFin = true then some g.finish else t.finEnd } ∧
      OpenAccounted b d g total now b' := by
  obtain ⟨state, origKey, replyKey, nextHopOrig, nextHopReply, flowClass, lastSeen, dirOrig, dirReply⟩ := b
  subst opened
  refine ⟨_, rfl, ?_⟩
  cases d <;> cases fin : g.hasFin <;>
    simp [transition, Body.setDir, finFromOpen, fin, account, Body.dir, Dir.other, OpenAccounted]

/-- A segment that fits an OPEN session is judged by the checks, or seeds its direction. -/
theorem judgeTcp_opened {b : Body} (opened : b.state = .opened) {d : Dir} {g : Segment} (rst : g.hasRst = false)
    (fit : fits b d g = true) (tol total : Nat) (now : Word32) : judgeTcp b d g tol total now =
      if ¬ (b.dir d).seeded then
        .accept (account (transition (b.setDir d (seedDir (b.dir d) g (windowOf b d g))) d g).1 d total now)
          (transition (b.setDir d (seedDir (b.dir d) g (windowOf b d g))) d g).2
      else match failedCheck b d g tol with
        | some c => .refuse c
        | none => .accept (account (transition (b.setDir d (updateDir (b.dir d) g (windowOf b d g))) d g).1 d total now)
          (transition (b.setDir d (updateDir (b.dir d) g (windowOf b d g))) d g).2 := by
  unfold judgeTcp
  exact (if_neg (by rw [rst]; decide)).trans ((if_neg (by rw [opened]; rintro ⟨⟨⟩, _⟩)).trans (if_neg (by rw [fit]; decide)))

/-! ### The checks in the spec's words -/

theorem passC1_iff (b : Body) (d : Dir) (g : Segment) (tol : Nat) : passC1 b d g tol = true ↔
    ((b.dir d.other).edgeValid = true → seqNotAfter g.finish ((b.dir d.other).rightEdge + BitVec.ofNat 32 tol) = true) := by
  unfold passC1 tolWord
  cases (b.dir d.other).edgeValid <;> simp

theorem passC2_iff (b : Body) (d : Dir) (g : Segment) (tol : Nat) : passC2 b d g tol = true ↔
    ((b.dir d.other).seeded = true →
      seqNotBefore g.seq ((b.dir d).hiSeq - (b.dir d.other).maxWin - BitVec.ofNat 32 tol) = true) := by
  unfold passC2 tolWord
  cases (b.dir d.other).seeded <;> simp

theorem passC3_iff (b : Body) (d : Dir) (g : Segment) (tol : Nat) : passC3 b d g tol = true ↔
    (g.hasAck = true → (b.dir d.other).seeded = true →
      seqNotAfter g.ack ((b.dir d.other).hiSeq + BitVec.ofNat 32 tol) = true) := by
  unfold passC3 tolWord
  cases g.hasAck <;> cases (b.dir d.other).seeded <;> simp

/-- W, in the spec's words (R52). -/
theorem windowOf_eq (b : Body) (d : Dir) (g : Segment) : windowOf b d g =
    if b.dirOrig.scaleOffered = true ∧ b.dirReply.scaleOffered = true ∧ g.hasSyn = false
      then g.window.setWidth 32 <<< (b.dir d).wscale.toNat else g.window.setWidth 32 := by
  unfold windowOf Body.scaling
  simp only [Bool.and_eq_true, Bool.not_eq_true, and_assoc]

end Sys2Proof.Machine

namespace Sys2Proof.Proofs

open Sys2Proof.Machine Sys2Proof.Safety

/-- Settles O17: a refusal and a miss are both sent with the tag of their reason, which names no session. -/
theorem unmatchedFrameIsTagged : Obligations.UnmatchedFrameIsTagged := by
  intro f g s reason zone enters unmatched
  refine ⟨_, rfl, event_becomes ((receive_enters enters).trans ?_)⟩
  rcases unmatched with refused | ⟨rfl, z, k, rfl, keyed, misses⟩
  · exact fastPath_refused (s := bump .wRx s) refused
  · exact fastPath_misses (s := bump .wRx s) keyed misses

/-- Settles O18: the tracker accepts every frame of a FLOW session, of which no criterion but the touch interval can hold. -/
theorem flowHitIsForwarded : Obligations.FlowHitIsForwarded := by
  intro f g s z h d reaches r b total wr leaves
  refine ⟨fun held => congrArg Host.Outcome.next (event_is (receive_held reaches held) rfl), fun free flow => ?_⟩
  have hits : Hits s f g z h d := ⟨reaches, free⟩
  have accepted : judge b d g (headerOf s g).off (tolerance s) s.tim.seconds = .accept (account b d total s.tim.seconds) [] :=
    if_pos flow
  have made : written h (account b d total s.tim.seconds) [] (bump .wRx s) = wr := by
    cases d <;> rfl
  have sent {u : State} (e : writeBack h b (account b d total s.tim.seconds) [] (bump .wRx s) = u) : leaves u := by
    refine ⟨_, rfl, event_becomes ((receive_hits hits).trans ?_)⟩
    rw [trackHit_accepts (s := bump .wRx s) accepted, ← e]
    rfl
  have meets (m : Mirrored) : updateMeets s m b (account b d total s.tim.seconds) ↔
      s.cfg.touchInterval ≤ (s.tim.seconds - m.seen).toNat := by
    have state : (account b d total s.tim.seconds).state = .flow := by cases d <;> exact flow
    have seen : (account b d total s.tim.seconds).lastSeen = s.tim.seconds := by cases d <;> rfl
    unfold updateMeets
    rw [state, seen]
    exact ⟨fun m => m.elim id fun c => absurd rfl c.1, .inl⟩
  have mirrored := account_mirrored b d total s.tim.seconds
  refine ⟨fun none => sent ?_, fun m opened present => ⟨fun young => sent ?_, fun old => sent ?_⟩⟩
  · rw [← made]
    exact writeBack_unmarked (s := bump .wRx s) (none.imp id fun absent => .inl (mirrored.trans absent))
  · rw [← made]
    exact writeBack_unmarked (s := bump .wRx s)
      (.inr (.inr ⟨m, mirrored.trans present, fun met => absurd ((meets m).1 met) (by omega)⟩))
  · rw [← made]
    exact writeBack_marked (s := bump .wRx s) opened (mirrored.trans present) ((meets m).2 old)

/-- Settles O19: for an OPEN session the checks in their order and the learning of the tracker; for every accepted segment the
write-back with its mark. -/
theorem openSegmentIsCheckedThenLearned : Obligations.OpenSegmentIsCheckedThenLearned := by
  constructor
  · intro b d g tol total now opened rst o t w c1 c2 c3 accounted
    have iff1 : passC1 b d g tol = true ↔ c1 := passC1_iff b d g tol
    have iff2 : passC2 b d g tol = true ↔ c2 := passC2_iff b d g tol
    have iff3 : passC3 b d g tol = true ↔ c3 := passC3_iff b d g tol
    have window : windowOf b d g = w := windowOf_eq b d g
    refine ⟨fun seeded syn => ?_, fun unseeded valid => ?_⟩
    · have judged := judgeTcp_opened opened rst (by simp [fits, opened, syn]) (d := d) tol total now
      rw [if_neg (show ¬ ¬ (b.dir d).seeded = true from not_not.2 seeded)] at judged
      rw [judged]
      unfold failedCheck
      refine ⟨fun f1 => ?_, fun p1 f2 => ?_, fun p1 p2 f3 => ?_, fun p1 p2 p3 => ?_⟩
      · simp [mt iff1.1 f1]
      · simp [iff1.2 p1, mt iff2.1 f2]
      · simp [iff1.2 p1, iff2.2 p2, mt iff3.1 f3]
      · obtain ⟨b', made, notes, other, dir, acc⟩ := opened_learns opened d g total now (updateDir t g w)
        refine ⟨b', ?_, other, dir.trans ?_, acc⟩
        · simp only [iff1.2 p1, iff2.2 p2, iff3.2 p3, window]
          rw [show b.dir d = t from rfl, made, notes]
          rfl
        · unfold updateDir maxWord
          cases ack : g.hasAck <;> simp
    · have fit : fits b d g = true := by
        have : (b.dir d).seeded = false := unseeded
        cases syn : g.hasSyn <;> cases fin : g.hasFin <;> simp_all [fits]
      have judged := judgeTcp_opened opened rst fit tol total now
      rw [if_pos (show ¬ (b.dir d).seeded = true by rw [show (b.dir d).seeded = false from unseeded]; decide)] at judged
      obtain ⟨b', made, notes, other, dir, acc⟩ := opened_learns opened d g total now (seedDir t g w)
      refine ⟨b', ?_, other, dir.trans ?_, acc⟩
      · rw [judged, window, show b.dir d = t from rfl, made, notes]
      · unfold seedDir maxWord
        have zero : w.toNat < (1#32).toNat ↔ w = 0#32 := by
          rw [← BitVec.toNat_inj]
          simp only [BitVec.toNat_ofNat]
          omega
        simp only [zero]
        cases ack : g.hasAck <;> simp
  · intro f g s z h d b' ns hits r b tcp accepted wr leaves
    have judged : judge b d g (headerOf s g).off (tolerance s) s.tim.seconds = .accept b' ns := (if_neg tcp).trans accepted
    have mirrored : b'.mirrored = b.mirrored := judgeTcp_mirrored accepted
    have sent {u : State} (e : writeBack h b b' ns (bump .wRx s) = u) : leaves u := by
      refine ⟨_, rfl, event_becomes ((receive_hits hits).trans ?_)⟩
      rw [trackHit_accepts (s := bump .wRx s) judged, ← e]
      rfl
    refine ⟨fun none => sent ?_, fun m opened present => ⟨fun unmet => sent ?_, fun met => sent ?_⟩⟩
    · exact writeBack_unmarked (s := bump .wRx s) (none.imp id fun absent => .inl (mirrored.trans absent))
    · exact writeBack_unmarked (s := bump .wRx s) (.inr (.inr ⟨m, mirrored.trans present, unmet⟩))
    · exact writeBack_marked (s := bump .wRx s) opened (mirrored.trans present) met

end Sys2Proof.Proofs
end

section
/-! SUPPORT. The rewrite unit: ones' complement sums modulo 65,535, what an overwrite leaves and brings, the rewritten IPv4 header,
and the obligation about them. -/

-- One proof at a time: proofs that wait for earlier checks would each take a thread.
set_option Elab.async false

namespace Sys2Proof.Machine

open Sys2Proof.Safety

variable {p : List Byte} {t : Translation}

/-! ## Ones' complement sums (R20) -/

theorem onesAdd_toNat (a b : Word16) :
    (onesAdd a b).toNat = (a.toNat + b.toNat) % 65536 + (a.toNat + b.toNat) / 65536 := by
  have := a.isLt
  have := b.isLt
  simp only [onesAdd, BitVec.toNat_ofNat]
  omega

/-- A ones' complement sum is a sum modulo 65,535, -/
theorem onesAdd_modEq (a b : Word16) : (onesAdd a b).toNat ≡ a.toNat + b.toNat [MOD 65535] := by
  rw [onesAdd_toNat]
  unfold Nat.ModEq
  omega

/-- and is 0 only of zeros. -/
theorem onesAdd_eq_zero (a b : Word16) : onesAdd a b = 0#16 ↔ a = 0#16 ∧ b = 0#16 := by
  simp only [← BitVec.toNat_inj, onesAdd_toNat, BitVec.toNat_ofNat]
  omega

theorem foldl_onesAdd_modEq (ws : List Word16) (a : Word16) :
    (ws.foldl onesAdd a).toNat ≡ a.toNat + (ws.map BitVec.toNat).sum [MOD 65535] := by
  induction ws generalizing a with
  | nil => exact Nat.ModEq.refl _
  | cons w ws ih =>
    rw [List.foldl_cons, List.map_cons, List.sum_cons, ← Nat.add_assoc]
    exact (ih _).trans ((onesAdd_modEq a w).add_right _)

theorem foldl_onesAdd_eq_zero (ws : List Word16) (a : Word16) : ws.foldl onesAdd a = 0#16 ↔ a = 0#16 ∧ ∀ w ∈ ws, w = 0#16 := by
  induction ws generalizing a with
  | nil => simp
  | cons w ws ih => rw [List.foldl_cons, ih, onesAdd_eq_zero, List.forall_mem_cons, and_assoc]

/-- The sum of words that are not all 0 is 0xFFFF when 65,535 divides it. -/
theorem onesSum_full {ws : List Word16} {w : Word16} (mem : w ∈ ws) (nz : w ≠ 0#16) :
    onesSum ws = 0xFFFF#16 ↔ (ws.map BitVec.toNat).sum % 65535 = 0 := by
  have sum : (onesSum ws).toNat ≡ 0 + (ws.map BitVec.toNat).sum [MOD 65535] := foldl_onesAdd_modEq ws 0#16
  have pos : (onesSum ws).toNat ≠ 0 := fun zero =>
    nz (((foldl_onesAdd_eq_zero ws 0#16).1 (BitVec.eq_of_toNat_eq zero)).2 w mem)
  have := (onesSum ws).isLt
  unfold Nat.ModEq at sum
  rw [← BitVec.toNat_inj, BitVec.toNat_ofNat]
  omega

/-- A checksum adjusted for one word balances the word's change. -/
theorem adjustWord_balance (hc m m' : Word16) : (adjustWord hc m m').toNat + m'.toNat ≡ hc.toNat + m.toNat [MOD 65535] := by
  unfold adjustWord
  split
  · next same => rw [same]
  · have inner := onesAdd_modEq (~~~hc) (~~~m)
    have outer := onesAdd_modEq (onesAdd (~~~hc) (~~~m)) m'
    have := hc.isLt
    have := m.isLt
    have := (onesAdd (onesAdd (~~~hc) (~~~m)) m').isLt
    simp only [Nat.ModEq, BitVec.toNat_not] at inner outer ⊢
    omega

theorem adjustWords_balance (hc : Word16) (ws : List (Word16 × Word16)) :
    (adjustWords hc ws).toNat + (ws.map fun w => w.2.toNat).sum ≡ hc.toNat + (ws.map fun w => w.1.toNat).sum [MOD 65535] := by
  induction ws generalizing hc with
  | nil => exact Nat.ModEq.refl _
  | cons w ws ih =>
    have head := adjustWord_balance hc w.1 w.2
    have tail := ih (adjustWord hc w.1 w.2)
    show (adjustWords (adjustWord hc w.1 w.2) ws).toNat + _ ≡ _ [MOD 65535]
    simp only [Nat.ModEq, List.map_cons, List.sum_cons] at head tail ⊢
    omega

/-- Adjusting as R20 says it: words that keep their value are not entered, and with none changed the checksum stands. -/
theorem adjustWords_eq (hc : Word16) (ws : List (Word16 × Word16)) : adjustWords hc ws =
    if (ws.filter fun m => m.1 != m.2) = [] then hc
    else ~~~ onesSum (~~~ hc :: (ws.filter fun m => m.1 != m.2).flatMap fun m => [~~~ m.1, m.2]) := by
  rw [adjustWords_sum]
  split
  · next none =>
    rw [none]
    show ~~~ (onesAdd 0#16 (~~~ hc)) = hc
    rw [onesAdd_zero, BitVec.not_not]
  · rfl

/-! ## Words after an overwrite -/

section overwriting

variable {f new : List Byte} {off : Nat} (h : off + new.length ≤ f.length)
include h

theorem byteAt_overwrite_outside {i : Nat} (o : i < off ∨ off + new.length ≤ i) :
    byteAt (overwrite f off new) i = byteAt f i := (byteAt_overwrite h i).trans (if_pos o)

theorem byteAt_overwrite_inside {i : Nat} (o : i < new.length) : byteAt (overwrite f off new) (off + i) = byteAt new i := by
  rw [byteAt_overwrite h, if_neg (by omega), Nat.add_sub_cancel_left]

theorem word16At_overwrite_outside {i : Nat} (o : i + 2 ≤ off ∨ off + new.length ≤ i) :
    word16At (overwrite f off new) i = word16At f i := by
  unfold word16At
  rw [byteAt_overwrite_outside h (by omega), byteAt_overwrite_outside h (by omega)]

theorem word16At_overwrite_inside {i : Nat} (o : i + 2 ≤ new.length) :
    word16At (overwrite f off new) (off + i) = word16At new i := by
  unfold word16At
  rw [byteAt_overwrite_inside h (by omega), Nat.add_assoc, byteAt_overwrite_inside h (by omega)]

end overwriting

/-! ## The two bytes of a word -/

theorem word_high (a b : Byte) : (a ++ b).extractLsb' 8 8 = a := by
  apply BitVec.eq_of_getLsbD_eq
  intro i hi
  rw [BitVec.getLsbD_extractLsb', BitVec.getLsbD_append, decide_eq_true hi, if_neg (by omega), Nat.add_sub_cancel_left]
  rfl

theorem word_low (a b : Byte) : (a ++ b).extractLsb' 0 8 = b := by
  apply BitVec.eq_of_getLsbD_eq
  intro i hi
  rw [BitVec.getLsbD_extractLsb', BitVec.getLsbD_append, decide_eq_true hi, if_pos (by omega), Nat.zero_add]
  rfl

theorem word_toNat (a b : Byte) : (a ++ b).toNat = a.toNat * 256 + b.toNat := by
  rw [BitVec.toNat_append, ← Nat.shiftLeft_add_eq_or_of_lt b.isLt, Nat.shiftLeft_eq]

/-- The TTL is the high byte of its word. -/
theorem word_lowered (a b : Byte) : a ++ b - 0x0100#16 = (a - 1#8) ++ b := by
  apply BitVec.eq_of_toNat_eq
  have := a.isLt
  have := b.isLt
  simp only [BitVec.toNat_sub, word_toNat, BitVec.toNat_ofNat]
  omega

/-! ## The rewritten IPv4 header (R18, R19, R21) -/

/-- The header checksum that leaves. -/
def ipSum (p : List Byte) (t : Translation) : Word16 :=
  adjustWords (word16At p 10) ((word16At p 8, ttlWord p) :: addressWords p t)

/-- The twelve bytes of the header that the rewrite writes. -/
def ipNew (p : List Byte) (t : Translation) : List Byte :=
  bytes16 (ttlWord p) ++ bytes16 (ipSum p t) ++ bytes32 t.srcAddr ++ bytes32 t.dstAddr

theorem ipNew_fits (long : 20 ≤ p.length) (t : Translation) : 8 + (ipNew p t).length ≤ p.length := long

/-- The words written, in their order. -/
theorem ipNew_words (p : List Byte) (t : Translation) : word16At (ipNew p t) 0 = ttlWord p ∧ word16At (ipNew p t) 2 = ipSum p t ∧
    word16At (ipNew p t) 4 = t.srcAddr.extractLsb' 16 16 ∧ word16At (ipNew p t) 6 = t.srcAddr.extractLsb' 0 16 ∧
    word16At (ipNew p t) 8 = t.dstAddr.extractLsb' 16 16 ∧ word16At (ipNew p t) 10 = t.dstAddr.extractLsb' 0 16 :=
  ⟨join16 _, join16 _, extract_append t.srcAddr 16 8 8, extract_append t.srcAddr 0 8 8, extract_append t.dstAddr 16 8 8,
    extract_append t.dstAddr 0 8 8⟩

section header

variable (long : 20 ≤ p.length)
include long

theorem rewriteIp_length (t : Translation) : (rewriteIp p t).length = p.length := overwrite_length (ipNew_fits long t)

theorem rewriteIp_outside (t : Translation) {i : Nat} (o : i < 8 ∨ 20 ≤ i) : byteAt (rewriteIp p t) i = byteAt p i :=
  byteAt_overwrite_outside (ipNew_fits long t) o

theorem rewriteIp_word_outside (t : Translation) {i : Nat} (o : i + 2 ≤ 8 ∨ 20 ≤ i) : word16At (rewriteIp p t) i = word16At p i :=
  word16At_overwrite_outside (ipNew_fits long t) o

theorem rewriteIp_word_inside (t : Translation) {i : Nat} (o : i + 2 ≤ 12) :
    word16At (rewriteIp p t) (8 + i) = word16At (ipNew p t) i := word16At_overwrite_inside (ipNew_fits long t) o

/-- The ten words of the header that leaves. -/
theorem rewriteIp_words (t : Translation) : ipHeaderWords (rewriteIp p t) 0 =
    [word16At p 0, word16At p 2, word16At p 4, word16At p 6, ttlWord p, ipSum p t, t.srcAddr.extractLsb' 16 16,
      t.srcAddr.extractLsb' 0 16, t.dstAddr.extractLsb' 16 16, t.dstAddr.extractLsb' 0 16] := by
  obtain ⟨ttl, sum, srcHigh, srcLow, dstHigh, dstLow⟩ := ipNew_words p t
  rw [← ttl, ← sum, ← srcHigh, ← srcLow, ← dstHigh, ← dstLow]
  have outside {i : Nat} (o : i + 2 ≤ 8) := rewriteIp_word_outside long t (i := i) (.inl o)
  have inside {i : Nat} (o : i + 2 ≤ 12) := rewriteIp_word_inside long t o
  rw [← outside (i := 0) (by omega), ← outside (i := 2) (by omega), ← outside (i := 4) (by omega), ← outside (i := 6) (by omega),
    ← inside (i := 0) (by omega), ← inside (i := 2) (by omega), ← inside (i := 4) (by omega), ← inside (i := 6) (by omega),
    ← inside (i := 8) (by omega), ← inside (i := 10) (by omega)]
  rfl

theorem rewriteIp_addresses (t : Translation) :
    word32At (rewriteIp p t) 12 = t.srcAddr ∧ word32At (rewriteIp p t) 16 = t.dstAddr := by
  obtain ⟨_, _, srcHigh, srcLow, dstHigh, dstLow⟩ := ipNew_words p t
  have inside {i : Nat} (o : i + 2 ≤ 12) := rewriteIp_word_inside long t o
  unfold word32At
  rw [inside (i := 4) (by omega), inside (i := 6) (by omega), inside (i := 8) (by omega), inside (i := 10) (by omega), srcHigh,
    srcLow, dstHigh, dstLow]
  exact ⟨(extract_append t.srcAddr 0 16 16).trans (extract_whole _), (extract_append t.dstAddr 0 16 16).trans (extract_whole _)⟩

/-- The TTL falls by one and the protocol stands (R19). -/
theorem rewriteIp_ttl (t : Translation) (positive : 1 ≤ (byteAt p 8).toNat) :
    (byteAt (rewriteIp p t) 8).toNat = (byteAt p 8).toNat - 1 ∧ byteAt (rewriteIp p t) 9 = byteAt p 9 := by
  have inside {i : Nat} (o : i < 12) : byteAt (rewriteIp p t) (8 + i) = byteAt (ipNew p t) i :=
    byteAt_overwrite_inside (ipNew_fits long t) o
  have high : byteAt (rewriteIp p t) 8 = (ttlWord p).extractLsb' 8 8 := inside (i := 0) (by omega)
  have low : byteAt (rewriteIp p t) 9 = (ttlWord p).extractLsb' 0 8 := inside (i := 1) (by omega)
  have lowered : ttlWord p = (byteAt p 8 - 1#8) ++ byteAt p 9 := word_lowered _ _
  rw [high, low, lowered, word_high, word_low]
  refine ⟨?_, rfl⟩
  have := (byteAt p 8).isLt
  simp only [BitVec.toNat_sub, BitVec.toNat_ofNat]
  omega

/-- A header whose checksum is right leaves with a right one (R21). -/
theorem rewriteIp_checksum (t : Translation) (version : byteAt p 0 = 0x45#8) (right : onesSum (ipHeaderWords p 0) = 0xFFFF#16) :
    onesSum (ipHeaderWords (rewriteIp p t) 0) = 0xFFFF#16 := by
  have first : word16At p 0 ≠ 0#16 := fun zero => by
    have high : (word16At p 0).extractLsb' 8 8 = byteAt p 0 := word_high _ _
    rw [zero, version] at high
    cases high
  have before : ipHeaderWords p 0 = [word16At p 0, word16At p 2, word16At p 4, word16At p 6, word16At p 8, word16At p 10,
      word16At p 12, word16At p 14, word16At p 16, word16At p 18] := rfl
  rw [before, onesSum_full (List.mem_cons_self ..) first] at right
  rw [rewriteIp_words long, onesSum_full (List.mem_cons_self ..) first]
  have balance := adjustWords_balance (word16At p 10) ((word16At p 8, ttlWord p) :: addressWords p t)
  rw [addressWords_eq] at balance
  simp only [Nat.ModEq, ipSum, addressWords_eq, List.map_cons, List.map_nil, List.sum_cons, List.sum_nil] at balance right ⊢
  omega

end header

/-! ## The transport header (R18, R22) -/

/-- A packet with two overwrites, of which the second lies behind the first or before it. -/
def twice (q : List Byte) (a : Nat) (x : List Byte) (b : Nat) (y : List Byte) : List Byte := overwrite (overwrite q a x) b y

section transport

variable {q x y : List Byte} {a b : Nat} (hx : a + x.length ≤ q.length) (hy : b + y.length ≤ q.length)
include hx hy

theorem twice_length : (twice q a x b y).length = q.length := by
  unfold twice
  rw [overwrite_length (by rw [overwrite_length hx]; exact hy), overwrite_length hx]

theorem twice_outside {i : Nat} (first : i < a ∨ a + x.length ≤ i) (second : i < b ∨ b + y.length ≤ i) :
    byteAt (twice q a x b y) i = byteAt q i := by
  unfold twice
  rw [byteAt_overwrite_outside (by rw [overwrite_length hx]; exact hy) second, byteAt_overwrite_outside hx first]

/-- A word of the first overwrite, apart from the second. -/
theorem twice_first {i : Nat} (inside : i + 2 ≤ x.length) (apart : a + i + 2 ≤ b ∨ b + y.length ≤ a + i) :
    word16At (twice q a x b y) (a + i) = word16At x i := by
  unfold twice
  rw [word16At_overwrite_outside (by rw [overwrite_length hx]; exact hy) apart, word16At_overwrite_inside hx inside]

theorem twice_second {i : Nat} (inside : i + 2 ≤ y.length) : word16At (twice q a x b y) (b + i) = word16At y i := by
  unfold twice
  rw [word16At_overwrite_inside (by rw [overwrite_length hx]; exact hy) inside]

end transport

/-- Two overwrites behind the rewritten IPv4 header leave it, and every other byte of the packet. -/
theorem twice_stands (long : 20 ≤ p.length) (t : Translation) {x y : List Byte} {a b : Nat} (ha : 20 ≤ a) (hb : 20 ≤ b)
    (hx : a + x.length ≤ p.length) (hy : b + y.length ≤ p.length) :
    ((twice (rewriteIp p t) a x b y).length = p.length ∧
      ∀ i < 20, byteAt (twice (rewriteIp p t) a x b y) i = byteAt (rewriteIp p t) i) ∧
    ∀ i, 20 ≤ i → (i < a ∨ a + x.length ≤ i) → (i < b ∨ b + y.length ≤ i) →
      byteAt (twice (rewriteIp p t) a x b y) i = byteAt p i := by
  rw [← rewriteIp_length long t] at hx hy
  refine ⟨⟨(twice_length hx hy).trans (rewriteIp_length long t), fun i low => ?_⟩, fun i high first second => ?_⟩
  · exact twice_outside hx hy (.inl (by omega)) (.inl (by omega))
  · exact (twice_outside hx hy first second).trans (rewriteIp_outside long t (.inr high))

/-- The two ports as they are written. -/
theorem ports_words (a b : Word16) : word16At (bytes16 a ++ bytes16 b) 0 = a ∧ word16At (bytes16 a ++ bytes16 b) 2 = b :=
  ⟨join16 a, join16 b⟩

theorem word16At_bytes (a : Word16) : word16At (bytes16 a) 0 = a := join16 a

/-- TCP and UDP alike: the ports at byte 20, a checksum somewhere behind them, and nothing else. -/
theorem twice_ports (long : 20 ≤ p.length) (t : Translation) {c : Nat} (hc : 24 ≤ c) (room : c + 2 ≤ p.length) (v : Word16) :
    let w := twice (rewriteIp p t) 20 (bytes16 t.srcPort ++ bytes16 t.dstPort) c (bytes16 v)
    (w.length = p.length ∧ ∀ i < 20, byteAt w i = byteAt (rewriteIp p t) i) ∧
      (word16At w 20 = t.srcPort ∧ word16At w 22 = t.dstPort) ∧ word16At w c = v ∧
      ∀ i, 24 ≤ i → i ≠ c → i ≠ c + 1 → byteAt w i = byteAt p i := by
  have hx : 20 + (bytes16 t.srcPort ++ bytes16 t.dstPort).length ≤ p.length := show 24 ≤ p.length by omega
  have hy : c + (bytes16 v).length ≤ p.length := room
  obtain ⟨stands, others⟩ := twice_stands long t (by omega) (by omega) hx hy
  obtain ⟨src, dst⟩ := ports_words t.srcPort t.dstPort
  rw [← rewriteIp_length long t] at hx hy
  refine ⟨stands, ⟨?_, ?_⟩, ?_, fun i high first second => others i (by omega) (.inr high) ?_⟩
  · exact (twice_first hx hy (i := 0) (show 2 ≤ 4 by omega) (.inl (by omega))).trans src
  · exact (twice_first hx hy (i := 2) (show 4 ≤ 4 by omega) (.inl (by omega))).trans dst
  · exact (twice_second hx hy (i := 0) (le_refl 2)).trans (word16At_bytes v)
  · show i < c ∨ c + 2 ≤ i
    omega

/-- ICMP: the identifier at byte 24, the checksum at byte 22. -/
theorem twice_identifier (long : 28 ≤ p.length) (t : Translation) (v : Word16) :
    let w := twice (rewriteIp p t) 24 (bytes16 t.srcPort) 22 (bytes16 v)
    (w.length = p.length ∧ ∀ i < 20, byteAt w i = byteAt (rewriteIp p t) i) ∧
      word16At w 24 = t.srcPort ∧ word16At w 22 = v ∧
      ∀ i, 20 ≤ i → i < 22 ∨ 26 ≤ i → byteAt w i = byteAt p i := by
  have hx : 24 + (bytes16 t.srcPort).length ≤ p.length := show 26 ≤ p.length by omega
  have hy : 22 + (bytes16 v).length ≤ p.length := show 24 ≤ p.length by omega
  have header : 20 ≤ p.length := by omega
  obtain ⟨stands, others⟩ := twice_stands header t (by omega) (by omega) hx hy
  rw [← rewriteIp_length header t] at hx hy
  refine ⟨stands, ?_, ?_, fun i high apart => others i high ?_ ?_⟩
  · exact (twice_first hx hy (i := 0) (le_refl 2) (.inr (le_refl 24))).trans (word16At_bytes _)
  · exact (twice_second hx hy (i := 0) (le_refl 2)).trans (word16At_bytes v)
  · show i < 24 ∨ 26 ≤ i
    omega
  · show i < 22 ∨ 24 ≤ i
    omega

theorem rewritePacket_tcp (tcp : byteAt p 9 = 6#8) : rewritePacket p t = twice (rewriteIp p t) 20
    (bytes16 t.srcPort ++ bytes16 t.dstPort) 36 (bytes16 (adjustWords (word16At p 36) (addressWords p t ++ portWords p t))) :=
  if_pos tcp

theorem rewritePacket_udp (udp : byteAt p 9 = 17#8) : rewritePacket p t = twice (rewriteIp p t) 20
    (bytes16 t.srcPort ++ bytes16 t.dstPort) 26 (bytes16 (udpChecksum (word16At p 26) (addressWords p t ++ portWords p t))) :=
  (if_neg (by rw [udp]; decide)).trans (if_pos udp)

theorem rewritePacket_icmp (icmp : byteAt p 9 = 1#8) : rewritePacket p t = twice (rewriteIp p t) 24 (bytes16 t.srcPort) 22
    (bytes16 (adjustWords (word16At p 22) [(word16At p 24, t.srcPort)])) :=
  (if_neg (by rw [icmp]; decide)).trans ((if_neg (by rw [icmp]; decide)).trans (if_pos icmp))

theorem rewritePacket_other (tcp : byteAt p 9 ≠ 6#8) (udp : byteAt p 9 ≠ 17#8) (icmp : byteAt p 9 ≠ 1#8) :
    rewritePacket p t = rewriteIp p t := (if_neg tcp).trans ((if_neg udp).trans (if_neg icmp))

/-- A UDP checksum by R20 and R22: that no word changes shows as the checksum that stands. -/
theorem udpChecksum_eq (hc : Word16) (ws : List (Word16 × Word16)) : udpChecksum hc ws =
    if hc = 0#16 then 0#16 else if adjustWords hc ws = 0#16 then 0xFFFF#16 else adjustWords hc ws := by
  unfold udpChecksum
  split
  · rfl
  · next given =>
    split
    · next same =>
      have stands : adjustWords hc ws = hc := by
        rw [adjustWords_eq, if_pos]
        simpa [List.filter_eq_nil_iff] using same
      rw [stands, if_neg given]
    · rfl

/-! ## The link layer (R5, R17) -/

/-- The header read with its offset. -/
theorem readHeader_eq (v : Nat) (f : Frame) :
    (readHeader v f).off = (if word16At f 12 = 0x8100#16 then 18 else 14) ∧
    (readHeader v f).etype = word16At f ((if word16At f 12 = 0x8100#16 then 18 else 14) - 2) ∧
    (readHeader v f).prio = (if word16At f 12 = 0x8100#16 then (word16At f 14).extractLsb' 13 3 else 0#3) := by
  unfold readHeader
  split <;> exact ⟨rfl, rfl, rfl⟩

/-- The key whose addresses and ports a frame of a direction takes, reversed (R17, R18). -/
def keyOut (b : Body) : Dir → Key
  | .orig => b.replyKey | .reply => b.origKey

theorem translation_eq (b : Body) (d : Dir) : translation b d =
    Translation.mk (keyOut b d).dstAddr (keyOut b d).dstPort (keyOut b d).srcAddr (keyOut b d).srcPort := by cases d <;> rfl

theorem outZone_eq (b : Body) (d : Dir) : outZone b d = (keyOut b d).zone.toNat := by cases d <;> rfl

/-- The frame that leaves, with the tag's own bit named. -/
theorem rewriteFrame_eq (cfg : ConfigRec) (zs : Vector Zone 8) (b : Body) (d : Dir) (f : Frame) : rewriteFrame cfg zs b d f =
    bytes48 (nextHop b d) ++ bytes48 (zoneAt zs (outZone b d)).mac ++
      (if (zoneAt zs (outZone b d)).vlan = cfg.defaultVlan then []
        else [0x81#8, 0x00#8] ++ bytes16 ((readHeader cfg.defaultVlan f).prio ++
          BitVec.ofBool (Config.rewriteTagBit (readHeader cfg.defaultVlan f).tagBit) ++
          BitVec.ofNat 12 (zoneAt zs (outZone b d)).vlan)) ++
      bytes16 (readHeader cfg.defaultVlan f).etype ++
      rewritePacket (f.drop (readHeader cfg.defaultVlan f).off) (translation b d) := by
  unfold rewriteFrame
  simp only
  split
  · simp only [etherFrame, List.append_nil]
  · simp only [taggedFrame, tagControl, List.append_assoc]

end Sys2Proof.Machine

namespace Sys2Proof.Proofs

open Sys2Proof.Machine Sys2Proof.Safety

/-- Settles O22: the link layer is written out; in the IPv4 header the adjusted sum balances the words that change, modulo 65,535;
behind it each protocol has two overwrites that do not meet. -/
theorem rewrittenHeaderKeepsItsChecksum : Obligations.RewrittenHeaderKeepsItsChecksum := by
  constructor
  · intro cfg zs b d f tagged off prio k z t
    refine ⟨Config.rewriteTagBit (readHeader cfg.defaultVlan f).tagBit, ?_⟩
    obtain ⟨hoff, htype, hprio⟩ := readHeader_eq cfg.defaultVlan f
    rw [rewriteFrame_eq, hoff, htype, hprio, translation_eq, outZone_eq]
    cases d <;> rfl
  · intro p t long w
    have inside := rewriteIp_length long t
    refine ⟨fun version ttl right => ?_, ?_⟩
    · obtain ⟨lowered, proto⟩ := rewriteIp_ttl long t (by omega)
      obtain ⟨src, dst⟩ := rewriteIp_addresses long t
      exact ⟨rewriteIp_checksum long t version right, lowered, proto, src, dst, fun i o => rewriteIp_outside long t o, inside⟩
    · intro proto addresses ports adjusted headerStands portsReplaced
      have words : addressWords p t ++ portWords p t = addresses ++ ports := by rw [addressWords_eq]; rfl
      have adjusts (hc : Word16) (ws : List (Word16 × Word16)) : adjustWords hc ws = adjusted hc ws := adjustWords_eq hc ws
      refine ⟨fun tcp room => ?_, fun udp room => ?_, fun icmp room => ?_, rewritePacket_other⟩
      · have packet : w = _ := rewritePacket_tcp tcp
        simp only [headerStands, portsReplaced, packet, ← words, ← adjusts]
        exact twice_ports long t (by omega) (by omega) _
      · have packet : w = _ := rewritePacket_udp udp
        simp only [headerStands, portsReplaced, packet, ← words, ← adjusts, ← udpChecksum_eq]
        exact twice_ports long t (by omega) (by omega) _
      · have packet : w = _ := rewritePacket_icmp icmp
        simp only [headerStands, packet, ← adjusts]
        exact twice_identifier room t _

end Sys2Proof.Proofs
end

section
/-! SUPPORT. The data path of an OPEN stream: what a change sends again, and the obligation about the suspensions. -/

-- One proof at a time: proofs that wait for earlier checks would each take a thread.
set_option Elab.async false

namespace Sys2Proof.Machine

open Sys2Proof.Safety

variable {s : State}

/-! ## Frames sent again on a path with room (R98) -/

/-- Frames handed to the S-port, which has room for them all. -/
theorem resend_primary (l : List DataFrame) (s : State) (room : s.prt.sQueue.length + l.length ≤ 80) :
    l.foldl (fun s d => sendMirror .primary (dataBytes d) s) s =
      { s with prt := { s.prt with sQueue := s.prt.sQueue ++ l.map fun d => mirrorFrame .primary (dataBytes d) s } } := by
  induction l generalizing s with
  | nil => simp
  | cons d l ih =>
    rw [List.length_cons] at room
    have handed : sendMirror .primary (dataBytes d) s = { s with prt := { s.prt with
        sQueue := s.prt.sQueue ++ [mirrorFrame .primary (dataBytes d) s] } } := handToS_room (by omega)
    have more := ih { s with prt := { s.prt with sQueue := s.prt.sQueue ++ [mirrorFrame .primary (dataBytes d) s] } }
      (by simp only [List.length_append, List.length_singleton]; omega)
    rw [List.foldl_cons, handed, more]
    simp only [List.map_cons, List.append_assoc, List.singleton_append]
    rfl

/-- Frames handed to the W-port, which has room for them all. -/
theorem resend_secondary (l : List DataFrame) (s : State) (tunnel : s.cfg.tunnelEnable = true)
    (room : s.prt.wQueue.length + l.length ≤ 128) :
    l.foldl (fun s d => sendMirror .secondary (dataBytes d) s) s =
      { s with prt := { s.prt with wQueue := s.prt.wQueue ++ l.map fun d => mirrorFrame .secondary (dataBytes d) s } } := by
  induction l generalizing s with
  | nil => simp
  | cons d l ih =>
    rw [List.length_cons] at room
    have handed : sendMirror .secondary (dataBytes d) s = { s with prt := { s.prt with
        wQueue := s.prt.wQueue ++ [mirrorFrame .secondary (dataBytes d) s] } } := (if_pos tunnel).trans (handToW_room (by omega))
    have more := ih { s with prt := { s.prt with wQueue := s.prt.wQueue ++ [mirrorFrame .secondary (dataBytes d) s] } } tunnel
      (by simp only [List.length_append, List.length_singleton]; omega)
    rw [List.foldl_cons, handed, more]
    simp only [List.map_cons, List.append_assoc, List.singleton_append]
    rfl

theorem retransmitOn_some (p : PathId) (s : State) : retransmitOn (some p) s =
    bumpBy .dataResent s.mir.replay.length (s.mir.replay.foldl (fun s d => sendMirror p (dataBytes d) s) s) := rfl

/-! ## The rule of R98 for an OPEN stream -/

theorem choosePath_opened (opened : s.mir.stream = .opened) : choosePath s =
    if s.pai.primary.up = true ∧ s.mir.suspendedPrimary = false then some .primary
    else if s.cfg.tunnelEnable = true ∧ s.pai.secondary.up = true ∧ s.mir.suspendedSecondary = false then some .secondary
    else none := by
  unfold choosePath
  simp only [opened, true_and, Bool.not_eq_true]

/-- The tunnel is chosen only while it is enabled. -/
theorem choosePath_tunnel (h : choosePath s = some .secondary) : s.cfg.tunnelEnable = true := by
  unfold choosePath at h
  split at h
  · cases h
  · split at h
    · next c => exact c.2.1
    · cases h

theorem rechoose_same (same : choosePath s = s.mir.dataPath) : rechoose s = s := if_pos same

/-- The transmitter on another path, before its frames are sent again. -/
def onPath (c : Option PathId) (s : State) : State :=
  { s with mir := { s.mir with dataPath := c, replayCount := 0, gapLatch := none } }

/-- A data-path change of an OPEN stream. -/
theorem rechoose_changed (opened : s.mir.stream = .opened) (other : choosePath s ≠ s.mir.dataPath) :
    rechoose s = raise .path (restartReplayTimer (retransmitOn (choosePath s) (onPath (choosePath s) s))) :=
  (if_neg other).trans (if_neg (by rw [opened]; exact nofun))

/-! ## Bad FCS at the threshold (R99) -/

theorem countFcs_threshold (opened : s.mir.stream = .opened) (reached : min (s.mir.fcsCount + 1) 65535 = s.cfg.fcsThreshold) :
    countFcs s =
      if s.mir.suspendedPrimary then
        { s with mir := { s.mir with fcsCount := s.cfg.fcsThreshold, revertElapsed := 0 } }
      else rechoose (report .pai1 (ErrInfo.ofPlace 3)
        { s with mir := { s.mir with fcsCount := s.cfg.fcsThreshold, suspendedPrimary := true, revertElapsed := 0 } }) := by
  unfold countFcs
  simp only [reached]
  exact if_pos ⟨opened, trivial⟩

/-! ## The revert timer (R100) -/

theorem revertRuns_iff (s : State) : revertRuns s = true ↔
    s.mir.suspendedPrimary = true ∧ s.pai.primary.up = true ∧ s.cfg.revertPeriod ≠ 0 := by
  simp [revertRuns, and_assoc]

theorem revertDue_iff (s : State) : revertDue s = true ↔ (s.mir.suspendedPrimary = true ∧ s.pai.primary.up = true ∧
    s.cfg.revertPeriod ≠ 0) ∧ s.cfg.revertPeriod * 1000 ≤ s.mir.revertElapsed := by
  rw [← revertRuns_iff]
  simp [revertDue]

end Sys2Proof.Machine

namespace Sys2Proof.Proofs

open Sys2Proof.Machine Sys2Proof.Safety

/-- Settles O37: a change is to no path, to the S-port or to the tunnel; the timer, the request and the threshold each end a
suspension or begin one before the path is chosen anew. -/
theorem suspensionsMoveTheDataPath : Obligations.SuspensionsMoveTheDataPath := by
  intro s
  refine ⟨?_, ⟨fun suspended up period => ⟨fun running elapsed => ?_, fun early => ?_⟩, fun r rest commanded =>
    ⟨fun outside => ?_, fun detached => ?_⟩⟩, fun f bad opened reached => ?_⟩
  · intro opened c n m
    have chosen : choosePath s = c := choosePath_opened opened
    refine ⟨fun same => rechoose_same (chosen.trans same), fun other => ?_⟩
    have changed := rechoose_changed opened (chosen ▸ other)
    rw [changed, chosen]
    refine ⟨fun none => ?_, fun primary room => ?_, fun secondary room => ?_⟩
    · simp only [m, none]
      rfl
    · have again := resend_primary s.mir.replay (onPath c s) room
      simp only [m, primary] at again ⊢
      rw [retransmitOn_some, show (onPath (some PathId.primary) s).mir.replay = s.mir.replay from rfl, again]
      rfl
    · have tunnel : s.cfg.tunnelEnable = true := choosePath_tunnel (chosen.trans secondary)
      have again := resend_secondary s.mir.replay (onPath c s) tunnel room
      simp only [m, secondary] at again ⊢
      rw [retransmitOn_some, show (onPath (some PathId.secondary) s).mir.replay = s.mir.replay from rfl, again]
      rfl
  · have due := (revertDue_iff s).2 ⟨⟨suspended, up, period⟩, elapsed⟩
    exact ⟨_, congrArg Host.Outcome.next (atTick_acts running due revertExpired), event_noticed revertExpired s⟩
  · refine congrArg Host.Outcome.next (atTick_rests (.inr (Bool.eq_false_iff.2 fun due => ?_)) revertExpired)
    exact absurd ((revertDue_iff s).1 due).2 (by omega)
  · intro s1 s2
    exact ⟨_, rfl, commanded_replied commanded rfl answerResumePath (if_neg outside)⟩
  · exact ⟨_, rfl, commanded_replied commanded rfl answerResumePath (if_pos detached)⟩
  · have counted : receive .s f takeS s = countFcs (bump .sFcs s) := receive_badFcs bad .s takeS s
    have threshold := countFcs_threshold (s := bump .sFcs s) opened reached
    refine ⟨fun free => ⟨_, rfl, event_becomes (counted.trans (threshold.trans (if_neg ?_)))⟩, fun suspended => ?_⟩
    · show ¬ s.mir.suspendedPrimary = true
      rw [free]; decide
    · exact congrArg Host.Outcome.next (event_is (counted.trans (threshold.trans (if_pos suspended))) rfl)

end Sys2Proof.Proofs
end

section
/-! SUPPORT. The timers that send a frame: the hello on both paths, a round of announcements, the bytes of a mirror frame and of an
announcement; and the obligation about them. -/

-- One proof at a time: proofs that wait for earlier checks would each take a thread.
set_option Elab.async false

namespace Sys2Proof.Machine

open Sys2Proof.Safety

variable {s : State}

/-- What has expired is taken as one event while the clock is RUNNING, and ends as its effect left it after at most one notice. -/
theorem atTick_noticed {d : State → Bool} {f : State → State} {u : State} (running : s.tim.running = true) (due : d s = true)
    (e : f s = u) : Noticed u (atTick d f s) := by
  rw [atTick_acts running due]
  exact event_becomes e

/-! ## Hellos (R122, R123) -/

/-- A frame handed to a port changes neither the configuration nor the peer's address. -/
theorem handToPort_cfg (port : Port) (f : Frame) (s : State) :
    (handToPort port f s).cfg = s.cfg ∧ (handToPort port f s).prt.peerMac = s.prt.peerMac := by
  rcases handToPort_cases port f s with ⟨_, e⟩ | ⟨_, e⟩
  · rw [e]; cases port <;> exact ⟨rfl, rfl⟩
  · rw [e]; exact ⟨rfl, rfl⟩

theorem handToPort_pai (port : Port) (f : Frame) (s : State) : (handToPort port f s).pai = s.pai :=
  handToPort_touches port f s .pai (by decide)

/-- One mirror frame on both paths: the S-port first, then the tunnel while it is enabled. -/
def onBothPaths (b : List Byte) (s : State) : State :=
  if s.cfg.tunnelEnable = true then handToPort .w (mirrorFrame .secondary b s) (handToPort .s (mirrorFrame .primary b s) s)
  else handToPort .s (mirrorFrame .primary b s) s

theorem sendMirror_both (b : List Byte) (s : State) : sendMirror .secondary b (sendMirror .primary b s) = onBothPaths b s := by
  obtain ⟨cfg, peer⟩ := handToPort_cfg .s (mirrorFrame .primary b s) s
  show (if (handToPort .s (mirrorFrame .primary b s) s).cfg.tunnelEnable = true then handToPort .w (mirrorFrame .secondary b
    (handToPort .s (mirrorFrame .primary b s) s)) (handToPort .s (mirrorFrame .primary b s) s)
    else handToPort .s (mirrorFrame .primary b s) s) = _
  rw [cfg, mirrorFrame_eq .secondary b cfg peer]
  rfl

theorem onBothPaths_keeps (b : List Byte) (s : State) :
    (onBothPaths b s).pai = s.pai ∧ (onBothPaths b s).cfg = s.cfg := by
  unfold onBothPaths
  split
  · rw [handToPort_pai, handToPort_pai, (handToPort_cfg ..).1, (handToPort_cfg ..).1]
    exact ⟨rfl, rfl⟩
  · exact ⟨handToPort_pai _ _ s, (handToPort_cfg _ _ s).1⟩

theorem sendHello_outside (outside : s.pai.role ≠ .detached) : sendHello s = { onBothPaths (helloBytes (buildHello s)) s with
    pai := { s.pai with helloTimer := .running s.cfg.helloInterval } } := by
  unfold sendHello
  rw [if_neg outside]
  obtain ⟨pai, cfg⟩ := onBothPaths_keeps (helloBytes (buildHello s)) s
  simp only [sendMirror_both, pai, cfg]

/-! ## Announcements (R149, R150) -/

/-- Announcements handed over leave the configuration that they are built from. -/
theorem foldl_announcements (cfg : ConfigRec) (l : List Zone) (s : State) (h : s.cfg = cfg) : l.foldl sendAnnouncement s =
    l.foldl (fun u z => bump .announceSent (handToPort .w (announcement cfg z) u)) s := by
  induction l generalizing s with
  | nil => rfl
  | cons z l ih =>
    have head : sendAnnouncement s z = bump .announceSent (handToPort .w (announcement cfg z) s) := by
      unfold sendAnnouncement
      rw [h]
    rw [List.foldl_cons, List.foldl_cons, head]
    exact ih _ ((handToPort_cfg .w _ s).1.trans h)

theorem sendRound_tko (s : State) : (sendRound s).tko = s.tko :=
  (sendRound_steady s).tko

/-- The next round of a burst with n rounds left. -/
theorem nextRound_running {n : Nat} {timer : Timer} (burst : s.tko.burst = .running n timer) :
    nextRound s = { sendRound s with tko := { s.tko with
      burst := if n ≤ 1 then .idle else .running (n - 1) (.running s.cfg.announceSpacing) } } := by
  have after : burstAfter (s.tko.burst.rounds - 1) s.cfg.announceSpacing =
      if n ≤ 1 then .idle else .running (n - 1) (.running s.cfg.announceSpacing) := by
    rw [burst]
    unfold burstAfter Burst.rounds
    exact if_congr (show n - 1 = 0 ↔ n ≤ 1 by omega) rfl rfl
  unfold nextRound
  simp only [after, sendRound_tko]

theorem spacingDue_running {n : Nat} (burst : s.tko.burst = .running n (.running 0)) : spacingDue s = true := by
  unfold spacingDue
  rw [burst]
  rfl

end Sys2Proof.Machine

namespace Sys2Proof.Proofs

open Sys2Proof.Machine Sys2Proof.Safety

/-- Settles O42: each timer is due and its event acts; the frames are their parts written out, with the free bit of a tag named. -/
theorem timersThatSendAFrame : Obligations.TimersThatSendAFrame := by
  refine ⟨fun s running => ⟨fun due => ?_, fun due outside => ?_, fun n due => ?_⟩, ?_, ?_⟩
  · exact ⟨_, rfl, atTick_noticed running (due_running _ due) rfl⟩
  · intro hello primary both
    have built : buildHello s = hello := rfl
    exact ⟨_, rfl, atTick_noticed running (due_running _ due) ((sendHello_outside outside).trans (by rw [built]; rfl))⟩
  · intro round
    have rounds : sendRound s = round := foldl_announcements s.cfg (announcingZones s.zones) s rfl
    exact ⟨_, rfl, atTick_noticed running (spacingDue_running due) ((nextRound_running due).trans (by rw [rounds]))⟩
  · exact ⟨Config.tunnelTagBit, fun s m => ⟨rfl, rfl, rfl, rfl⟩⟩
  · refine ⟨Config.announceTagBit, fun cfg z => ?_⟩
    intro tag whole
    unfold announcement
    have built : (if z.vlan = cfg.defaultVlan then etherFrame broadcastMac z.mac 0x0806#16 (announcementArp z)
        else taggedFrame broadcastMac z.mac 0#3 Config.announceTagBit z.vlan 0x0806#16 (announcementArp z)) = whole := by
      simp only [whole, tag]
      split <;> rfl
    rw [built]
    rfl

end Sys2Proof.Proofs
end

section
/-! SUPPORT. WRITEs of the tables: the entries of a payload, their application in order, the entry that stands at each index; and the
obligation about them. -/

-- One proof at a time: proofs that wait for earlier checks would each take a thread.
set_option Elab.async false

namespace Sys2Proof.Machine

open Sys2Proof.Safety

variable {s : State} {r : Request} {o : Object}

/-! ## Entries of a payload (R187) -/

theorem byteAt_slice (p : List Byte) (off : Nat) {n i : Nat} (h : i < n) : byteAt (slice p off n) i = byteAt p (off + i) := by
  simp [byteAt, slice, List.getD_eq_getElem?_getD, h]

theorem word16At_slice (p : List Byte) (off : Nat) {n i : Nat} (h : i + 2 ≤ n) :
    word16At (slice p off n) i = word16At p (off + i) := by
  unfold word16At
  rw [byteAt_slice p off (by omega), byteAt_slice p off (by omega), Nat.add_assoc]

theorem word32At_slice (p : List Byte) (off : Nat) {n i : Nat} (h : i + 4 ≤ n) :
    word32At (slice p off n) i = word32At p (off + i) := by
  unfold word32At
  rw [word16At_slice p off (by omega), word16At_slice p off (by omega), Nat.add_assoc]

theorem entriesOf_eq (size n : Nat) (p : List Byte) :
    entriesOf size n p = (List.range n).map fun k => slice p (size * k) size := by
  induction n generalizing p with
  | zero => rfl
  | succ n ih =>
    rw [entriesOf, ih, List.range_succ_eq_map, List.map_cons, List.map_map]
    refine congrArg₂ List.cons rfl (List.map_congr_left fun k _ => ?_)
    simp only [slice, List.drop_drop, Function.comp, Nat.mul_succ, Nat.add_comm]

/-- Entry k of a WRITE. -/
def entryOf (o : Object) (r : Request) (k : Nat) : List Byte := slice r.payload (o.entrySize * k) o.entrySize

/-! ## A WRITE that meets checks 2 to 6 (R165, R168) -/

/-- The entries applied in their order. -/
def afterEntries (o : Object) (r : Request) (s : State) : State :=
  (List.range r.count).foldl (fun u k => applyEntry o u (entryPlace r k, entryOf o r k)) s

/-- A table's entries leave the configuration, so that the keepalive window is the one before. -/
theorem applyEntries_table (table : o ≠ .config) (r : Request) (s : State) :
    applyEntries o ((List.range r.count).map (entryPlace r)) ((List.range r.count).map (entryOf o r)) s = afterEntries o r s := by
  have cfg (u : State) (e : Nat × List Byte) : (applyEntry o u e).cfg = u.cfg := by
    cases o <;> first | rfl | exact absurd rfl table
  have zipped : (((List.range r.count).map (entryPlace r)).zip ((List.range r.count).map (entryOf o r))).foldl (applyEntry o) s =
      afterEntries o r s := by
    rw [List.zip_map', List.foldl_map]
    rfl
  unfold applyEntries
  rw [zipped]
  refine if_pos ?_
  exact congrArg ConfigRec.keepaliveWindow (foldl_same (f := fun u k => applyEntry o u (entryPlace r k, entryOf o r k))
    (g := State.cfg) (fun u k => cfg u _) _ s)

/-- Checks 7 and 8, and the answer of a WRITE that meets them (R165, R168). -/
theorem answerWrite_table (table : o ≠ .config) (writable : o.writable = true)
    (access : checkAccess false r = .ok (o, (List.range r.count).map (entryPlace r))) (s : State) : answerWrite r s =
      if writeLocked o ((List.range r.count).map (entryOf o r)) s then (s, Answer.only .locked)
      else if (List.range r.count).any fun k => entryBad o (entryOf o r k) then (s, Answer.only .badConfig)
      else (afterEntries o r s,
        { status := if (List.range r.count).any fun k => entryClamps o (entryOf o r k) then .clamped else .ok
          payload := (List.range r.count).flatMap fun k => entryBytes o (entryPlace r k) (afterEntries o r s) }) := by
  have entries : entriesOf o.entrySize r.count r.payload = (List.range r.count).map (entryOf o r) := entriesOf_eq _ _ _
  unfold answerWrite
  simp only [access, entries, writable, applyEntries_table table, List.any_map, List.flatMap_map, not_true_eq_false, if_false,
    Function.comp_def]

/-- A WRITE request of a table that meets checks 2 to 6. -/
structure TableWrite (o : Object) (s : State) (r : Request) (rest : List Frame) : Prop where
  waits   : Waiting s r rest
  command : r.command = 2
  allowed : fieldsAllowed r ∧ r.clear = false
  object  : Object.ofCode r.object = some o
  within  : placesWithin r o.indices
  room    : r.count * o.entrySize ≤ 1408 ∧ r.length = r.count * o.entrySize
  table   : o ≠ .config ∧ o.writable = true

section table

variable {rest : List Frame} (w : TableWrite o s r rest)
include w

theorem TableWrite.answer : answerWrite r (dequeue rest s) =
    if writeLocked o ((List.range r.count).map (entryOf o r)) (dequeue rest s) then (dequeue rest s, Answer.only .locked)
    else if (List.range r.count).any fun k => entryBad o (entryOf o r k) then (dequeue rest s, Answer.only .badConfig)
    else (afterEntries o r (dequeue rest s),
      { status := if (List.range r.count).any fun k => entryClamps o (entryOf o r k) then .clamped else .ok
        payload := (List.range r.count).flatMap fun k => entryBytes o (entryPlace r k) (afterEntries o r (dequeue rest s)) }) :=
  answerWrite_table w.table.1 w.table.2 ((checkAccess_write o r w.object).2.2.2 w.allowed w.within w.room) _

theorem TableWrite.locked (l : writeLocked o ((List.range r.count).map (entryOf o r)) (dequeue rest s) = true) :
    ∃ t, exec (writeCommand o) s = .next t ∧ Replied r (Answer.only .locked) (dequeue rest s) t :=
  write_replied w.waits w.command o w.object (w.answer.trans (if_pos l))

variable (unlocked : writeLocked o ((List.range r.count).map (entryOf o r)) (dequeue rest s) = false)
include unlocked

theorem TableWrite.bad (b : ¬ ∀ k < r.count, entryBad o (entryOf o r k) = false) :
    ∃ t, exec (writeCommand o) s = .next t ∧ Replied r (Answer.only .badConfig) (dequeue rest s) t := by
  have any : ((List.range r.count).any fun k => entryBad o (entryOf o r k)) = true := by simpa using b
  exact write_replied w.waits w.command o w.object (w.answer.trans
    ((if_neg (by rw [unlocked]; decide)).trans (if_pos any)))

theorem TableWrite.taken (good : ∀ k < r.count, entryBad o (entryOf o r k) = false) :
    ∃ t, exec (writeCommand o) s = .next t ∧ Replied r
      { status := if (List.range r.count).any fun k => entryClamps o (entryOf o r k) then .clamped else .ok
        payload := (List.range r.count).flatMap fun k => entryBytes o (entryPlace r k) (afterEntries o r (dequeue rest s)) }
      (afterEntries o r (dequeue rest s)) t := by
  have none : ¬ ((List.range r.count).any fun k => entryBad o (entryOf o r k)) = true := by simpa using good
  exact write_replied w.waits w.command o w.object (w.answer.trans
    ((if_neg (by rw [unlocked]; decide)).trans (if_neg none)))

end table

/-! ## The entry that stands (R166, R168) -/

/-- Writes to places one after another: at each place the last one that names it stands. -/
theorem foldl_setIfInBounds {α : Type} (place : Nat → Nat) (val : Nat → α) (v : Vector α 8) (l : List Nat) {i : Nat} (hi : i < 8) :
    (l.foldl (fun v k => v.setIfInBounds (place k) (val k)) v)[i] =
      ((l.reverse.find? fun k => place k == i).map val).getD v[i] := by
  induction l using List.reverseRecOn with
  | nil => rfl
  | append_singleton l k ih =>
    rw [List.foldl_append, List.reverse_append]
    simp only [List.foldl_cons, List.foldl_nil, List.reverse_singleton, List.singleton_append, List.find?_cons,
      Vector.getElem_setIfInBounds, ih]
    by_cases here : place k = i
    · simp [here]
    · have elsewhere : (place k == i) = false := beq_eq_false_iff_ne.2 here
      simp only [here, elsewhere, if_false]

/-- A table after a WRITE. -/
def tableAfter {α : Type} (r : Request) (val : Nat → α) (v : Vector α 8) : Vector α 8 :=
  Vector.ofFn fun i : Fin 8 => ((lastFor r i.val).map val).getD v[i]

theorem foldl_entries {α : Type} (r : Request) (val : Nat → α) (v : Vector α 8) :
    (List.range r.count).foldl (fun v k => v.setIfInBounds (entryPlace r k) (val k)) v = tableAfter r val v := by
  ext i hi
  rw [foldl_setIfInBounds (entryPlace r) val v _ hi, tableAfter, Vector.getElem_ofFn]
  rfl

theorem toList_getD {α : Type} (v : Vector α 8) (d : α) {i : Nat} (h : i < 8) : v.toList.getD i d = v[i] := by
  simp [List.getD_eq_getElem?_getD, h]

/-- A table after a WRITE, in the spec's words. -/
theorem tableAfter_eq {α : Type} (r : Request) (val : Nat → α) (v : Vector α 8) : tableAfter r val v =
    Vector.ofFn fun i : Fin 8 => match lastFor r i.val with | some k => val k | none => v[i] :=
  congrArg Vector.ofFn (funext fun i => by cases lastFor r i.val <;> rfl)

/-- An entry's own place has an entry that stands. -/
theorem lastFor_place {k : Nat} (h : k < r.count) : ∃ j, lastFor r (entryPlace r k) = some j := by
  refine Option.isSome_iff_exists.1 (List.find?_isSome.2 ⟨k, ?_, ?_⟩)
  · simpa using h
  · exact beq_self_eq_true _

/-- What is read back at the place of entry k. -/
theorem tableAfter_getD {α : Type} (val : Nat → α) (v : Vector α 8) (d : α) {k : Nat} (hk : k < r.count)
    (within : entryPlace r k < 8) :
    (tableAfter r val v).toList.getD (entryPlace r k) d = val ((lastFor r (entryPlace r k)).getD k) := by
  obtain ⟨j, found⟩ := lastFor_place hk
  rw [toList_getD _ d within, tableAfter, Vector.getElem_ofFn]
  simp only [found, Option.map_some, Option.getD_some]

/-! ## Each table's entries (R4, R153, R159, R170) -/

theorem afterEntries_zones (r : Request) (s : State) : afterEntries .zones r s =
    { s with zones := tableAfter r (fun k => (readZone (entryOf .zones r k)).clamped) s.zones } := by
  rw [← foldl_entries]
  unfold afterEntries
  generalize List.range r.count = l
  induction l generalizing s with
  | nil => rfl
  | cons k l ih => exact ih _

theorem afterEntries_timeouts (r : Request) (s : State) : afterEntries .timeouts r s =
    { s with timeouts := tableAfter r (fun k => clampTimeout (word32At (entryOf .timeouts r k) 0).toNat) s.timeouts } := by
  rw [← foldl_entries]
  unfold afterEntries
  generalize List.range r.count = l
  induction l generalizing s with
  | nil => rfl
  | cons k l ih => exact ih _

/-- The state after n + 1 entries, told for each n, gives the state after a WRITE. -/
theorem afterEntries_of_each {g : Nat → State} (one : applyEntry o s (entryPlace r 0, entryOf o r 0) = g 0)
    (more : ∀ n, applyEntry o (g n) (entryPlace r (n + 1), entryOf o r (n + 1)) = g (n + 1)) (nonempty : 1 ≤ r.count) :
    afterEntries o r s = g (r.count - 1) := by
  unfold afterEntries
  obtain ⟨n, hn⟩ : ∃ n, r.count = n + 1 := ⟨r.count - 1, by omega⟩
  rw [hn, Nat.add_sub_cancel]
  clear hn nonempty
  induction n with
  | zero => exact one
  | succ n ih => rw [List.range_succ, List.foldl_append, ih]; exact more n

/-- Each STATUS entry clears flags; the last one's mask stands. -/
theorem afterEntries_status (r : Request) (s : State) (nonempty : 1 ≤ r.count) : afterEntries .status r s =
    { s with flt := { s.flt with
    flags := (List.range (r.count - 1 + 1)).foldl (fun fs k => fs &&& ~~~(word16At (entryOf .status r k) 0).setWidth 9) s.flt.flags
    mask := (word16At (entryOf .status r (r.count - 1)) 2).setWidth 9 } } := by
  refine afterEntries_of_each (g := fun n => { s with flt := { s.flt with
    flags := (List.range (n + 1)).foldl (fun fs k => fs &&& ~~~(word16At (entryOf .status r k) 0).setWidth 9) s.flt.flags
    mask := (word16At (entryOf .status r n) 2).setWidth 9 } }) rfl (fun n => ?_) nonempty
  rw [List.range_succ (n := n + 1), List.foldl_append]
  rfl

/-- The last CLOCK entry's increment stands. -/
theorem afterEntries_clock (r : Request) (s : State) (nonempty : 1 ≤ r.count) : afterEntries .clock r s =
    { s with tim := { s.tim with increment := clampIncrement (word32At (entryOf .clock r (r.count - 1)) 8).toNat } } :=
  afterEntries_of_each (g := fun n => { s with tim := { s.tim with
    increment := clampIncrement (word32At (entryOf .clock r n) 8).toNat } })
    rfl (fun _ => rfl) nonempty

/-! ## Check 8 (R168, R170) -/

/-- No bit above the nine that are defined. -/
theorem masked_iff (w : Word16) : w &&& 0xFE00#16 = 0#16 ↔ w.toNat < 512 := by
  have low : (w &&& 0x01FF#16).toNat = w.toNat % 512 := Nat.and_two_pow_sub_one_eq_mod w.toNat 9
  have parts : w = (w &&& 0xFE00#16) ||| (w &&& 0x01FF#16) := by
    rw [← BitVec.and_or_distrib_left]
    exact (BitVec.and_allOnes).symm
  constructor
  · intro none
    rw [none, BitVec.zero_or] at parts
    rw [parts, low]
    omega
  · intro small
    have whole : w &&& 0x01FF#16 = w := BitVec.eq_of_toNat_eq (by omega)
    rw [← whole, BitVec.and_assoc]
    exact BitVec.and_zero

theorem statusBad_iff (p : List Byte) : entryBad .status p = false ↔ (word16At p 0).toNat < 512 ∧ (word16At p 2).toNat < 512 := by
  simp only [entryBad, Bool.or_eq_false_iff, bne_eq_false_iff_eq, masked_iff]

theorem zonesBad_iff (p : List Byte) : entryBad .zones p = false ↔
    ((readZone p).enabled = true → isUnicast (readZone p).mac = true) := by
  unfold entryBad
  simp only
  cases (readZone p).enabled <;> simp

theorem clockBad_iff (p : List Byte) : entryBad .clock p = false ↔ (byteAt p 0).toNat ≤ 1 := by
  simp [entryBad, runStateDefined]

/-- Two payloads that agree entry by entry. -/
theorem flatMap_entries {n : Nat} {f g : Nat → List Byte} (h : ∀ k < n, f k = g k) :
    (List.range n).flatMap f = (List.range n).flatMap g := by
  simp only [List.flatMap_def]
  exact congrArg List.flatten (List.map_congr_left fun k hk => h k (List.mem_range.1 hk))

end Sys2Proof.Machine

namespace Sys2Proof.Proofs

open Sys2Proof.Machine Sys2Proof.Safety

/-- Settles O56: checks 2 to 6 give the places; each table is a fold over its entries, of which the last at a place stands. -/
theorem tableWritesApplyTheirEntries : Obligations.TableWritesApplyTheirEntries := by
  intro s r rest waits command allowed clear s0 fits standing last
  have nonempty : 1 ≤ r.count := allowed.1
  have write {o : Object} (table : o ≠ .config ∧ o.writable = true) (f : fits o) : TableWrite o s r rest :=
    ⟨waits, command, ⟨allowed, clear⟩, f.1, f.2.1, f.2.2, table⟩
  have unlocked {o : Object} (rest : o ≠ .config ∧ o ≠ .zones) (es : List (List Byte)) : writeLocked o es s0 = false := by
    obtain ⟨config, zones⟩ := rest
    cases o <;> first | exact Bool.and_false _ | contradiction
  refine ⟨fun f => ?_, fun f => ?_, fun f => ?_, fun f => ?_⟩
  · intro asked stored good
    have w := write (by decide) f
    have judged : (∀ k < r.count, entryBad .zones (entryOf .zones r k) = false) ↔ good := forall₂_congr fun k _ => zonesBad_iff _
    have lock : writeLocked .zones ((List.range r.count).map (entryOf .zones r)) s0 = (s.pai.role != .detached) := Bool.and_true _
    refine ⟨fun outside => w.locked (lock.trans (bne_iff_ne.2 outside)), fun detached bad => ?_, fun detached ok => ?_⟩
    · exact w.bad (lock.trans (by rw [detached]; decide)) (mt judged.1 bad)
    · obtain ⟨t, row, replied⟩ := w.taken (lock.trans (by rw [detached]; decide)) (judged.2 ok)
      have payload : ((List.range r.count).flatMap fun k => entryBytes .zones (entryPlace r k) (afterEntries .zones r s0)) =
          (List.range r.count).flatMap fun k => zoneEntry (stored (standing k)) := by
        refine flatMap_entries fun k hk => congrArg zoneEntry ?_
        rw [afterEntries_zones]
        exact tableAfter_getD stored s.zones Zone.default hk (w.within.2 k hk)
      rw [payload, afterEntries_zones, tableAfter_eq] at replied
      exact ⟨t, row, replied⟩
  · intro asked stored
    have w := write (by decide) f
    have asks (k : Nat) : (word32At (entryOf .timeouts r k) 0).toNat = asked k :=
      congrArg BitVec.toNat (word32At_slice r.payload (4 * k) (le_refl 4))
    have values : (fun k => clampTimeout (word32At (entryOf .timeouts r k) 0).toNat) = stored :=
      funext fun k => congrArg clampTimeout (asks k)
    have clamps : (fun k => entryClamps .timeouts (entryOf .timeouts r k)) = fun k => stored k != asked k :=
      funext fun k => congrArg (fun n => clampTimeout n != n) (asks k)
    have after := afterEntries_timeouts r s0
    rw [values] at after
    obtain ⟨t, row, replied⟩ := w.taken (unlocked (by decide) _) fun _ _ => rfl
    have payload : ((List.range r.count).flatMap fun k => entryBytes .timeouts (entryPlace r k) (afterEntries .timeouts r s0)) =
        (List.range r.count).flatMap fun k => nat32 (stored (standing k)) := by
      refine flatMap_entries fun k hk => congrArg nat32 ?_
      rw [after]
      exact tableAfter_getD stored s.timeouts 0 hk (w.within.2 k hk)
    rw [payload, after, tableAfter_eq, clamps] at replied
    exact ⟨t, row, replied⟩
  · intro clears mask good t0
    have w := write (by decide) f
    have asks (k : Nat) : word16At (entryOf .status r k) 0 = clears k ∧ word16At (entryOf .status r k) 2 = mask k :=
      ⟨word16At_slice r.payload (8 * k) (show 0 + 2 ≤ 8 by omega), word16At_slice r.payload (8 * k) (show 2 + 2 ≤ 8 by omega)⟩
    have judged : (∀ k < r.count, entryBad .status (entryOf .status r k) = false) ↔ good :=
      forall₂_congr fun k _ => by rw [statusBad_iff, (asks k).1, (asks k).2]
    have after : afterEntries .status r s0 = t0 := by
      rw [afterEntries_status r s0 nonempty, Nat.sub_add_cancel nonempty]
      simp only [asks]
      rfl
    refine ⟨fun ok => ?_, fun bad => w.bad (unlocked (by decide) _) (mt judged.1 bad)⟩
    obtain ⟨t, row, replied⟩ := w.taken (unlocked (by decide) _) (judged.2 ok)
    have inside : ((List.range r.count).any fun k => entryClamps .status (entryOf .status r k)) = false :=
      List.any_eq_false.2 fun _ _ => Bool.false_ne_true
    rw [inside, after] at replied
    exact ⟨t, row, replied⟩
  · intro asked stored good t0
    have w := write (by decide) f
    have asks (k : Nat) : (word32At (entryOf .clock r k) 8).toNat = asked k :=
      congrArg BitVec.toNat (word32At_slice r.payload (16 * k) (show 8 + 4 ≤ 16 by omega))
    have flag (k : Nat) : byteAt (entryOf .clock r k) 0 = byteAt r.payload (16 * k) :=
      byteAt_slice r.payload (16 * k) (show 0 < 16 by omega)
    have judged : (∀ k < r.count, entryBad .clock (entryOf .clock r k) = false) ↔ good :=
      forall₂_congr fun k _ => by rw [clockBad_iff, flag]
    have clamps : (fun k => entryClamps .clock (entryOf .clock r k)) = fun k => stored k != asked k :=
      funext fun k => congrArg (fun n => clampIncrement n != n) (asks k)
    have after : afterEntries .clock r s0 = t0 := by
      rw [afterEntries_clock r s0 nonempty, asks]
      rfl
    refine ⟨fun ok => ?_, fun bad => w.bad (unlocked (by decide) _) (mt judged.1 bad)⟩
    obtain ⟨t, row, replied⟩ := w.taken (unlocked (by decide) _) (judged.2 ok)
    rw [clamps, after] at replied
    exact ⟨t, row, replied⟩

end Sys2Proof.Proofs
end

section
/-! SUPPORT. What a removal of a LIVE handle's session does, said once: `removeSession_removed` (R37, R38, R79). -/

-- One proof at a time: proofs that wait for earlier checks would each take a thread.
set_option Elab.async false

namespace Sys2Proof.Machine

open Sys2Proof.Safety

variable {s : State} {h : Nat}

/-! ## The held first frame (R79) -/

theorem discardHeld_held (held : isHeld s h = true) :
    discardHeld h s = bump .holdDropRemoved { s with hold := s.hold.filter fun e => e.handle != h } := if_pos held

theorem discardHeld_none (none : ¬ isHeld s h = true) : discardHeld h s = s := if_neg none

theorem discardHeld_hold (h : Nat) (s : State) : (discardHeld h s).hold = s.hold.filter fun e => e.handle != h := by
  by_cases held : isHeld s h = true
  · rw [discardHeld_held held]
    rfl
  · rw [discardHeld_none held]
    refine (List.filter_eq_self.2 fun e mem => bne_iff_ne.2 fun eq => ?_).symm
    exact held ((isHeld_iff s h).2 ⟨e, mem, eq⟩)

theorem discardHeld_flt (h : Nat) (s : State) :
    (discardHeld h s).flt = { s.flt with counters := (discardHeld h s).flt.counters } := by
  unfold discardHeld
  split <;> rfl

theorem counter_discardHeld (c : Ctr) (h : Nat) (s : State) : counter (discardHeld h s) c =
    if Ctr.holdDropRemoved.pos = c.pos ∧ isHeld s h = true then satAdd32 (counter s .holdDropRemoved) 1 else counter s c := by
  by_cases held : isHeld s h = true
  · rw [discardHeld_held held, counter_bump]
    simp only [held, and_true]
    rfl
  · rw [discardHeld_none held, if_neg fun both => held both.2]

/-! ## The fate of the handle (R38) -/

theorem becomesFree_iff (s : State) (h : Nat) (group : Bool) :
    becomesFree s.mir.stream (recordOf s h).pending group = true ↔ fateFree s h group := by
  simp [becomesFree, fateFree]

/-- The fate settled leaves all but the record, the free list and the dirty list. -/
theorem settleHandle_keeps (h : Nat) (r : Record) (q : RemovalReason) (group : Bool) (s : State) :
    let t := settleHandle h r q group s
    t.tbl.slots = s.tbl.slots ∧ t.tbl.liveCount = s.tbl.liveCount ∧ t.tbl.digestSum = s.tbl.digestSum ∧ t.hold = s.hold ∧
      t.flt = s.flt ∧ t.mir = { s.mir with dirty := t.mir.dirty } := by
  unfold settleHandle
  simp only
  repeat' split
  all_goals exact ⟨rfl, rfl, rfl, rfl, rfl, rfl⟩

theorem settleHandle_record (sorted : sparseSorted s.tbl.records = true) (h : Nat) (r : Record) (q : RemovalReason) (group : Bool)
    (k : Nat) : recordOf (settleHandle h r q group s) k =
      if k = h then
        if becomesFree s.mir.stream r.pending group = true then freedRecord (recordOf s h).epoch else retiredRecord r.epoch q
      else recordOf s k := by
  unfold settleHandle
  split
  · exact record_setRecord sorted h _ k
  · simp only
    split <;> exact record_setRecord sorted h _ k

theorem settleHandle_free (h : Nat) (r : Record) (q : RemovalReason) (group : Bool) (s : State) :
    freeHandles (settleHandle h r q group s).tbl.free =
      if becomesFree s.mir.stream r.pending group = true then freeHandles s.tbl.free ++ [h] else freeHandles s.tbl.free := by
  unfold settleHandle
  split
  · exact freeHandles_freePush _ _
  · simp only
    split <;> rfl

theorem settleHandle_dirty (h : Nat) (r : Record) (q : RemovalReason) (group : Bool) (s : State) :
    (settleHandle h r q group s).mir.dirty =
      if becomesFree s.mir.stream r.pending group = true then s.mir.dirty.filter (fun k => k != h)
      else if r.pending = .none then s.mir.dirty ++ [h] else s.mir.dirty := by
  unfold settleHandle
  split
  · rfl
  · simp only
    split <;> rfl

/-! ## The whole (R37) -/

/-- The state before the fate of the handle is settled: its session is out of the table, the removal is counted, and a held frame
is discarded. -/
def unlinked (h : Nat) (q : RemovalReason) (s : State) : State :=
  discardHeld h (bump (removalCounter q) { s with tbl := s.tbl.unplaced h })

theorem removeSession_live (live : (recordOf s h).handleState = .live) (q : RemovalReason) (bodyFailed : Bool) :
    removeSession h q bodyFailed s =
      settleHandle h (recordOf s h) q (bodyFailed || (recordOf s h).body.mirrored.isSome) (unlinked h q s) := if_pos live

theorem unlinked_keeps (h : Nat) (q : RemovalReason) (s : State) :
    (unlinked h q s).tbl = s.tbl.unplaced h ∧ (unlinked h q s).mir = s.mir :=
  ⟨discardHeld_touches h _ .tbl (by decide), discardHeld_touches h _ .mir (by decide)⟩

theorem slot_unplaced {t : Tbl} (sorted : sparseSorted t.slots = true) (h q : Nat) :
    (t.unplaced h).slot q = if q = (t.record h).slotOrig ∨ q = (t.record h).slotReply then none else t.slot q := by
  have both := slot_dropSlot (t := t.dropSlot (t.record h).slotOrig) (sparseDrop_sorted sorted _) (t.record h).slotReply q
  rw [slot_dropSlot sorted] at both
  refine both.trans ?_
  by_cases orig : q = (t.record h).slotOrig <;> simp [orig]

theorem counter_unlinked (c : Ctr) (h : Nat) (q : RemovalReason) (s : State) : counter (unlinked h q s) c =
    if Ctr.holdDropRemoved.pos = c.pos ∧ isHeld s h = true then satAdd32 (counter s .holdDropRemoved) 1
    else if (removalCounter q).pos = c.pos then satAdd32 (counter s (removalCounter q)) 1 else counter s c := by
  have other : ¬ (removalCounter q).pos = Ctr.holdDropRemoved.pos := by cases q <;> decide
  refine (counter_discardHeld _ _ _).trans ?_
  rw [counter_bump, counter_bump, if_neg other]
  rfl

/-- Everything a removal of a LIVE handle does (R37, R38). -/
theorem removeSession_removed (records : sparseSorted s.tbl.records = true) (slots : sparseSorted s.tbl.slots = true)
    (live : (recordOf s h).handleState = .live) (q : RemovalReason) (bodyFailed : Bool) :
    Removed h q (bodyFailed || (recordOf s h).body.mirrored.isSome) s (removeSession h q bodyFailed s) := by
  have blocks := removeSession_touches h q bodyFailed s
  rw [removeSession_live live] at blocks ⊢
  generalize (bodyFailed || (recordOf s h).body.mirrored.isSome) = group at blocks ⊢
  obtain ⟨tbl, mir⟩ := unlinked_keeps h q s
  have apart : Ctr.holdDropRemoved.pos ≠ (removalCounter q).pos := by cases q <;> decide
  have fate : becomesFree (unlinked h q s).mir.stream (recordOf s h).pending group = true ↔ fateFree s h group := by
    rw [mir]
    exact becomesFree_iff s h group
  have reads (k : Nat) : recordOf (unlinked h q s) k = recordOf s k := (congrArg (fun t : Tbl => t.record k) tbl).trans rfl
  have record (k : Nat) := settleHandle_record (s := unlinked h q s) (by rw [tbl]; exact records) h (recordOf s h) q group k
  have free := settleHandle_free h (recordOf s h) q group (unlinked h q s)
  have dirty := settleHandle_dirty h (recordOf s h) q group (unlinked h q s)
  obtain ⟨slotsKept, liveKept, sumKept, holdKept, fltKept, mirKept⟩ := settleHandle_keeps h (recordOf s h) q group (unlinked h q s)
  have counts (c : Ctr) : counter (settleHandle h (recordOf s h) q group (unlinked h q s)) c = counter (unlinked h q s) c :=
    congrArg (fun f : Flt => f.counters[c.pos]) fltKept
  simp only [fate, reads] at record free dirty
  rw [tbl] at slotsKept liveKept sumKept free
  rw [mir] at mirKept dirty
  exact {
    blocks := blocks.mono
    slots := fun p => (congrArg (sparseFind · p) slotsKept).trans (slot_unplaced slots h p)
    record := (record h).trans (if_pos rfl)
    others := fun k ne => (record k).trans (if_neg ne)
    free := free
    digest := ⟨liveKept, sumKept⟩
    hold := holdKept.trans (discardHeld_hold h _)
    dirty := dirty
    mir := mirKept
    count := by rw [counts, counter_unlinked, if_neg fun both => apart both.1, if_pos rfl]
    held := by
      rw [counts, counter_unlinked, if_neg apart.symm]
      simp only [true_and]
      rfl
    flt := by
      rw [fltKept]
      exact discardHeld_flt h _
    counts := fun c other none => by
      rw [counts, counter_unlinked, if_neg fun both => none both.1.symm, if_neg (Ne.symm other)] }

end Sys2Proof.Machine
end

section
/-! SUPPORT. The moves of a TCP session: the tracker's answer by the branch of R57 that a segment takes, the transition of each
state, and the obligations about the moves and about a refused segment. -/

-- One proof at a time: proofs that wait for earlier checks would each take a thread.
set_option Elab.async false

namespace Sys2Proof.Machine

open Sys2Proof.Safety

/-! ## Fields of a body -/

section fields

variable (b : Body) (d : Dir) (t : DirTracker) (g : Segment) (total : Nat) (now : Word32)

@[simp] theorem setDir_state : (b.setDir d t).state = b.state := by cases d <;> rfl
@[simp] theorem setDir_finOrder : (b.setDir d t).finOrder = b.finOrder := by cases d <;> rfl
@[simp] theorem setDir_dir : (b.setDir d t).dir d = t := by cases d <;> rfl
@[simp] theorem setDir_other : (b.setDir d t).dir d.other = b.dir d.other := by cases d <;> rfl

@[simp] theorem account_state : (account b d total now).state = b.state := by cases d <;> rfl
@[simp] theorem account_lastSeen : (account b d total now).lastSeen = now := by cases d <;> rfl
@[simp] theorem account_dirOrig : (account b d total now).dirOrig = b.dirOrig := by cases d <;> rfl
@[simp] theorem account_dirReply : (account b d total now).dirReply = b.dirReply := by cases d <;> rfl
@[simp] theorem account_dir (e : Dir) : (account b d total now).dir e = b.dir e := by cases d <;> cases e <;> rfl

theorem updateDir_finEnd (w : Word32) : (updateDir t g w).finEnd = t.finEnd := by
  unfold updateDir
  cases g.hasAck <;> rfl

/-- The body that a checked segment has taught, before its transition (R67). -/
def taught (b : Body) (d : Dir) (g : Segment) : Body := b.setDir d (updateDir (b.dir d) g (windowOf b d g))

@[simp] theorem taught_state : (taught b d g).state = b.state := setDir_state _ _ _
@[simp] theorem taught_finOrder : (taught b d g).finOrder = b.finOrder := setDir_finOrder _ _ _
@[simp] theorem taught_other : (taught b d g).dir d.other = b.dir d.other := setDir_other _ _ _
@[simp] theorem taught_finEnd : ((taught b d g).dir d).finEnd = (b.dir d).finEnd :=
  (congrArg DirTracker.finEnd (setDir_dir _ _ _)).trans (updateDir_finEnd _ _ _)

/-- The window-scale option leaves all of a tracker but its scale (R54). -/
theorem scaleDir_keeps : ∃ offered scale, (scaleDir t g).1 = { t with scaleOffered := offered, wscale := scale } := by
  unfold scaleDir
  split
  · exact ⟨_, _, rfl⟩
  · exact ⟨_, _, rfl⟩
  · split <;> exact ⟨_, _, rfl⟩

/-- The scaling decision leaves all of a tracker but its shift (R54). -/
theorem decideScaling_reply : ∃ scale, (decideScaling b).dirReply = { b.dirReply with wscale := scale } := by
  unfold decideScaling
  split <;> exact ⟨_, rfl⟩

end fields

/-! ## The branches of R57 -/

section judged

variable {b : Body} {d : Dir} {g : Segment} {tol : Nat}

theorem judgeTcp_rst (rst : g.hasRst = true) (passes : failedCheckRst b d g tol = none) (total : Nat) (now : Word32) :
    judgeTcp b d g tol total now = .accept (account { b with state := .linger } d total now) [] := by
  unfold judgeTcp
  rw [if_pos rst, passes]

/-- The SYN that reopens a lingering session fits no state. -/
theorem not_reopens (fit : fits b d g = true) : ¬ (b.state = .linger ∧ d = .orig ∧ g.hasSyn ∧ ¬ g.hasAck ∧ ¬ g.hasFin) := by
  rintro ⟨linger, -, syn, -⟩
  simp [fits, linger, syn] at fit

theorem judgeTcp_reopens (rst : g.hasRst = false) (linger : b.state = .linger) (orig : d = .orig) (syn : g.hasSyn = true)
    (ack : g.hasAck = false) (fin : g.hasFin = false) (total : Nat) (now : Word32) :
    judgeTcp b d g tol total now = .reopen := by
  unfold judgeTcp
  rw [if_neg (by rw [rst]; decide)]
  exact if_pos ⟨linger, orig, syn, by rw [ack]; decide, by rw [fin]; decide⟩

/-- A segment that fits no state, and does not reopen a session, is refused. -/
theorem judgeTcp_unfit (rst : g.hasRst = false)
    (stays : ¬ (b.state = .linger ∧ d = .orig ∧ g.hasSyn ∧ ¬ g.hasAck ∧ ¬ g.hasFin)) (unfit : fits b d g = false)
    (total : Nat) (now : Word32) : judgeTcp b d g tol total now = .refuse .trkRefState := by
  unfold judgeTcp
  rw [if_neg (by rw [rst]; decide), if_neg stays]
  exact if_pos (by rw [unfit]; decide)

/-- The first fitting segment of a direction is not checked. -/
theorem judgeTcp_seeds (rst : g.hasRst = false) (fit : fits b d g = true) (unseeded : (b.dir d).seeded = false) (total : Nat)
    (now : Word32) : judgeTcp b d g tol total now =
      .accept (account (transition (b.setDir d (seedDir (b.dir d) g (windowOf b d g))) d g).1 d total now)
        (transition (b.setDir d (seedDir (b.dir d) g (windowOf b d g))) d g).2 := by
  unfold judgeTcp
  rw [if_neg (by rw [rst]; decide), if_neg (not_reopens fit), if_neg (by rw [fit]; decide)]
  exact if_pos (by rw [unseeded]; decide)

/-- A fitting segment of a seeded direction that passes the checks is accepted; here its transition reads no options. -/
theorem judgeTcp_checked (rst : g.hasRst = false) (fit : fits b d g = true) (seeded : (b.dir d).seeded = true)
    (passes : failedCheck b d g tol = none) (notes : (transition (taught b d g) d g).2 = []) (total : Nat) (now : Word32) :
    judgeTcp b d g tol total now = .accept (account (transition (taught b d g) d g).1 d total now) [] := by
  unfold judgeTcp
  rw [if_neg (by rw [rst]; decide), if_neg (not_reopens fit), if_neg (by rw [fit]; decide)]
  refine (if_neg (by rw [seeded]; decide)).trans ?_
  rw [passes]
  exact congrArg (Verdict.accept _) notes

end judged

/-! ## The transitions (R58, R59, R61) -/

section transitions

variable {b : Body} {d : Dir} {g : Segment}

theorem finFromOpen_state (opened : b.state = .opened) :
    (finFromOpen b d g).state = if g.hasFin = true then .drainOne else .opened := by
  unfold finFromOpen
  split
  · exact setDir_state _ _ _
  · exact opened

/-- The SYN+ACK of a NEW session (R58). Of its direction's tracker only the scale moves. -/
theorem transition_new (new : b.state = .new) : (transition b .reply g).1.state = .halfOpen ∧
    ∃ offered scale, (transition b .reply g).1.dirReply = { b.dirReply with scaleOffered := offered, wscale := scale } := by
  have made : (transition b .reply g).1 =
      { decideScaling (b.setDir .reply (scaleDir b.dirReply g).1) with state := .halfOpen } := by
    unfold transition
    rw [new]
    rfl
  obtain ⟨offered, _, options⟩ := scaleDir_keeps b.dirReply g
  obtain ⟨scale, decided⟩ := decideScaling_reply (b.setDir .reply (scaleDir b.dirReply g).1)
  rw [made]
  refine ⟨rfl, offered, scale, decided.trans ?_⟩
  show ({ (scaleDir b.dirReply g).1 with wscale := scale } : DirTracker) = _
  rw [options]

/-- The ACK of a HALF_OPEN session (R59). -/
theorem transition_halfOpen (half : b.state = .halfOpen) (syn : g.hasSyn = false) :
    (transition b .orig g).1.state = (if g.hasFin = true then .drainOne else .opened) ∧ (transition b .orig g).2 = [] := by
  unfold transition
  rw [half]
  refine ⟨(congrArg Body.state (if_pos ⟨rfl, by rw [syn]; decide⟩)).trans (finFromOpen_state rfl), rfl⟩

/-- The second FIN, in DRAIN_ONE (R61). -/
theorem transition_drainOne (one : b.state = .drainOne) (order : b.finOrder = some d.other) :
    (transition b d g).1.state = (if g.hasFin = true then .drainBoth else .drainOne) ∧
      ((transition b d g).1.dir d).finEnd = (if g.hasFin = true then some g.finish else (b.dir d).finEnd) ∧
      (transition b d g).2 = [] := by
  unfold transition
  rw [one]
  by_cases fin : g.hasFin = true
  · simp [fin, order]
  · simp [fin, one]

/-- The last ACK of the drain, its end being the other direction's FIN (R61). -/
theorem transition_drainBoth {e : Word32} (both : b.state = .drainBoth) (other : (b.dir d.other).finEnd = some e) :
    (transition b d g).1.state =
        (if b.finOrder = some d ∧ g.hasAck = true ∧ seqNotBefore g.ack e = true then .linger else .drainBoth) ∧
      (transition b d g).2 = [] := by
  have ends : endsDrain b d g = true ↔ b.finOrder = some d ∧ g.hasAck = true ∧ seqNotBefore g.ack e = true := by
    simp [endsDrain, other, and_assoc]
  unfold transition
  rw [both]
  refine ⟨?_, rfl⟩
  simp only [ends]
  split
  · rfl
  · exact both

end transitions

/-! ## The frame of a segment that is not accepted (R62, R68) -/

section frames

variable {s : State} {g : Frame} {z h : Nat} {d : Dir}

theorem trackHit_refuses {c : Ctr} (j : judge (recordOf s h).body d g (headerOf s g).off (tolerance s) s.tim.seconds = .refuse c) :
    trackHit z h d g s = refuseFrame c z h g s := by
  unfold trackHit
  simp only [j]

theorem refuseFrame_exception (policy : s.cfg.oowPolicy = .exception) (c : Ctr) :
    refuseFrame c z h g s = sendException .outOfWindow (some z) (some h) g (bump c s) := by
  unfold refuseFrame
  simp only [bump_cfg, policy]

theorem refuseFrame_drop (policy : s.cfg.oowPolicy = .drop) (c : Ctr) : refuseFrame c z h g s = bump .trkDrop (bump c s) := by
  unfold refuseFrame
  simp only [bump_cfg, policy]

theorem trackHit_reopens (j : judge (recordOf s h).body d g (headerOf s g).off (tolerance s) s.tim.seconds = .reopen) :
    trackHit z h d g s = handToPort .p (exceptionFrame s.cfg.mgmtEthertype (headerOf s g) .reopen (some z) (some h) g)
      (removeSession h .reopen false s) := by
  have cfg : (removeSession h .reopen false s).cfg = s.cfg := removeSession_touches h .reopen false s .cfg (by decide)
  unfold trackHit
  simp only [j]
  unfold sendReopen headerOf
  rw [cfg]

end frames

end Sys2Proof.Machine

namespace Sys2Proof.Proofs

open Sys2Proof.Machine Sys2Proof.Safety

/-- Settles O20: each move is the transition of its state behind the branch of R57 that the segment takes; a segment that fits no
state is refused there; the SYN that reopens is a removal and a frame for the P-port. -/
theorem sessionStateMoves : Obligations.SessionStateMoves := by
  constructor
  · intro b d g tol total now refused
    refine ⟨?synAck, ?ack, ?secondFin, ?lastAck, ?rst, ?reopen, ?unfit⟩
    case synAck =>
      rintro new rfl unseeded syn ack fin rst
      have fit : fits b .reply g = true := by simp [fits, new, syn, ack, fin]
      refine ⟨_, _, judgeTcp_seeds rst fit unseeded total now, ?_⟩
      obtain ⟨state, offered, scale, reply⟩ := transition_new (g := g)
        (b := b.setDir .reply (seedDir (b.dir .reply) g (windowOf b .reply g))) new
      rw [account_state, account_dirReply, state, reply]
      have window : windowOf b .reply g = g.window.setWidth 32 := by simp [windowOf, syn]
      simp [Body.setDir, seedDir, ack, window]
    case ack =>
      rintro half rfl seeded syn ack rst passes
      have fit : fits b .orig g = true := by simp [fits, half, syn, ack]
      obtain ⟨state, notes⟩ := transition_halfOpen (b := taught b .orig g) (g := g) half syn
      refine ⟨_, judgeTcp_checked rst fit seeded passes notes total now, ?_⟩
      rw [account_state, state]
    case secondFin =>
      intro one order seeded syn rst passes
      have fit : fits b d g = true := by simp [fits, one, syn]
      obtain ⟨state, finEnd, notes⟩ := transition_drainOne (b := taught b d g) (d := d) (g := g) (by rw [taught_state, one])
        (by rw [taught_finOrder, order])
      refine ⟨_, judgeTcp_checked rst fit seeded passes notes total now, ?_, ?_⟩
      · rw [account_state, state]
      · rw [account_dir, finEnd, taught_finEnd]
    case lastAck =>
      intro e both seeded other syn rst passes
      have fit : fits b d g = true := by simp [fits, both, syn]
      obtain ⟨state, notes⟩ := transition_drainBoth (b := taught b d g) (d := d) (g := g) (by rw [taught_state, both])
        (by rw [taught_other, other])
      refine ⟨_, judgeTcp_checked rst fit seeded passes notes total now, ?_⟩
      rw [account_state, state, taught_finOrder]
    case rst =>
      intro rst passes
      refine ⟨_, judgeTcp_rst rst passes total now, ?_⟩
      simp
    case reopen =>
      intro linger orig syn ack fin rst
      exact judgeTcp_reopens rst linger orig syn ack fin total now
    case unfit =>
      intro rst
      have elsewhere (state : b.state ≠ .linger) (unfit : fits b d g = false) : refused :=
        judgeTcp_unfit rst (fun r => state r.1) unfit total now
      refine ⟨fun syn fin => ?_, ?_, ?_, ?_, ?_, ?_, fun linger syn opening => ?_⟩
      · exact judgeTcp_unfit rst (fun r => r.2.2.2.2 fin) (by simp [fits, syn, fin]) total now
      · rintro new rfl flags
        exact elsewhere (by rw [new]; decide) (by rcases flags with f | f <;> simp [fits, new, f])
      · rintro (state | state) rfl flags
        all_goals exact elsewhere (by rw [state]; decide) (by rcases flags with f | f <;> simp [fits, state, f])
      · rintro half rfl flags
        exact elsewhere (by rw [half]; decide) (by cases ack : g.hasAck <;> simp [fits, half, flags, ack])
      · intro opened syn seeded
        exact elsewhere (by rw [opened]; decide) (by simp [fits, opened, syn, seeded])
      · rintro (state | state) syn
        all_goals exact elsewhere (by rw [state]; decide) (by simp [fits, state, syn])
      · refine judgeTcp_unfit rst ?_ (by simp [fits, linger, syn]) total now
        rintro ⟨-, orig, -, none, -⟩
        exact opening.elim (fun reply => by rw [orig] at reply; cases reply) none
  · intro f g s z h hits sg live linger syn ack fin rst records slots
    have reopens : judge (recordOf s h).body .orig g (headerOf s g).off (tolerance s) s.tim.seconds = .reopen :=
      (if_neg (by rw [linger]; decide)).trans (judgeTcp_reopens rst linger rfl syn ack fin _ _)
    refine ⟨_, _, rfl, removeSession_removed (s := bump .wRx s) records slots live .reopen false, event_becomes ?_⟩
    exact (receive_hits hits).trans (trackHit_reopens (s := bump .wRx s) reopens)

/-- Settles O21: the policy alone says what becomes of a refused frame, and nothing on its way writes a record. -/
theorem refusedSegmentMeetsThePolicy : Obligations.RefusedSegmentMeetsThePolicy := by
  intro f g s z h d c hits refused
  have tracked : receive .w f takeW s = refuseFrame c z h g (bump .wRx s) :=
    (receive_hits hits).trans (trackHit_refuses (s := bump .wRx s) refused)
  refine ⟨fun tagged => ⟨_, rfl, event_becomes (tracked.trans ?_)⟩, fun dropped => ?_⟩
  · exact refuseFrame_exception (s := bump .wRx s) tagged c
  · exact congrArg Host.Outcome.next (event_is (tracked.trans (refuseFrame_drop (s := bump .wRx s) dropped c)) rfl)

end Sys2Proof.Proofs
end

section
/-! SUPPORT. The first packet's hold timer and the faults: the first expired entry of the hold queue, what a FAULT-class error does by
the role it meets; and the obligations about them. -/

-- One proof at a time: proofs that wait for earlier checks would each take a thread.
set_option Elab.async false

namespace Sys2Proof.Machine

open Sys2Proof.Safety

variable {s : State}

/-! ## The first expired entry (R77) -/

theorem due_iff (t : Timer) : t.due = true ↔ t = .running 0 := beq_iff_eq

/-- Entries that have not expired stand before the first that has. -/
theorem firstDue_append {pre : List HoldEntry} {e : HoldEntry} (early : ∀ d ∈ pre, d.timer ≠ .running 0)
    (due : e.timer = .running 0) (post : List HoldEntry) : firstDue (pre ++ e :: post) = some (e, pre ++ post) := by
  induction pre with
  | nil => exact if_pos ((due_iff _).2 due)
  | cons d pre ih =>
    have waits : ¬ d.timer.due = true := fun h => early d List.mem_cons_self ((due_iff _).1 h)
    have found := ih fun x hx => early x (List.mem_cons_of_mem _ hx)
    rw [List.cons_append, firstDue, if_neg waits, found]
    rfl

theorem holdExpired_first {e : HoldEntry} {es : List HoldEntry} (first : firstDue s.hold = some (e, es)) : holdExpired s =
    report .hld1 { ErrInfo.ofHandle e.handle with seq := e.releaseSeq.map BitVec.toNat }
      (releaseHeld .holdRelTimeout { s with hold := es } e) := by
  unfold holdExpired
  rw [first]

/-! ## A FAULT-class error (R138, R178) -/

theorem raiseFault_carried (code : ErrCode) (info : ErrInfo) (carries : s.pai.role ≠ .detached ∧ s.pai.role ≠ .faulted) :
    raiseFault code info s = changeRole .faulted (faultCause code) (report code info s) :=
  if_neg fun role => role.elim carries.1 carries.2

theorem raiseFault_filed (code : ErrCode) (info : ErrInfo) (stays : s.pai.role = .detached ∨ s.pai.role = .faulted) :
    raiseFault code info s = report code info s := if_pos stays

end Sys2Proof.Machine

namespace Sys2Proof.Proofs

open Sys2Proof.Machine Sys2Proof.Safety

/-- Settles O31: the entry is the first one due, and its release is that of `releaseHeld` out of the queue without it. -/
theorem holdTimeoutReleasesTheFrame : Obligations.HoldTimeoutReleasesTheFrame := by
  intro s pre post e running queue expired early r s1 s2
  have first : firstDue s.hold = some (e, pre ++ post) := queue ▸ firstDue_append early expired post
  have due : holdDue s = true := by unfold holdDue; rw [first]; rfl
  have left : clearReleaseSeq e s1 = s2 := rfl
  have released : holdExpired s = report .hld1
      { handle := some e.handle, place := none, seq := e.releaseSeq.map BitVec.toNat, gen := none }
      (bump .hitFwd (bump .holdRelTimeout (handToPort .w e.frame s2))) := by
    rw [holdExpired_first first, ← left]
    rfl
  exact ⟨_, rfl, atTick_noticed running due released⟩

/-- Settles O59: the role met decides whether the error carries the part to FAULTED, at the timer's expiry and by request. -/
theorem faultsTakeThePartToFaulted : Obligations.FaultsTakeThePartToFaulted := by
  intro s stopped carries
  refine ⟨fun running expired => ⟨fun c => ?_, fun c => ?_⟩, fun r rest commanded => ?_⟩
  · exact ⟨_, _, rfl, changeRole_changed .faulted .keepalive (report .flt1 ErrInfo.none stopped),
      atTick_noticed running (due_running _ expired) (raiseFault_carried (s := stopped) .flt1 _ c)⟩
  · have stays : s.pai.role = .detached ∨ s.pai.role = .faulted := by
      by_contra neither
      exact c (not_or.1 neither)
    exact ⟨_, rfl, atTick_noticed running (due_running _ expired) (raiseFault_filed (s := stopped) .flt1 _ stays)⟩
  · have acts (outside : s.pai.role ≠ .detached) :
        answerForceFault r (dequeue rest s) = done (raiseFault .flt2 ErrInfo.none (dequeue rest s)) := if_neg outside
    refine ⟨fun c => ?_, fun faulted => ?_, fun detached => ?_⟩
    · exact ⟨_, _, rfl, changeRole_changed .faulted .forceFault (report .flt2 ErrInfo.none (dequeue rest s)),
        commanded_replied commanded rfl answerForceFault
          ((acts c.1).trans (congrArg done (raiseFault_carried (s := dequeue rest s) .flt2 _ c)))⟩
    · exact ⟨_, rfl, commanded_replied commanded rfl answerForceFault
        ((acts (by rw [faulted]; decide)).trans (congrArg done (raiseFault_filed (s := dequeue rest s) .flt2 _ (.inr faulted))))⟩
    · exact ⟨_, rfl, commanded_replied commanded rfl answerForceFault (if_pos detached)⟩

end Sys2Proof.Proofs
end

section
/-! SUPPORT. A frame closed (R75, R92): the release_seq of each CREATE's hold entry and session, said once, `closeFrame_closes`; and the
obligation about the coalesce timer. -/

-- One proof at a time: proofs that wait for earlier checks would each take a thread.
set_option Elab.async false

namespace Sys2Proof.Machine

open Sys2Proof.Safety

variable {s t : State}

/-! ## Records that are not as after clearing -/

/-- A record that is not as after clearing reads back in any store, in canonical order or not. -/
theorem recordOf_setRecord_listed {h : Nat} {r : Record} (listed : r ≠ Record.fresh) (s : State) (k : Nat) :
    recordOf (setRecord h r s) k = if k = h then r else recordOf s k := by
  simp only [recordOf, setRecord, Tbl.record, Tbl.setRecord, putRecord, if_neg listed, sparseFind_put]
  split <;> rfl

theorem live_listed {r : Record} (live : r.handleState = .live) : r ≠ Record.fresh := fun e => by
  rw [e] at live; cases live

/-! ## The sequence of a closing frame's CREATEs (R75) -/

/-- An entry that awaits one of some CREATEs and has no sequence yet. -/
abbrev awaitsOne (cs : List (Nat × Word16)) (e : HoldEntry) : Prop := (e.handle, e.epoch) ∈ cs ∧ e.releaseSeq = none

/-- An entry once a closing frame with some CREATEs has given its sequence. -/
def entryGiven (seq : Word16) (cs : List (Nat × Word16)) (e : HoldEntry) : HoldEntry :=
  if awaitsOne cs e then { e with releaseSeq := some seq } else e

/-- A hold queue has an entry of a handle and epoch that awaits one of some CREATEs. -/
abbrev heldFor (cs : List (Nat × Word16)) (es : List HoldEntry) (h : Nat) (epoch : Word16) : Prop :=
  ∃ e ∈ es, e.handle = h ∧ e.epoch = epoch ∧ awaitsOne cs e

/-- A record with its release_seq written. -/
def sequenced (seq : Word16) (r : Record) : Record := { r with body := { r.body with releaseSeq := some seq } }

/-- The record of a handle once a closing frame with some CREATEs has given its sequence to the entries of a hold queue. -/
def recordGiven (seq : Word16) (cs : List (Nat × Word16)) (es : List HoldEntry) (h : Nat) (r : Record) : Record :=
  if r.handleState = .live ∧ heldFor cs es h r.epoch then sequenced seq r else r

/-- From s to t the CREATEs of a closing frame have given its sequence, and nothing else has changed. -/
structure Given (seq : Word16) (cs : List (Nat × Word16)) (s t : State) : Prop where
  rest    : t = { s with hold := t.hold, tbl := { s.tbl with records := t.tbl.records } }
  hold    : t.hold = s.hold.map (entryGiven seq cs)
  records : ∀ h, recordOf t h = recordGiven seq cs s.hold h (recordOf s h)

theorem takesSeq_iff (c : Nat × Word16) (e : HoldEntry) : takesSeq c e = true ↔ awaitsOne [c] e := by
  simp [takesSeq, awaitsCreate, awaitsOne, Prod.ext_iff, and_assoc]

theorem entryGiven_nil (seq : Word16) (e : HoldEntry) : entryGiven seq [] e = e := by simp [entryGiven]

theorem entryGiven_key (seq : Word16) (cs : List (Nat × Word16)) (e : HoldEntry) :
    (entryGiven seq cs e).handle = e.handle ∧ (entryGiven seq cs e).epoch = e.epoch := by
  unfold entryGiven; split <;> exact ⟨rfl, rfl⟩

/-- An entry takes the sequence of one of two lists of CREATEs when it takes that of the first, or else of the second. -/
theorem entryGiven_cons (seq : Word16) (c : Nat × Word16) (cs : List (Nat × Word16)) (e : HoldEntry) :
    entryGiven seq cs (entryGiven seq [c] e) = entryGiven seq (c :: cs) e := by
  unfold entryGiven awaitsOne
  by_cases a : (e.handle, e.epoch) = c <;> by_cases b : e.releaseSeq = none <;> simp [a, b]

/-- After the first of some CREATEs an entry awaits one of the others when it does so now and did not take the first's. -/
theorem awaitsOne_given (seq : Word16) (c : Nat × Word16) (cs : List (Nat × Word16)) (e : HoldEntry) :
    awaitsOne cs (entryGiven seq [c] e) ↔ awaitsOne cs e ∧ ¬ awaitsOne [c] e := by
  unfold entryGiven
  split
  · next a => simp [awaitsOne] at a ⊢; simp [a]
  · next a => simp [a]

theorem awaitsOne_cons (c : Nat × Word16) (cs : List (Nat × Word16)) (e : HoldEntry) :
    awaitsOne (c :: cs) e ↔ awaitsOne [c] e ∨ awaitsOne cs e := by
  simp only [awaitsOne, List.mem_cons, List.not_mem_nil, or_false, or_and_right]

theorem heldFor_cons (seq : Word16) (c : Nat × Word16) (cs : List (Nat × Word16)) (es : List HoldEntry) (h : Nat) (epoch : Word16) :
    heldFor (c :: cs) es h epoch ↔ heldFor [c] es h epoch ∨ heldFor cs (es.map (entryGiven seq [c])) h epoch := by
  constructor
  · rintro ⟨e, mem, handle, ep, waits⟩
    by_cases first : awaitsOne [c] e
    · exact .inl ⟨e, mem, handle, ep, first⟩
    · obtain ⟨kh, ke⟩ := entryGiven_key seq [c] e
      exact .inr ⟨_, List.mem_map.2 ⟨e, mem, rfl⟩, kh.trans handle, ke.trans ep,
        (awaitsOne_given seq c cs e).2 ⟨((awaitsOne_cons c cs e).1 waits).resolve_left first, first⟩⟩
  · rintro (⟨e, mem, handle, ep, first⟩ | ⟨g, mem, handle, ep, waits⟩)
    · exact ⟨e, mem, handle, ep, (awaitsOne_cons c cs e).2 (.inl first)⟩
    · obtain ⟨e, its, rfl⟩ := List.mem_map.1 mem
      obtain ⟨kh, ke⟩ := entryGiven_key seq [c] e
      exact ⟨e, its, kh.symm.trans handle, ke.symm.trans ep,
        (awaitsOne_cons c cs e).2 (.inr ((awaitsOne_given seq c cs e).1 waits).1)⟩

theorem recordGiven_cons (seq : Word16) (c : Nat × Word16) (cs : List (Nat × Word16)) (es : List HoldEntry) (h : Nat) (r : Record) :
    recordGiven seq cs (es.map (entryGiven seq [c])) h (recordGiven seq [c] es h r) = recordGiven seq (c :: cs) es h r := by
  have both := heldFor_cons seq c cs es h r.epoch
  unfold recordGiven
  by_cases first : r.handleState = .live ∧ heldFor [c] es h r.epoch
  · have all : r.handleState = .live ∧ heldFor (c :: cs) es h r.epoch := ⟨first.1, both.2 (.inl first.2)⟩
    rw [if_pos first, if_pos all]
    exact ite_self (sequenced seq r)
  · rw [if_neg first]
    refine if_congr (and_congr_right fun live => ?_) rfl rfl
    rw [both]
    exact ⟨.inr, fun x => x.resolve_left fun held => first ⟨live, held⟩⟩

/-- One CREATE is for the handle and epoch that it names alone. -/
theorem heldFor_single (c : Nat × Word16) (es : List HoldEntry) (h : Nat) (epoch : Word16) :
    heldFor [c] es h epoch ↔ (h = c.1 ∧ epoch = c.2) ∧ es.any (takesSeq c) = true := by
  simp only [List.any_eq_true, takesSeq_iff]
  constructor
  · rintro ⟨e, mem, rfl, rfl, waits⟩
    exact ⟨Prod.ext_iff.1 (List.mem_singleton.1 waits.1), e, mem, waits⟩
  · rintro ⟨⟨rfl, rfl⟩, e, mem, waits⟩
    obtain ⟨kh, ke⟩ := Prod.ext_iff.1 (List.mem_singleton.1 waits.1)
    exact ⟨e, mem, kh, ke, waits⟩

/-- The entries that one CREATE gives its sequence. -/
theorem entriesGiven_single (seq : Word16) (c : Nat × Word16) :
    (fun e => if takesSeq c e then { e with releaseSeq := some seq } else e) = entryGiven seq [c] :=
  funext fun e => by simp only [entryGiven, takesSeq_iff]

/-- One CREATE of a closing frame (R75). -/
theorem writeReleaseSeq_given (seq : Word16) (s : State) (c : Nat × Word16) : Given seq [c] s (writeReleaseSeq seq s c) := by
  unfold writeReleaseSeq
  rw [entriesGiven_single]
  split
  · next taken =>
    have given (h : Nat) : recordGiven seq [c] s.hold h (recordOf s h) =
        if h = c.1 ∧ (recordOf s c.1).handleState = .live ∧ (recordOf s c.1).epoch = c.2
        then sequenced seq (recordOf s c.1) else recordOf s h := by
      simp only [recordGiven, heldFor_single, taken, and_true]
      by_cases own : h = c.1
      · subst own; simp
      · simp [own]
    simp only
    split
    · next its =>
      refine ⟨rfl, rfl, fun h => ?_⟩
      rw [given]
      refine Eq.trans ?_ (if_congr (and_iff_left its).symm rfl rfl)
      exact recordOf_setRecord_listed (r := sequenced seq (recordOf s c.1)) (live_listed its.1) _ h
    · next other =>
      refine ⟨rfl, rfl, fun h => ?_⟩
      rw [given, if_neg fun x => other x.2]
      rfl
  · next none =>
    have waits (h : Nat) (epoch : Word16) : ¬ heldFor [c] s.hold h epoch := fun w => none ((heldFor_single ..).1 w).2
    refine ⟨rfl, ?_, fun h => (if_neg fun x => waits _ _ x.2).symm⟩
    refine (List.map_id _).symm.trans (List.map_congr_left fun e mem => (if_neg fun a => ?_).symm)
    exact waits _ _ ⟨e, mem, rfl, rfl, a⟩

/-- The CREATEs of a closing frame in order (R75). -/
theorem writeReleaseSeqs_given (seq : Word16) (cs : List (Nat × Word16)) (s : State) :
    Given seq cs s (cs.foldl (writeReleaseSeq seq) s) := by
  induction cs generalizing s with
  | nil =>
    refine ⟨rfl, ?_, fun h => (if_neg ?_).symm⟩
    · rw [List.map_congr_left fun e _ => entryGiven_nil seq e, List.map_id']
      rfl
    · rintro ⟨_, e, _, _, _, mem, _⟩
      cases mem
  | cons c cs ih =>
    have one := writeReleaseSeq_given seq s c
    have more := ih (writeReleaseSeq seq s c)
    refine ⟨?_, ?_, fun h => ?_⟩
    · rw [List.foldl_cons, more.rest, one.rest]
    · rw [List.foldl_cons, more.hold, one.hold, List.map_map]
      exact List.map_congr_left fun e _ => entryGiven_cons seq c cs e
    · rw [List.foldl_cons, more.records, one.hold, one.records, recordGiven_cons]

/-! ## The frame closed (R92, R96) -/

/-- The DATA frame that an open frame becomes. -/
def dataFrameOf (fr : OpenFrame) (s : State) : DataFrame :=
  { gen := s.pai.pairGen, seq := s.mir.nextSeq, deltas := fr.deltas, removes := fr.removes, creates := fr.creates }

/-- The transmitter once the open frame has joined the replay queue. -/
def mirJoined (fr : OpenFrame) (s : State) : Mir :=
  { s.mir with
    openFrame := none, nextSeq := s.mir.nextSeq + 1#16, sinceCheckpoint := min (s.mir.sinceCheckpoint + 1) 4096
    replay := s.mir.replay ++ [dataFrameOf fr s]
    replayTimer := if s.mir.replay = [] then .running s.cfg.replayTimeout else s.mir.replayTimer }

/-- A frame closed: its CREATEs give its sequence, and it goes out on the data path when there is one. -/
theorem closeFrame_sends {fr : OpenFrame} (opened : s.mir.openFrame = some fr) :
    ∃ u, Given s.mir.nextSeq fr.creates { s with mir := mirJoined fr s } u ∧ closeFrame s =
      match s.mir.dataPath with
      | none => u
      | some p => bump .dataSent (sendMirror p (dataBytes (dataFrameOf fr s)) u) := by
  have given := writeReleaseSeqs_given s.mir.nextSeq fr.creates { s with mir := mirJoined fr s }
  refine ⟨_, given, ?_⟩
  have path : (fr.creates.foldl (writeReleaseSeq s.mir.nextSeq) { s with mir := mirJoined fr s }).mir.dataPath =
      s.mir.dataPath := by rw [given.rest]; rfl
  unfold closeFrame
  rw [opened, ← path]
  rfl

/-- The open frame closes. -/
theorem closeFrame_closes {fr : OpenFrame} (opened : s.mir.openFrame = some fr) : Closes fr s (closeFrame s) := by
  obtain ⟨u, given, sent⟩ := closeFrame_sends opened
  have cfg : u.cfg = s.cfg := by rw [given.rest]
  have peer : u.prt.peerMac = s.prt.peerMac := by rw [given.rest]
  refine ⟨u, ?_, given.records, fun none => ?_, fun primary => ?_, fun secondary enabled => ?_⟩
  · have rest := given.rest
    rw [given.hold] at rest
    exact rest
  · rw [sent, none]
  · rw [sent, primary]
    simp only [sendMirror, mirrorFrame_eq .primary _ cfg peer]
    rfl
  · rw [sent, secondary]
    simp only [sendMirror, cfg, enabled, if_true, mirrorFrame_eq .secondary _ cfg peer]
    rfl

/-- What a frame closed leaves of the transmitter, the configuration, the digest, the held frames' sessions and the records. -/
structure LeftByClosing (fr : OpenFrame) (s t : State) : Prop where
  cfg     : t.cfg = s.cfg
  mir     : t.mir = mirJoined fr s
  digest  : t.tbl.liveCount = s.tbl.liveCount ∧ t.tbl.digestSum = s.tbl.digestSum
  held    : ∀ h epoch, (∃ e ∈ t.hold, e.handle = h ∧ e.epoch = epoch) ↔ ∃ e ∈ s.hold, e.handle = h ∧ e.epoch = epoch
  records : ∀ h, (recordOf t h).pending = (recordOf s h).pending ∧ (recordOf t h).epoch = (recordOf s h).epoch

theorem closeFrame_left {fr : OpenFrame} (opened : s.mir.openFrame = some fr) : LeftByClosing fr s (closeFrame s) := by
  obtain ⟨u, given, sent⟩ := closeFrame_sends opened
  have left : LeftByClosing fr s u := by
    refine ⟨by rw [given.rest], by rw [given.rest], by rw [given.rest]; exact ⟨rfl, rfl⟩, fun h epoch => ?_, fun h => ?_⟩
    · rw [given.hold]
      simp only [List.mem_map, exists_exists_and_eq_and, entryGiven_key]
    · rw [given.records]
      unfold recordGiven
      split <;> exact ⟨rfl, rfl⟩
  have moved : Touches reports u (closeFrame s) := by
    rw [sent]
    split
    · exact Touches.refl u
    · exact (sendMirror_touches _ _ u).then (bump_touches _ _)
  have tbl := moved .tbl (by decide)
  refine ⟨(moved .cfg (by decide)).trans left.cfg, (moved .mir (by decide)).trans left.mir, ?_, fun h epoch => ?_, fun h => ?_⟩
  · rw [show (closeFrame s).tbl = u.tbl from tbl]; exact left.digest
  · rw [show (closeFrame s).hold = u.hold from moved .hold (by decide)]; exact left.held h epoch
  · rw [recordOf, show (closeFrame s).tbl = u.tbl from tbl]; exact left.records h

theorem closeFrame_none (none : s.mir.openFrame = none) : closeFrame s = s := by
  unfold closeFrame
  rw [none]

theorem coalesceDue_open {fr : OpenFrame} (opened : s.mir.openFrame = some fr) (due : fr.timer = .running 0) :
    coalesceDue s = true := by
  unfold coalesceDue
  rw [opened]
  exact due_running _ due

end Sys2Proof.Machine

namespace Sys2Proof.Proofs

open Sys2Proof.Machine Sys2Proof.Safety

/-- Settles O34: the timer of the open frame is due, and its event closes the frame. -/
theorem coalesceExpiryClosesTheFrame : Obligations.CoalesceExpiryClosesTheFrame := by
  intro s fr running opened due _
  exact ⟨_, _, closeFrame_closes opened, rfl, atTick_noticed running (coalesceDue_open opened due) rfl⟩

end Sys2Proof.Proofs
end

section
/-! SUPPORT. The builder (R89 to R92): which delta it chooses, what placing each kind does, and when the frame then closes; and the
obligation about it. -/

-- One proof at a time: proofs that wait for earlier checks would each take a thread.
set_option Elab.async false

namespace Sys2Proof.Machine

open Sys2Proof.Safety

variable {s u v : State} {fr : OpenFrame} {h : Nat}

/-! ## A record written twice -/

theorem sparsePut_twice {α : Type} (m : List (Nat × α)) (k : Nat) (v w : α) :
    sparsePut (sparsePut m k v) k w = sparsePut m k w := by
  induction m with
  | nil => exact if_pos rfl
  | cons q m ih =>
    obtain ⟨j, x⟩ := q
    unfold sparsePut
    by_cases own : k = j
    · simp only [if_pos own, sparsePut, if_true]
    · by_cases below : k < j
      · simp only [if_neg own, if_pos below, sparsePut, if_true]
      · simp only [if_neg own, if_neg below, sparsePut, ih]

theorem setRecord_twice {r r' : Record} (listed : r ≠ Record.fresh) (listed' : r' ≠ Record.fresh) (h : Nat) (s : State) :
    setRecord h r' (setRecord h r s) = setRecord h r' s := by
  simp only [setRecord, Tbl.setRecord, putRecord, if_neg listed, if_neg listed', sparsePut_twice]

/-- A record with its mirrored group written. -/
def mirroredNow (r : Record) : Record := { r with body := { r.body with mirrored := some (groupOf r.body) } }

theorem grouped_listed {r : Record} {m : Mirrored} (group : r.body.mirrored = some m) : r ≠ Record.fresh := fun e => by
  rw [e] at group; cases group

/-! ## The sizes of the deltas (5.4) -/

theorem trackerBytes_length (d : DirTracker) : (trackerBytes d).length = 21 := rfl

theorem updateBytes_length (kind : Byte) (h : Nat) (r : Record) : (updateBytes kind h r).length = 48 := by
  simp only [updateBytes, List.length_append, trackerBytes_length]
  rfl

theorem keyRecord_length (k : Key) : (keyRecord k).length = 16 := rfl

theorem createBytes_length (kind : Byte) (h : Nat) (r : Record) : (createBytes kind h r).length = 96 := by
  simp only [createBytes, List.length_append, updateBytes_length, keyRecord_length]
  rfl

/-- The size of a chosen delta. -/
def choiceSize (c : Choice) (s : State) : Nat :=
  match c with
  | .live h => liveSize (recordOf s h).pending
  | .bulkRecord _ => 96
  | .bulkEnd | .checkpoint => 12

theorem choiceBytes_length (c : Choice) (s : State) : (choiceBytes c s).length = choiceSize c s := by
  cases c with
  | live h =>
    simp only [choiceBytes, choiceSize]
    cases (recordOf s h).pending with
    | none => rfl
    | create => exact createBytes_length 1#8 h _
    | update => exact updateBytes_length 2#8 h _
    | remove => rfl
  | bulkRecord h => exact createBytes_length 5#8 h _
  | bulkEnd => rfl
  | checkpoint => rfl

theorem choiceSize_le (c : Choice) (s : State) : choiceSize c s ≤ 96 := by
  cases c with
  | live h =>
    simp only [choiceSize]
    cases (recordOf s h).pending <;> decide
  | bulkRecord h => exact Nat.le_refl 96
  | bulkEnd => exact (by decide : 12 ≤ 96)
  | checkpoint => exact (by decide : 12 ≤ 96)

/-! ## Deltas placed (R70, R89, R90) -/

/-- A live delta and its handle's record taken off the dirty list. -/
def takenOff (h : Nat) (r : Record) (fr : OpenFrame) (s : State) : State :=
  setRecord h r { s with mir := { s.mir with
    dirty := s.mir.dirty.filter fun k => k != h, turn := .bulkNext, openFrame := some fr } }

theorem placeChoice_takes {r : Record} (group : setPending h .none (groupBuilt h s) = setRecord h r s) :
    placeChoice (.live h) s = takenOff h r (addDelta (.live h) s (openFrameOf s)) s := by
  have placed : placeChoice (.live h) s = { setPending h .none (groupBuilt h s) with mir :=
      { (setPending h .none (groupBuilt h s)).mir with
        dirty := (setPending h .none (groupBuilt h s)).mir.dirty.filter fun k => k != h
        turn := .bulkNext
        openFrame := some (addDelta (.live h) s (openFrameOf s)) } } := rfl
  rw [placed, group]
  rfl

/-- A live delta placed in the open frame. -/
theorem placeChoice_live (marked : (recordOf s h).pending ≠ .none) (frame : openFrameOf s = fr) :
    placeChoice (.live h) s = placedLive h fr s := by
  have grouped : setPending h .none (writeMirrored h s) = setRecord h { mirroredNow (recordOf s h) with pending := .none } s := by
    have reads : recordOf (writeMirrored h s) h = mirroredNow (recordOf s h) :=
      (recordOf_setRecord_listed (r := mirroredNow (recordOf s h)) (grouped_listed rfl) s h).trans (if_pos rfl)
    unfold setPending
    rw [reads]
    exact setRecord_twice (r := mirroredNow (recordOf s h)) (grouped_listed rfl) (grouped_listed rfl) h s
  cases pending : (recordOf s h).pending with
  | none => exact absurd pending marked
  | create =>
    rw [placeChoice_takes (by unfold groupBuilt; rw [pending]; exact grouped), frame]
    simp only [addDelta, choiceBytes, placedLive, pending]
    rfl
  | update =>
    rw [placeChoice_takes (by unfold groupBuilt; rw [pending]; exact grouped), frame]
    simp only [addDelta, choiceBytes, placedLive, pending]
    rfl
  | remove =>
    rw [placeChoice_takes (by unfold groupBuilt; rw [pending]; rfl), frame]
    simp only [addDelta, choiceBytes, placedLive, pending]
    rfl

/-- A BULK_RECORD placed in the open frame. -/
theorem placeChoice_bulk (frame : openFrameOf s = fr) : placeChoice (.bulkRecord h) s = placedBulk h fr s := by
  unfold placeChoice builtEffect
  rw [frame]
  rfl

/-- A BULK_END placed in the open frame ends the walk. -/
theorem placeChoice_bulkEnd (frame : openFrameOf s = fr) : placeChoice .bulkEnd s = raise .bulk { s with mir := { s.mir with
    walk := .idle, openFrame := some { fr with deltas := fr.deltas ++ digestBytes 6#8 s } } } := by
  unfold placeChoice builtEffect
  rw [frame]
  rfl

/-- A CHECKPOINT placed in the open frame. -/
theorem placeChoice_checkpoint (frame : openFrameOf s = fr) : placeChoice .checkpoint s = { s with mir := { s.mir with
    sinceCheckpoint := 0, openFrame := some { fr with deltas := fr.deltas ++ digestBytes 7#8 s } } } := by
  unfold placeChoice builtEffect
  rw [frame]
  rfl

theorem placedLive_keeps (h : Nat) (fr : OpenFrame) (s : State) : (placedLive h fr s).flt = s.flt := by
  simp only [placedLive]
  cases (recordOf s h).pending <;> rfl

theorem placedLive_open (marked : (recordOf s h).pending ≠ .none) (fr : OpenFrame) :
    ∃ fr', (placedLive h fr s).mir.openFrame = some fr' := by
  simp only [placedLive]
  cases pending : (recordOf s h).pending with
  | none => exact absurd pending marked
  | create => exact ⟨_, rfl⟩
  | update => exact ⟨_, rfl⟩
  | remove => exact ⟨_, rfl⟩

/-! ## The delta chosen (R90, R91) -/

theorem chooseDelta_live {ds : List Nat} (dirty : s.mir.dirty = h :: ds) (turn : s.mir.walk ≠ .walking ∨ s.mir.turn = .liveFirst) :
    chooseDelta s = some (.live h) := by
  unfold chooseDelta
  rw [dirty]
  cases walk : s.mir.walk with
  | idle => rfl
  | ending => rfl
  | walking => rw [turn.resolve_left fun other => other walk]

theorem chooseDelta_bulk (walk : s.mir.walk = .walking) (turn : s.mir.dirty = [] ∨ s.mir.turn = .bulkNext) :
    chooseDelta s = some (.bulkRecord s.mir.cursor) := by
  unfold chooseDelta
  rw [walk]
  rcases turn with none | next
  · rw [none]; cases s.mir.turn <;> rfl
  · rw [next]

theorem chooseDelta_bulkEnd (walk : s.mir.walk = .ending) (none : s.mir.dirty = []) : chooseDelta s = some .bulkEnd := by
  unfold chooseDelta
  rw [walk, none]

/-- A CHECKPOINT is due (R91). -/
abbrev checkpointDue (s : State) : Prop :=
  s.mir.openFrame = none ∧ 0 < s.cfg.checkpointInterval ∧ s.cfg.checkpointInterval ≤ s.mir.sinceCheckpoint

theorem chooseDelta_idle (walk : s.mir.walk = .idle) (none : s.mir.dirty = []) :
    chooseDelta s = if checkpointDue s then some .checkpoint else .none := by
  unfold chooseDelta
  rw [walk, none]
  exact if_congr (and_congr_left' Option.isNone_iff_eq_none) rfl rfl

/-! ## The walk's cursor (R90) -/

theorem advanceWalk_stays (stays : s.mir.walk = .walking → s.mir.turn ≠ .bulkNext ∧ s.mir.dirty ≠ []) : advanceWalk s = s :=
  if_neg fun ⟨walk, turn⟩ => turn.elim (stays walk).1 (stays walk).2

theorem advanceWalk_moves (walk : s.mir.walk = .walking) (turn : s.mir.dirty = [] ∨ s.mir.turn = .bulkNext) :
    advanceWalk s = match nextLive s s.mir.cursor with
      | some h => { s with mir := { s.mir with cursor := h } }
      | none => { s with mir := { s.mir with cursor := Config.handles, walk := .ending } } :=
  if_pos ⟨walk, turn.symm⟩

/-! ## The frame that the builder places in (R92) -/

/-- The builder has a stream and a frame to place in: the open one, or, with room in the replay queue, a new one. -/
structure Places (fr : OpenFrame) (s : State) : Prop where
  opened : s.mir.stream = .opened
  room   : s.mir.openFrame ≠ none ∨ s.mir.replay.length < 64
  frame  : openFrameOf s = fr

theorem buildDelta_places (p : Places fr s) : buildDelta s = buildNext (advanceWalk s) := by
  unfold buildDelta
  rw [if_neg (by rw [p.opened]; decide), if_neg]
  rintro ⟨none, full⟩
  exact p.room.elim (fun some => some (Option.isNone_iff_eq_none.1 none)) fun room => Nat.not_lt.2 full room

/-- A frame with deltas in it is an open one. -/
theorem open_of_deltas (some : 0 < (openFrameOf s).deltas.length) : s.mir.openFrame = .some (openFrameOf s) := by
  unfold openFrameOf at some ⊢
  cases opened : s.mir.openFrame with
  | none => rw [opened] at some; exact absurd some (Nat.lt_irrefl 0)
  | some fr => rfl

/-- A chosen delta fits, or it does not and an open frame closes first. -/
theorem buildNext_cases {c : Choice} (chosen : chooseDelta s = some c) (frame : openFrameOf s = fr) :
    (fr.deltas.length + choiceSize c s ≤ 1408 → buildNext s = buildChoice c s) ∧
    (1408 < fr.deltas.length + choiceSize c s → buildNext s = buildOverflow c s) := by
  unfold buildNext choiceFits
  rw [chosen]
  simp only [frame, choiceBytes_length]
  exact ⟨fun fits => if_pos (decide_eq_true fits), fun full => if_neg fun fits =>
    Nat.not_le.2 full (of_decide_eq_true fits)⟩

/-- Without a delta to place the open frame closes, with coalesce_time 0. -/
theorem buildNext_none (chosen : chooseDelta s = none) : buildNext s = if s.cfg.coalesceTime = 0 then closeFrame s else s := by
  unfold buildNext
  rw [chosen]

/-! ## The frame after a delta (R92) -/

/-- With coalesce_time 0 nothing further is to be placed. -/
abbrev Exhausted (cfg : ConfigRec) (u : State) : Prop := cfg.coalesceTime = 0 ∧ u.mir.walk = .idle ∧ u.mir.dirty = []

theorem nothingFurther_iff (u : State) : nothingFurther u = true ↔ u.mir.walk = .idle ∧ u.mir.dirty = [] := by
  simp [nothingFurther]

/-- The frame that took a delta stays open, or closes at once. -/
theorem buildChoice_ends {c : Choice} (placed : placeChoice c s = u) :
    (¬ (heldCreate c s = true ∨ Exhausted s.cfg u) → buildChoice c s = u) ∧
    (heldCreate c s = true ∨ Exhausted s.cfg u → buildChoice c s = closeFrame u) := by
  unfold buildChoice Exhausted
  simp only [placed, nothingFurther_iff]
  exact ⟨fun stays => if_neg stays, fun closes => if_pos closes⟩

/-- After a BULK_RECORD the walk goes on, and the frame stays open. -/
theorem bulk_stays (walk : s.mir.walk = .walking) (cfg : ConfigRec) (u : State) :
    ¬ (heldCreate (.bulkRecord h) u = true ∨ Exhausted cfg (placedBulk h fr s)) := by
  rintro (held | ⟨_, idle, _⟩)
  · cases held
  · have goes : (placedBulk h fr s).mir.walk = if h + 1 < 32768 then s.mir.walk else .ending := rfl
    rw [goes, walk] at idle
    split at idle <;> cases idle

/-- After a BULK_END, with a coalesce_time, the frame stays open. -/
theorem bulkEnd_stays {cfg : ConfigRec} (later : cfg.coalesceTime ≠ 0) (u v : State) :
    ¬ (heldCreate .bulkEnd u = true ∨ Exhausted cfg v) := fun ends => ends.elim nofun fun last => later last.1

theorem heldCreate_iff (h : Nat) (s : State) : heldCreate (.live h) s = true ↔
    (recordOf s h).pending = .create ∧ ∃ e ∈ s.hold, e.handle = h ∧ e.epoch = (recordOf s h).epoch := by
  simp [heldCreate, awaitsCreate]

/-! ## The frame after one that was full (R92) -/

/-- The frame that begins once one has closed is empty. -/
theorem LeftByClosing.begins {fr' : OpenFrame} (left : LeftByClosing fr' s v) : openFrameOf v = emptyFrame s := by
  unfold openFrameOf
  rw [left.mir, left.cfg]
  rfl

theorem LeftByClosing.heldCreate {fr' : OpenFrame} (left : LeftByClosing fr' s v) (h : Nat) :
    heldCreate (.live h) v = true ↔ heldCreate (.live h) s = true := by
  rw [heldCreate_iff, heldCreate_iff, (left.records h).1, (left.records h).2, left.held]

/-- A delta that does not fit: the frame closes, and the delta is placed in the next one when the replay queue has room. -/
theorem buildOverflow_cases {c : Choice} {fr' : OpenFrame} (opened : s.mir.openFrame = some fr') :
    (64 ≤ s.mir.replay.length + 1 → buildOverflow c s = closeFrame (commitChoice c s)) ∧
    (s.mir.replay.length + 1 < 64 → buildOverflow c s = buildChoice c (closeFrame (commitChoice c s))) := by
  have commit := commitChoice_steady c s
  have left := closeFrame_left (commit.openFrame.trans opened)
  have longer : (closeFrame (commitChoice c s)).mir.replay.length = s.mir.replay.length + 1 := by
    rw [left.mir]
    simp [mirJoined, commit.replay]
  unfold buildOverflow
  simp only [longer]
  exact ⟨fun full => if_neg (Nat.not_lt.2 full), fun room => if_pos room⟩

theorem deltaBuild_event (s : State) : exec .deltaBuild s = .next (event buildDelta s) := rfl

/-! ## A step of the builder -/

/-- The builder places in the frame fr, s' is s with the cursor moved, and the choice in s' is c. -/
structure Builds (c : Choice) (fr : OpenFrame) (s s' : State) : Prop where
  places : Places fr s
  walked : advanceWalk s = s'
  chosen : chooseDelta s' = some c

theorem Builds.frame {c : Choice} (b : Builds c fr s u) : openFrameOf u = fr ∧ u.cfg = s.cfg := by
  have cfg : u.cfg = s.cfg := b.walked ▸ advanceWalk_touches s .cfg (by decide)
  have open_ : u.mir.openFrame = s.mir.openFrame := b.walked ▸ (advanceWalk_steady s).openFrame
  refine ⟨?_, cfg⟩
  rw [← b.places.frame]
  unfold openFrameOf
  rw [open_, cfg]

theorem Builds.next {c : Choice} (b : Builds c fr s u) : buildDelta s = buildNext u :=
  (buildDelta_places b.places).trans (congrArg buildNext b.walked)

/-- A delta that fits: the frame that takes it stays open, or closes at once. -/
theorem Builds.fits {c : Choice} (b : Builds c fr s u) (fits : fr.deltas.length + choiceSize c u ≤ 1408)
    (placed : placeChoice c u = v) :
    (¬ (heldCreate c u = true ∨ Exhausted s.cfg v) → buildDelta s = v) ∧
    (heldCreate c u = true ∨ Exhausted s.cfg v → buildDelta s = closeFrame v) := by
  have taken := (buildNext_cases b.chosen b.frame.1).1 fits
  obtain ⟨stays, closes⟩ := buildChoice_ends placed
  rw [b.frame.2] at stays closes
  exact ⟨fun e => b.next.trans (taken.trans (stays e)), fun e => b.next.trans (taken.trans (closes e))⟩

/-- A frame without room for a delta is an open one. -/
theorem Builds.open_of_full {c : Choice} (b : Builds c fr s u) (full : 1408 < fr.deltas.length + choiceSize c u) :
    u.mir.openFrame = some fr := by
  have small := choiceSize_le c u
  have opened := open_of_deltas (s := u) (by rw [b.frame.1]; omega)
  rwa [b.frame.1] at opened

/-- A delta that does not fit: the frame closes, and with room in the replay queue the delta is placed in the next one. -/
theorem Builds.full {c : Choice} (b : Builds c fr s u) (full : 1408 < fr.deltas.length + choiceSize c u) {w x : State}
    (closed : closeFrame (commitChoice c u) = w) (placed : placeChoice c w = x) :
    (64 ≤ s.mir.replay.length + 1 → buildDelta s = w) ∧
    (s.mir.replay.length + 1 < 64 → (¬ (heldCreate c w = true ∨ Exhausted s.cfg x) → buildDelta s = x) ∧
      (heldCreate c w = true ∨ Exhausted s.cfg x → buildDelta s = closeFrame x)) := by
  have taken := (buildNext_cases b.chosen b.frame.1).2 full
  have replay : u.mir.replay = s.mir.replay := b.walked ▸ (advanceWalk_steady s).replay
  have left := closeFrame_left ((commitChoice_steady c u).openFrame.trans (b.open_of_full full))
  have cfg : w.cfg = s.cfg :=
    closed ▸ left.cfg.trans ((commitChoice_touches c u .cfg (by decide)).trans b.frame.2)
  obtain ⟨last, next⟩ := buildOverflow_cases (c := c) (b.open_of_full full)
  obtain ⟨stays, closes⟩ := buildChoice_ends placed
  rw [replay, closed] at last next
  rw [cfg] at stays closes
  exact ⟨fun none => b.next.trans (taken.trans (last none)), fun room =>
    ⟨fun e => b.next.trans (taken.trans ((next room).trans (stays e))),
      fun e => b.next.trans (taken.trans ((next room).trans (closes e)))⟩⟩

/-- A builder step that ends with a frame closed. -/
theorem deltaBuild_closes (built : buildDelta s = closeFrame u) (open_ : ∃ fr', u.mir.openFrame = some fr') :
    ∃ fr' v t, u.mir.openFrame = some fr' ∧ Closes fr' u v ∧ exec .deltaBuild s = .next t ∧ Noticed v t :=
  let ⟨fr', opened⟩ := open_
  ⟨fr', _, _, opened, closeFrame_closes opened, deltaBuild_event s, event_becomes built⟩

/-- A builder step that raises no flag. -/
theorem deltaBuild_places (built : buildDelta s = u) (flags : u.flt.flags = s.flt.flags) : exec .deltaBuild s = .next u :=
  (deltaBuild_event s).trans (congrArg Host.Outcome.next (event_is built flags))

/-- A builder step with no stream, or with no frame and no room for one (log entry 34). -/
theorem buildDelta_idle (idle : s.mir.stream = .closed ∨ (s.mir.openFrame = none ∧ 64 ≤ s.mir.replay.length)) :
    buildDelta s = s := by
  unfold buildDelta
  rcases idle with closed | ⟨none, full⟩
  · exact if_pos closed
  · rw [if_pos (show s.mir.openFrame.isNone = true ∧ Config.replayRoom ≤ s.mir.replay.length from ⟨by rw [none]; rfl, full⟩)]
    exact ite_self s

end Sys2Proof.Machine

namespace Sys2Proof.Proofs

open Sys2Proof.Machine Sys2Proof.Safety

/-- Settles O33: the delta chosen fits or does not, and its placing exhausts the builder or does not. -/
theorem deltaBuildPlacesTheNextDelta : Obligations.DeltaBuildPlacesTheNextDelta := by
  intro s
  refine ⟨fun idle => deltaBuild_places (buildDelta_idle idle) rfl, ?_⟩
  intro fr opened frames last closedAfter
  have places : Places fr s := by
    rcases frames with some | ⟨none, room, rfl⟩
    · exact ⟨opened, .inl (by rw [some]; nofun), by unfold openFrameOf; rw [some]; rfl⟩
    · exact ⟨opened, .inr room, by unfold openFrameOf; rw [none]; rfl⟩
  have frame := places.frame
  have still (walk : s.mir.walk ≠ .walking) : advanceWalk s = s := advanceWalk_stays fun walking => absurd walking walk
  refine ⟨?_, ?_, ?_, ?_, ?_⟩
  · intro h ds dirty marked turn size held
    have stays : s.mir.walk = .walking → s.mir.turn ≠ .bulkNext ∧ s.mir.dirty ≠ [] := fun walk =>
      ⟨by rw [turn.resolve_left fun other => other walk]; nofun, by rw [dirty]; nofun⟩
    have builds : Builds (.live h) fr s s := ⟨places, advanceWalk_stays stays, chooseDelta_live dirty turn⟩
    have waits : heldCreate (.live h) s = true ↔ held := heldCreate_iff h s
    refine ⟨fun fits => ?_, fun full => ?_⟩
    · obtain ⟨stays, closes⟩ := builds.fits fits (placeChoice_live marked frame)
      rw [waits] at stays closes
      exact ⟨fun c => deltaBuild_places (stays c) (by rw [placedLive_keeps]),
        fun c => deltaBuild_closes (closes c) (placedLive_open marked fr)⟩
    · have some := builds.open_of_full full
      have left := closeFrame_left some
      have marked' : (recordOf (closeFrame s) h).pending ≠ .none := by rw [(left.records h).1]; exact marked
      obtain ⟨closed, next⟩ := builds.full full rfl (placeChoice_live marked' left.begins)
      rw [show commitChoice (.live h) s = s from rfl, left.heldCreate, waits] at next
      refine ⟨_, _, closeFrame_closes some, deltaBuild_event s, fun none => event_becomes (closed none), fun room =>
        ⟨fun c => event_becomes ((next room).1 c), fun c => ?_⟩⟩
      obtain ⟨fr', open_⟩ := placedLive_open marked' (emptyFrame s)
      exact ⟨fr', _, open_, closeFrame_closes open_, event_becomes ((next room).2 c)⟩
  · intro walk turn
    have moves := advanceWalk_moves walk turn
    refine ⟨fun h found => ?_, fun none => ?_⟩
    · rw [show nextLive s s.mir.cursor = some h from found] at moves
      have builds : Builds (.bulkRecord h) fr s { s with mir := { s.mir with cursor := h } } :=
        ⟨places, moves, chooseDelta_bulk walk turn⟩
      refine ⟨fun fits => ?_, fun full => ?_⟩
      · exact deltaBuild_places ((builds.fits fits (placeChoice_bulk builds.frame.1)).1 (bulk_stays walk _ _)) rfl
      · have some := builds.open_of_full full
        have left := closeFrame_left (s := commitChoice (.bulkRecord h) { s with mir := { s.mir with cursor := h } }) some
        obtain ⟨closed, next⟩ := builds.full full rfl (placeChoice_bulk left.begins)
        refine ⟨_, _, closeFrame_closes some, deltaBuild_event s, event_becomes ?_⟩
        split
        · next room => exact (next room).1 (bulk_stays (by rw [left.mir]; exact walk) _ _)
        · next none => exact closed (Nat.le_of_not_lt none)
    · rw [show nextLive s s.mir.cursor = .none from none] at moves
      have places' : Places fr { s with mir := { s.mir with cursor := 32768, walk := .ending } } :=
        ⟨places.opened, places.room, places.frame⟩
      have here := (buildDelta_places places).trans (congrArg buildNext moves)
      have there := (buildDelta_places places').trans (congrArg buildNext (advanceWalk_stays nofun))
      exact congrArg (fun u => Host.Outcome.next (settle s.flt.flags u)) (here.trans there.symm)
  · intro walk dirty fits placed
    have builds : Builds .bulkEnd fr s s := ⟨places, still (by rw [walk]; nofun), chooseDelta_bulkEnd walk dirty⟩
    obtain ⟨stays, closes⟩ := builds.fits fits (placeChoice_bulkEnd frame)
    exact ⟨fun later => ⟨_, deltaBuild_event s, event_becomes (stays (bulkEnd_stays later _ _))⟩,
      fun now => deltaBuild_closes (closes (.inr ⟨now, rfl, dirty⟩)) ⟨_, rfl⟩⟩
  · intro walk dirty full
    have builds : Builds .bulkEnd fr s s := ⟨places, still (by rw [walk]; nofun), chooseDelta_bulkEnd walk dirty⟩
    have some := builds.open_of_full full
    have left := closeFrame_left some
    have digest : digestBytes 6#8 (closeFrame s) = digestBytes 6#8 s := by
      unfold digestBytes
      rw [left.digest.1, left.digest.2]
    have begins := placeChoice_bulkEnd left.begins
    rw [digest] at begins
    obtain ⟨closed, next⟩ := builds.full full rfl begins
    refine ⟨_, _, closeFrame_closes some, deltaBuild_event s, fun none => event_becomes (closed none), fun room => ?_⟩
    intro begun placed
    refine ⟨fun later => event_becomes ((next room).1 (bulkEnd_stays later _ _)), fun now => ⟨_, closeFrame_closes rfl, ?_⟩⟩
    exact event_becomes ((next room).2 (.inr ⟨now, rfl, (closeFrame_leaves s).1.trans dirty⟩))
  · intro walk dirty due placed
    have walked := still (by rw [walk]; nofun)
    have chosen := chooseDelta_idle walk dirty
    by_cases c : due
    · have empty : fr.deltas = [] := by
        rcases frames with some | ⟨_, _, rfl⟩
        · cases some.symm.trans c.1
        · rfl
      have taken : placeChoice .checkpoint s = placed := by
        rw [placeChoice_checkpoint frame, empty]
        rfl
      have builds : Builds .checkpoint fr s s := ⟨places, walked, chosen.trans (if_pos c)⟩
      obtain ⟨stays, closes⟩ := builds.fits (by rw [empty]; exact (show 0 + 12 ≤ 1408 by decide)) taken
      refine ⟨fun _ later => ?_, fun _ now => ?_, fun none => absurd c none, fun none => absurd c none⟩
      · exact deltaBuild_places (stays fun ends => ends.elim nofun fun last => later last.1) rfl
      · exact deltaBuild_closes (closes (.inr ⟨now, walk, dirty⟩)) ⟨_, rfl⟩
    · have rests : buildDelta s = if s.cfg.coalesceTime = 0 then closeFrame s else s :=
        (buildDelta_places places).trans ((congrArg buildNext walked).trans (buildNext_none (chosen.trans (if_neg c))))
      refine ⟨fun now => absurd now c, fun now => absurd now c, fun _ stays => ?_, fun _ now some => ?_⟩
      · refine deltaBuild_places (rests.trans ?_) rfl
        rcases stays with later | none
        · exact if_neg later
        · rw [closeFrame_none none]
          exact ite_self s
      · exact deltaBuild_closes (rests.trans (if_pos now)) (Option.ne_none_iff_exists'.1 some)

end Sys2Proof.Proofs
end

section
/-! SUPPORT. A stream begun (R80, R85): what an opening or a restart settles of the old generation, and all that it does, said once,
`beginStream_begun`. -/

-- One proof at a time: proofs that wait for earlier checks would each take a thread.
set_option Elab.async false

namespace Sys2Proof.Machine

open Sys2Proof.Safety

variable {s t : State}

/-! ## The held frames at a restart (R80) -/

/-- The error of a flush: HLD4 with the first handle. -/
def flushErrors (es : List HoldEntry) : List (ErrCode × ErrInfo) :=
  match es with
  | [] => []
  | e :: _ => [(.hld4, ErrInfo.ofHandle e.handle)]

/-- A flush is the release that a close makes in an active role, and HLD4 when a frame was held. -/
theorem flushHold_cases (s : State) :
    (s.hold = [] ∧ flushHold s = disposeHold .active s) ∨
    ∃ e es, s.hold = e :: es ∧ flushHold s = report .hld4 (ErrInfo.ofHandle e.handle) (disposeHold .active s) := by
  unfold flushHold disposeHold
  cases held : s.hold with
  | nil => exact .inl ⟨rfl, rfl⟩
  | cons e es => exact .inr ⟨e, es, rfl, rfl⟩

theorem flushHold_disposes (s : State) :
    (flushHold s).tbl = (disposeHold .active s).tbl ∧ (flushHold s).hold = (disposeHold .active s).hold := by
  rcases flushHold_cases s with ⟨_, e⟩ | ⟨_, _, _, e⟩ <;> rw [e] <;> exact ⟨rfl, rfl⟩

/-- What a flush hands over and reports. -/
theorem flushHold_adds (s : State) :
    Adds ((s.hold.map HoldEntry.frame).take (128 - s.prt.wQueue.length)) []
      (portErrors 2 ((s.hold.map HoldEntry.frame).drop (128 - s.prt.wQueue.length)) ++ flushErrors s.hold) [] 0#9
      (fun c => only .wTxDrop ((s.hold.map HoldEntry.frame).drop (128 - s.prt.wQueue.length)).length c +
        s.hold.length * (only .holdRelFlush 1 c + only .hitFwd 1 c)) s (flushHold s) := by
  have released := disposeHold_released .active s rfl
  rcases flushHold_cases s with ⟨none, e⟩ | ⟨first, es, held, e⟩
  · rw [e]
    exact released.as (hn := by rw [none]; simp [flushErrors])
  · rw [e]
    exact (released.trans (report_note_adds .hld4 (ErrInfo.ofHandle first.handle) _)).as
      (hn := by rw [held]; rfl)

/-! ## The old generation settled (R85) -/

/-- Before the held frames are flushed: nothing waits for the peer any more. -/
def settledBefore (s : State) : State := freeAllRetired (clearDirty (clearReplay s))

theorem settleOldStream_eq (s : State) : settleOldStream s = dropMirrored (flushHold (settledBefore s)) := rfl

theorem settledBefore_adds (s : State) : AddsNothing s (settledBefore s) := Adds.none rfl rfl ⟨rfl, rfl⟩

theorem settledBefore_sorted (hs : sparseSorted s.tbl.records = true) : sparseSorted (settledBefore s).tbl.records = true :=
  freeAllRetired_sorted (clearDirty_sorted (clearReplay s) hs)

theorem settleOldStream_hold (s : State) : (settleOldStream s).hold = [] :=
  (flushHold_disposes (settledBefore s)).2.trans (disposeHold_hold _ _)

theorem settleOldStream_slots (s : State) : SameSlots s (settleOldStream s) := by
  have freed := releaseAll_slots (clearDirty (clearReplay s)).tbl.retiredHandles (clearDirty (clearReplay s)).tbl
  have released := disposeHold_slots .active (settledBefore s)
  have tbl := (flushHold_disposes (settledBefore s)).1
  unfold SameSlots at released ⊢
  rw [← tbl] at released
  exact ⟨released.1.trans freed.1, released.2.1.trans freed.2.1, released.2.2.trans freed.2.2⟩

theorem settleOldStream_adds (s : State) :
    Adds ((s.hold.map HoldEntry.frame).take (128 - s.prt.wQueue.length)) []
      (portErrors 2 ((s.hold.map HoldEntry.frame).drop (128 - s.prt.wQueue.length)) ++ flushErrors s.hold) [] 0#9
      (fun c => only .wTxDrop ((s.hold.map HoldEntry.frame).drop (128 - s.prt.wQueue.length)).length c +
        s.hold.length * (only .holdRelFlush 1 c + only .hitFwd 1 c)) s (settleOldStream s) :=
  ((flushHold_adds (settledBefore s)).after (settledBefore_adds s)).before (Adds.none rfl rfl ⟨rfl, rfl⟩)

/-- The handles that were RETIRED join the free list, in ascending order (R39). -/
theorem settleOldStream_free (hs : sparseSorted s.tbl.records = true) :
    freeHandles (settleOldStream s).tbl.free = freeHandles s.tbl.free ++ s.tbl.retiredHandles := by
  have same := disposeHold_sameTbl .active (settledBefore s) (settledBefore_sorted hs)
  have tbl := (flushHold_disposes (settledBefore s)).1
  have free : (settleOldStream s).tbl.free = (settledBefore s).tbl.free := (congrArg Tbl.free tbl).trans same.free
  rw [free]
  exact (freeHandles_freeAllRetired (clearDirty_sorted (clearReplay s) hs)).trans (by rw [retiredHandles_clearDirty]; rfl)

/-- Each record once the old generation is settled. -/
theorem recordOf_settleOldStream (hs : sparseSorted s.tbl.records = true) (h : Nat) : recordOf (settleOldStream s) h =
    ungrouped (withoutSeq s.hold h (if (recordOf s h).handleState = .retired then freedRecord (recordOf s h).epoch
      else { recordOf s h with pending := .none })) := by
  have sorted := settledBefore_sorted hs
  have tbl := (flushHold_disposes (settledBefore s)).1
  have flushed : sparseSorted (flushHold (settledBefore s)).tbl.records = true := by
    rw [tbl]; exact (disposeHold_sameTbl .active (settledBefore s) sorted).sorted
  have before : recordOf (settledBefore s) h = if (recordOf s h).handleState = .retired
      then freedRecord (recordOf s h).epoch else { recordOf s h with pending := .none } := by
    unfold settledBefore
    rw [recordOf_freeAllRetired (clearDirty_sorted (clearReplay s) hs), recordOf_clearDirty (s := clearReplay s) hs]
    rfl
  have released : recordOf (flushHold (settledBefore s)) h = withoutSeq s.hold h (recordOf (settledBefore s) h) := by
    rw [recordOf, tbl]
    exact recordOf_disposeHold .active sorted h
  rw [settleOldStream_eq, recordOf_map ungrouped rfl flushed (t := dropMirrored (flushHold (settledBefore s))) rfl, released,
    before]

/-! ## The path of a stream that begins (R85, R98) -/

theorem bumpBy_zero (c : Ctr) (s : State) : bumpBy c 0 s = s := by
  unfold bumpBy
  rw [satAdd32_zero, Fin.getElem_fin, Vector.set_getElem_self]

theorem retransmitOn_nothing (p : Option PathId) (none : s.mir.replay = []) : retransmitOn p s = s := by
  cases p with
  | none => rfl
  | some p => rw [retransmitOn_some, none, List.length_nil, List.foldl_nil, bumpBy_zero]

/-- A path chosen anew for an OPEN stream that has nothing to send again. -/
theorem rechoose_idle (opened : s.mir.stream = .opened) (replay : s.mir.replay = []) (count : s.mir.replayCount = 0)
    (timer : s.mir.replayTimer = .stopped) (latch : s.mir.gapLatch = none) : rechoose s =
      if choosePath s = s.mir.dataPath then s
      else raise .path { s with mir := { s.mir with dataPath := choosePath s } } := by
  by_cases same : choosePath s = s.mir.dataPath
  · rw [rechoose_same same, if_pos same]
  · rw [rechoose_changed opened same, if_neg same, retransmitOn_nothing (s := onPath (choosePath s) s) _ replay]
    have idle : restartReplayTimer (onPath (choosePath s) s) = { s with mir := { s.mir with
        dataPath := choosePath s, replayCount := 0, gapLatch := none, replayTimer := .stopped } } := by
      unfold restartReplayTimer
      rw [show (onPath (choosePath s) s).mir.replay = [] from replay]
      rfl
    rw [idle, ← count, ← timer, ← latch]

/-- The transmitter of a stream that begins. -/
def mirBegun (s : State) : Mir :=
  { stream := .opened, nextSeq := 0#16, dirty := [], walk := .walking, cursor := 0, turn := .liveFirst
    openFrame := some
      { deltas := [4#8, 0#8, 0#8, 0#8] ++ nat32 s.tbl.liveCount ++ zeros 4, removes := [], creates := []
        timer := if s.cfg.coalesceTime = 0 then .stopped else .running s.cfg.coalesceTime }
    sinceCheckpoint := 0, replay := [], replayCount := 0, replayTimer := .stopped, gapLatch := none
    dataPath := pathBegun s, suspendedPrimary := false, suspendedSecondary := false, revertElapsed := 0
    fcsCount := s.mir.fcsCount }

/-- PATH when a restart moves an OPEN stream to another path (R98; log entry 20). -/
def restartMoves (s : State) (u : State) : State :=
  if s.mir.stream = .opened ∧ s.mir.dataPath ≠ pathBegun s then raise .path u else u

/-- The old generation settled under the new number. -/
def renumbered (gen : Word32) (s : State) : State := settleOldStream { s with pai := { s.pai with pairGen := gen } }

theorem choosePath_begun {gen : Word32} (opened : t.mir.stream = .opened) (pai : t.pai = { s.pai with pairGen := gen })
    (cfg : t.cfg = s.cfg) (free : t.mir.suspendedPrimary = false ∧ t.mir.suspendedSecondary = false) :
    choosePath t = pathBegun s := by
  rw [choosePath_opened opened, pai, cfg, free.1, free.2]
  rfl

/-- What a renumbered stream is before its path is chosen. -/
structure Renumbered (gen : Word32) (s v : State) : Prop where
  mir   : v.mir = { s.mir with
    dirty := [], replay := [], replayCount := 0, replayTimer := .stopped, gapLatch := none, openFrame := none }
  pai   : v.pai = { s.pai with pairGen := gen }
  cfg   : v.cfg = s.cfg
  count : v.tbl.liveCount = s.tbl.liveCount

theorem renumbered_renumbered (gen : Word32) (s : State) : Renumbered gen s (renumbered gen s) where
  mir := settleOldStream_mir { s with pai := { s.pai with pairGen := gen } }
  pai := settleOldStream_touches { s with pai := { s.pai with pairGen := gen } } .pai (by decide)
  cfg := settleOldStream_touches { s with pai := { s.pai with pairGen := gen } } .cfg (by decide)
  count := (settleOldStream_slots { s with pai := { s.pai with pairGen := gen } }).2.1

/-- The transmitter of a stream that begins, before its walk and its first frame. -/
def mirOnPath (s : State) : Mir :=
  { s.mir with
    stream := .opened, dirty := [], replay := [], replayCount := 0, replayTimer := .stopped, gapLatch := none, openFrame := none
    dataPath := pathBegun s, suspendedPrimary := false, suspendedSecondary := false, revertElapsed := 0 }

/-- The stream made OPEN. -/
def madeOpen (u : State) : State := { u with mir := { u.mir with stream := .opened } }

/-- The path of an opening (R98). -/
def openedPath (u : State) : State :=
  { madeOpen u with mir := { (madeOpen u).mir with dataPath := choosePath (madeOpen u) } }

theorem openedPath_begun {gen : Word32} {v : State} (r : Renumbered gen s v) :
    openedPath (endSuspensions v) = { v with mir := mirOnPath s } := by
  have path : choosePath (madeOpen (endSuspensions v)) = pathBegun s := choosePath_begun rfl r.pai r.cfg ⟨rfl, rfl⟩
  have mir : ({ v.mir with
      stream := .opened, suspendedPrimary := false, suspendedSecondary := false, revertElapsed := 0
      dataPath := pathBegun s } : Mir) = mirOnPath s := by
    rw [r.mir]
    rfl
  unfold openedPath
  rw [path, ← mir]
  rfl

/-- The path of a restart (R85; log entry 20). -/
theorem restartedPath_begun {gen : Word32} {v : State} (r : Renumbered gen s v) (opened : s.mir.stream = .opened) :
    rechoose (endSuspensions v) = restartMoves s { v with mir := mirOnPath s } := by
  have settled : endSuspensions v = { v with mir := { mirOnPath s with dataPath := s.mir.dataPath } } := by
    unfold endSuspensions mirOnPath
    rw [r.mir, ← opened]
  have path : choosePath (endSuspensions v) = pathBegun s := by
    rw [settled]
    exact choosePath_begun rfl r.pai r.cfg ⟨rfl, rfl⟩
  rw [settled] at path ⊢
  rw [rechoose_idle rfl rfl rfl rfl rfl, path]
  unfold restartMoves
  by_cases same : pathBegun s = s.mir.dataPath
  · rw [if_pos same, if_neg fun c => c.2 same.symm, ← same]
    rfl
  · rw [if_neg same, if_pos ⟨opened, fun e => same e.symm⟩]
    rfl

/-- The walk and the first frame of a stream that begins (R85). -/
def walkBegun (u : State) : State :=
  { u with mir := { u.mir with
    nextSeq := 0#16, sinceCheckpoint := 0, walk := .walking, cursor := 0, turn := .liveFirst
    openFrame := some (bulkBeginFrame u) } }

theorem walkBegun_moves {gen : Word32} {v : State} (r : Renumbered gen s v) :
    walkBegun (restartMoves s { v with mir := mirOnPath s }) = restartMoves s { v with mir := mirBegun s } := by
  have frame (u : State) (count : u.tbl.liveCount = s.tbl.liveCount) (cfg : u.cfg = s.cfg) (mir : u.mir = mirOnPath s) :
      walkBegun u = { u with mir := mirBegun s } := by
    unfold walkBegun bulkBeginFrame mirBegun
    rw [count, cfg, mir]
    rfl
  unfold restartMoves
  split
  · exact frame _ r.count r.cfg rfl
  · exact frame _ r.count r.cfg rfl

theorem beginStream_walks (gen : Word32) (s : State) : beginStream gen s = raise .bulk (bump .streamStart (walkBegun
    (if s.mir.stream = .closed then openedPath (endSuspensions (renumbered gen s))
      else rechoose (endSuspensions (renumbered gen s))))) := rfl

/-- A stream that begins: the old generation is settled, and the new one starts from the beginning. -/
theorem beginStream_eq (gen : Word32) (s : State) : beginStream gen s =
    raise .bulk (bump .streamStart (restartMoves s { renumbered gen s with mir := mirBegun s })) := by
  have r := renumbered_renumbered gen s
  rw [beginStream_walks, ← walkBegun_moves r]
  by_cases closed : s.mir.stream = .closed
  · have stays : ¬ (s.mir.stream = .opened ∧ s.mir.dataPath ≠ pathBegun s) := fun c => by rw [closed] at c; cases c.1
    rw [if_pos closed, openedPath_begun r, restartMoves, if_neg stays]
  · have opened : s.mir.stream = .opened := by
      cases h : s.mir.stream with
      | closed => exact absurd h closed
      | opened => rfl
    rw [if_neg closed, restartedPath_begun r opened]

/-! ## The whole -/

/-- PATH of a restart that moves the stream, and BULK. -/
def beginFlags (s : State) : BitVec 9 :=
  (if s.mir.stream = .opened ∧ s.mir.dataPath ≠ pathBegun s then Flag.path.bitmap else 0#9) ||| Flag.bulk.bitmap

theorem beginFlags_bulk (s : State) : (beginFlags s).getLsbD Flag.bulk.bit = true := by
  rw [beginFlags, BitVec.getLsbD_or, show Flag.bulk.bitmap.getLsbD Flag.bulk.bit = true by decide, Bool.or_true]

theorem beginFlags_path (s : State) :
    (beginFlags s).getLsbD Flag.path.bit = decide (s.mir.stream = .opened ∧ s.mir.dataPath ≠ pathBegun s) := by
  unfold beginFlags
  split
  · next moves => rw [decide_eq_true moves]; decide
  · next stays => rw [decide_eq_false stays]; decide

/-- A flag that is not that of a class does not rise with its errors. -/
theorem flagOf_other {f g : Flag} (other : f.bitmap.getLsbD g.bit = false) (es : List (ErrCode × ErrInfo)) :
    (flagOf es f).getLsbD g.bit = false := by
  unfold flagOf
  split
  · exact BitVec.getLsbD_zero
  · exact other

/-- What a stream that begins hands over and reports. -/
theorem beginStream_adds (gen : Word32) (s : State) :
    Adds ((s.hold.map HoldEntry.frame).take (128 - s.prt.wQueue.length)) []
      (portErrors 2 ((s.hold.map HoldEntry.frame).drop (128 - s.prt.wQueue.length)) ++ flushErrors s.hold) [] (beginFlags s)
      (fun c => only .wTxDrop ((s.hold.map HoldEntry.frame).drop (128 - s.prt.wQueue.length)).length c +
        s.hold.length * (only .holdRelFlush 1 c + only .hitFwd 1 c) + only .streamStart 1 c) s (beginStream gen s) := by
  have settled : AddsNothing s { s with pai := { s.pai with pairGen := gen } } := Adds.none rfl rfl ⟨rfl, rfl⟩
  have old := ((settleOldStream_adds { s with pai := { s.pai with pairGen := gen } }).after settled).before
    (u := { renumbered gen s with mir := mirBegun s }) (Adds.none rfl rfl ⟨rfl, rfl⟩)
  have moved : Adds [] [] [] [] (if s.mir.stream = .opened ∧ s.mir.dataPath ≠ pathBegun s then Flag.path.bitmap else 0#9)
      (fun _ => 0) { renumbered gen s with mir := mirBegun s } (restartMoves s { renumbered gen s with mir := mirBegun s }) := by
    unfold restartMoves
    split
    · exact raise_adds .path _
    · exact Adds.refl _
  rw [beginStream_eq]
  exact (((old.trans moved).trans (bump_adds .streamStart _)).trans (raise_adds .bulk _)).as (hf := by simp [beginFlags])

/-- What a stream that begins leaves beside what it hands over and reports. -/
theorem beginStream_state (gen : Word32) (s : State) :
    (beginStream gen s).mir = mirBegun s ∧ (beginStream gen s).tbl = (renumbered gen s).tbl ∧
    (beginStream gen s).hold = (renumbered gen s).hold ∧ (beginStream gen s).pai = { s.pai with pairGen := gen } := by
  rw [beginStream_eq, ← (renumbered_renumbered gen s).pai]
  unfold restartMoves
  split <;> exact ⟨rfl, rfl, rfl, rfl⟩

/-- All that an opening, or a restart of an OPEN stream, does. -/
theorem beginStream_begun (gen : Word32) (s : State) : StreamBegun gen s (beginStream gen s) := by
  obtain ⟨mir, tbl, hold, pai⟩ := beginStream_state gen s
  have adds := beginStream_adds gen s
  have reads (h : Nat) : recordOf (beginStream gen s) h = recordOf (renumbered gen s) h := by simp only [recordOf, tbl]
  have record {h : Nat} (hs : sparseSorted s.tbl.records = true) : recordOf (beginStream gen s) h =
      ungrouped (withoutSeq s.hold h (if (recordOf s h).handleState = .retired then freedRecord (recordOf s h).epoch
        else { recordOf s h with pending := .none })) :=
    (reads h).trans (recordOf_settleOldStream (s := { s with pai := { s.pai with pairGen := gen } }) hs h)
  exact {
    blocks := (beginStream_touches gen s).mono
    mir := mir
    pai := pai
    hold := hold.trans (settleOldStream_hold _)
    slots := by rw [tbl]; exact settleOldStream_slots { s with pai := { s.pai with pairGen := gen } }
    free := fun hs => by rw [tbl]; exact settleOldStream_free (s := { s with pai := { s.pai with pairGen := gen } }) hs
    live := fun hs h live => by
      rw [record hs, if_neg (by rw [live]; decide)]
      unfold ungrouped withoutSeq
      simp only [live, if_true, true_and]
    retired := fun hs h retired => by
      rw [record hs, if_pos retired]
      unfold ungrouped withoutSeq
      simp [freedRecord, Record.fresh]
    queues := by rw [adds.prt, List.append_nil]
    count := by rw [adds.count]; simp [only, Ctr.pos]
    counts := fun c hc => by
      have drop := hc .wTxDrop (by decide)
      have hit := hc .hitFwd (by decide)
      have flush := hc .holdRelFlush (by decide)
      have start := hc .streamStart (by decide)
      rw [adds.count]
      simp [only, satAdd32_zero, Ne.symm drop, Ne.symm hit, Ne.symm flush, Ne.symm start]
    bulk := by
      rw [adds.flags]
      simp only [BitVec.getLsbD_or, beginFlags_bulk, Bool.or_true, Bool.true_or]
    path := by
      rw [adds.flags]
      simp only [BitVec.getLsbD_or, beginFlags_path, flagOf_other (f := .errNote) (g := .path) (by decide),
        flagOf_other (f := .errLoss) (g := .path) (by decide), Bool.or_false]
    logs := by rw [adds.rest]; exact ⟨rfl, adds.loss, rfl⟩
    released := fun room => by
      rw [List.take_of_length_le (by rw [List.length_map]; omega), List.drop_of_length_le (by rw [List.length_map]; omega)] at adds
      refine ⟨by rw [adds.prt], by rw [adds.count]; simp [only, Ctr.pos], by rw [adds.count]; simp [only, Ctr.pos], ?_⟩
      rw [adds.note]
      cases s.hold <;> rfl }

end Sys2Proof.Machine
end

section
/-! SUPPORT. A COMPATIBLE hello taken (R125 to R128) and the refresh list of a standby peer's (R88); and the obligation about the
openings of the stream. -/

-- One proof at a time: proofs that wait for earlier checks would each take a thread.
set_option Elab.async false

namespace Sys2Proof.Machine

open Sys2Proof.Safety

variable {s t : State}

/-! ## A flag raised before or after (R182) -/

theorem raise_raise (f g : Flag) (s : State) : raise f (raise g s) = raise g (raise f s) := by
  unfold raise
  simp only [BitVec.or_assoc, BitVec.or_comm f.bitmap]

theorem raise_twice (f : Flag) (s : State) : raise f (raise f s) = raise f s := by
  unfold raise
  simp only [BitVec.or_assoc, BitVec.or_self]

theorem filed_raise (f : Flag) (c : ErrClass) (k : ErrCode) (i : ErrInfo) (s : State) :
    (raise f s).flt.setRecord c (((raise f s).flt.record c).report k i s.tim.seconds s.tim.ms) =
      { s.flt.setRecord c ((s.flt.record c).report k i s.tim.seconds s.tim.ms) with flags := s.flt.flags ||| f.bitmap } := by
  cases c <;> rfl

theorem report_raise (f : Flag) (k : ErrCode) (i : ErrInfo) (s : State) : report k i (raise f s) = raise f (report k i s) := by
  unfold report
  rw [raise_raise f]
  refine congrArg (raise k.cls.flag) ?_
  rw [show (raise f s).tim = s.tim from rfl, filed_raise]
  cases k.cls <;> rfl

theorem handToPort_raise (f : Flag) (port : Port) (fr : Frame) (s : State) :
    handToPort port fr (raise f s) = raise f (handToPort port fr s) := by
  unfold handToPort
  by_cases room : (s.prt.queue port).length < queueRoom port
  · rw [if_pos room, if_pos (show ((raise f s).prt.queue port).length < queueRoom port from room)]
    rfl
  · rw [if_neg room, if_neg (show ¬ ((raise f s).prt.queue port).length < queueRoom port from room)]
    exact report_raise f .prt1 _ (bump (dropCounter port) s)

theorem sendMirror_raise (f : Flag) (path : PathId) (b : List Byte) (s : State) :
    sendMirror path b (raise f s) = raise f (sendMirror path b s) := by
  cases path with
  | primary => exact handToPort_raise f .s _ s
  | secondary =>
    unfold sendMirror
    by_cases tunnel : s.cfg.tunnelEnable = true
    · rw [if_pos tunnel, if_pos (show (raise f s).cfg.tunnelEnable = true from tunnel)]
      exact handToPort_raise f .w _ s
    · rw [if_neg tunnel, if_neg (show ¬ (raise f s).cfg.tunnelEnable = true from tunnel)]

theorem retransmitOn_raise (f : Flag) (path : Option PathId) (s : State) :
    retransmitOn path (raise f s) = raise f (retransmitOn path s) := by
  have again (p : PathId) (l : List DataFrame) (u : State) : l.foldl (fun s d => sendMirror p (dataBytes d) s) (raise f u) =
      raise f (l.foldl (fun s d => sendMirror p (dataBytes d) s) u) := by
    induction l generalizing u with
    | nil => rfl
    | cons d l ih => rw [List.foldl_cons, List.foldl_cons, sendMirror_raise, ih]
  cases path with
  | none => rfl
  | some p =>
    rw [retransmitOn_some, retransmitOn_some, raise_mir, again]
    rfl

/-- A path chosen anew does not read the flags. -/
theorem rechoose_raise (f : Flag) (s : State) : rechoose (raise f s) = raise f (rechoose s) := by
  by_cases same : choosePath s = s.mir.dataPath
  · rw [rechoose_same same, rechoose_same (show choosePath (raise f s) = (raise f s).mir.dataPath from same)]
  · cases stream : s.mir.stream with
    | closed =>
      unfold rechoose
      simp only [show choosePath (raise f s) = choosePath s from rfl, raise_mir, if_neg same, stream, if_true]
      rfl
    | opened =>
      rw [rechoose_changed stream same, rechoose_changed (s := raise f s) stream same, raise_raise f .path,
        show onPath (choosePath (raise f s)) (raise f s) = raise f (onPath (choosePath s) s) from rfl,
        show choosePath (raise f s) = choosePath s from rfl, retransmitOn_raise]
      rfl

/-! ## A path chosen anew -/

/-- What a path chosen anew leaves of the transmitter (R98). -/
theorem rechoose_mir (s : State) : (rechoose s).mir = { s.mir with
    dataPath := (rechoose s).mir.dataPath, replayCount := (rechoose s).mir.replayCount
    gapLatch := (rechoose s).mir.gapLatch, replayTimer := (rechoose s).mir.replayTimer } := by
  have sent (p : Option PathId) (u : State) : (retransmitOn p u).mir = u.mir := retransmitOn_touches p u .mir (by decide)
  unfold rechoose
  simp only
  split
  · rfl
  · split
    · rfl
    · simp only [raise_mir, restartReplayTimer, sent]

/-! ## A COMPATIBLE hello on its path (R125 to R128) -/

/-- A path's judgment latched as COMPATIBLE. -/
def judged (path : PathId) (s : State) : State :=
  { s with pai := s.pai.setPath path { s.pai.path path with judgment := .compatible } }

/-- PEER rises but when a condition holds. -/
def peerUnless (same : Prop) [Decidable same] (s : State) : State := if same then s else raise .peer s

theorem peerUnless_twice (a b : Prop) [Decidable a] [Decidable b] (s : State) :
    peerUnless a (peerUnless b s) = peerUnless (b ∧ a) s := by
  unfold peerUnless
  by_cases ha : a <;> by_cases hb : b <;> simp [ha, hb, raise_twice]

theorem latchJudgment_compatible (path : PathId) (s : State) :
    latchJudgment path .compatible s = peerUnless ((s.pai.path path).judgment = .compatible) (judged path s) := by
  unfold latchJudgment peerUnless
  split
  · next same =>
    cases path <;> simp only [judged, Pai.path, Pai.setPath] at same ⊢ <;> rw [← same]
  · rfl

theorem peerUnless_cases {P : State → Prop} {a : Prop} [Decidable a] {s : State} (stays : P s) (rises : P (raise .peer s)) :
    P (peerUnless a s) := by
  unfold peerUnless
  split
  · exact stays
  · exact rises

/-- The peer record replaced. -/
def withPeer (peer : Option PeerRecord) (s : State) : State := { s with pai := { s.pai with peer := peer } }

/-- A path that is UP by a hello, its dead timer restarted. -/
def heardOn (path : PathId) (s : State) : State :=
  { s with pai := (s.pai.setPath path
    { s.pai.path path with up := true, deadTimer := .running (deadInterval s), seen := true }) }

/-- The revert timer of a suspended primary, restarted when the primary comes UP (R100). -/
def revertRestarted (path : PathId) (s : State) : State :=
  { s with mir := { s.mir with
    revertElapsed := if path = .primary ∧ s.mir.suspendedPrimary = true then 0 else s.mir.revertElapsed } }

theorem helloOnPath_up {path : PathId} (up : (s.pai.path path).up = true) : helloOnPath path s = heardOn path s :=
  if_pos up

theorem helloOnPath_down {path : PathId} (down : ¬ (s.pai.path path).up = true) :
    helloOnPath path s = rechoose (raise .path (revertRestarted path (heardOn path s))) := by
  have restarts (c : Prop) [Decidable c] (u : State) : (if c then { u with mir := { u.mir with revertElapsed := 0 } } else u) =
      { u with mir := { u.mir with revertElapsed := if c then 0 else u.mir.revertElapsed } } := by
    split <;> rfl
  exact (if_neg down).trans (congrArg (fun u => rechoose (raise .path u)) (restarts _ (heardOn path s)))

/-- A hello on its path does not read the flags. -/
theorem helloOnPath_raise (f : Flag) (path : PathId) (s : State) :
    helloOnPath path (raise f s) = raise f (helloOnPath path s) := by
  by_cases up : (s.pai.path path).up = true
  · rw [helloOnPath_up up, helloOnPath_up (show ((raise f s).pai.path path).up = true from up)]
    rfl
  · rw [helloOnPath_down up, helloOnPath_down (show ¬ ((raise f s).pai.path path).up = true from up), ← rechoose_raise,
      raise_raise f]
    rfl

/-- A COMPATIBLE hello that comes to a path, its judgment latched, and the peer record it leaves. -/
theorem helloOnPath_noted (path : PathId) (h : Hello) (peer : Option PeerRecord) (s : State) :
    withPeer peer (helloOnPath path (noteHello h (judged path s))) = helloNoted path h peer s := by
  unfold helloNoted
  by_cases up : (s.pai.path path).up = true
  · rw [helloOnPath_up (by cases path <;> exact up)]
    simp only [if_pos up]
    cases path <;> rfl
  · rw [helloOnPath_down (by cases path <;> exact up)]
    simp only [if_neg up]
    cases path <;> rfl

theorem rechoose_pai (s : State) : (rechoose s).pai = s.pai := rechoose_touches s .pai (by decide)

theorem helloOnPath_pai (path : PathId) (s : State) : (helloOnPath path s).pai = (heardOn path s).pai := by
  by_cases up : (s.pai.path path).up = true
  · rw [helloOnPath_up up]
  · rw [helloOnPath_down up, rechoose_pai]
    rfl

/-- A path governs when it is the primary, or when the primary is DOWN (R127). -/
theorem governingPath_heard {path : PathId} (governs : path = .primary ∨ s.pai.primary.up = false) :
    governingPath (helloOnPath path s) = path := by
  unfold governingPath
  rw [helloOnPath_pai]
  cases path with
  | primary => rfl
  | secondary =>
    obtain ⟨⟨⟩⟩ | down := governs
    exact if_neg (by rw [show (heardOn .secondary s).pai.primary.up = false from down]; decide)

theorem watchPeer_peerUnless (before s : State) :
    watchPeer before s = peerUnless (peerPresent before = peerPresent s ∧ peerUsable before = peerUsable s) s := rfl

/-- What a hello on its path leaves, with PEER as a condition says. -/
theorem helloTaken_eq {path : PathId} (h : Hello) (governs : path = .primary ∨ s.pai.primary.up = false) :
    helloTaken path h s =
      let noted := helloNoted path h (some { hello := h, path := path }) (arrived path s)
      peerUnless ((s.pai.path path).judgment = .compatible ∧ peerPresent s = peerPresent noted ∧ peerUsable s = peerUsable noted)
        noted := by
  unfold helloTaken peerUnless
  simp only [if_pos governs]
  split <;> rfl

/-- Presence and usability do not read the flags. -/
theorem peerUnless_seen (c : Prop) [Decidable c] (s : State) :
    peerPresent (peerUnless c s) = peerPresent s ∧ peerUsable (peerUnless c s) = peerUsable s :=
  peerUnless_cases (P := fun u => peerPresent u = peerPresent s ∧ peerUsable u = peerUsable s) ⟨rfl, rfl⟩ ⟨rfl, rfl⟩

/-- Nor do they read a judgment. -/
theorem latched_seen (path : PathId) (s : State) : peerPresent (latchJudgment path .compatible s) = peerPresent s ∧
    peerUsable (latchJudgment path .compatible s) = peerUsable s := by
  rw [latchJudgment_compatible, (peerUnless_seen _ _).1, (peerUnless_seen _ _).2]
  cases path <;> exact ⟨rfl, rfl⟩

/-- A hello whose judgment was latched before: the PEER of the latch stands beside what the hello does on its path. -/
theorem heard_latched (path : PathId) (h : Hello) (peer : Option PeerRecord) (s : State) :
    withPeer peer (helloOnPath path (noteHello h (latchJudgment path .compatible s))) =
      peerUnless ((s.pai.path path).judgment = .compatible) (helloNoted path h peer s) := by
  rw [latchJudgment_compatible, ← helloOnPath_noted]
  unfold peerUnless
  split
  · rfl
  · exact congrArg (withPeer peer) (helloOnPath_raise .peer path (noteHello h (judged path s)))

theorem governingPath_latched {path : PathId} (h : Hello) (governs : path = .primary ∨ s.pai.primary.up = false) :
    governingPath (helloOnPath path (noteHello h (latchJudgment path .compatible s))) = path := by
  refine governingPath_heard (governs.imp_right fun down => ?_)
  rw [latchJudgment_compatible]
  refine peerUnless_cases (P := fun u => (noteHello h u).pai.primary.up = false) ?_ ?_ <;> cases path <;> exact down

/-- A COMPATIBLE hello on the governing path: what it updates, and then the stream and the role. -/
theorem takeHello_governs {path : PathId} (h : Hello) (governs : path = .primary ∨ s.pai.primary.up = false) :
    takeHello path h (latchJudgment path .compatible (arrived path s)) = governHello path h (helloTaken path h s) := by
  have before := latched_seen path (arrived path s)
  unfold takeHello
  rw [if_pos (governingPath_latched (s := arrived path s) h governs), helloTaken_eq h governs, watchPeer_peerUnless]
  have heard := heard_latched path h (some { hello := h, path := path }) (arrived path s)
  unfold withPeer at heard
  simp only [heard, peerUnless_twice, (peerUnless_seen _ _).1, (peerUnless_seen _ _).2, before.1, before.2]
  rfl

theorem receiveHello_governs {path : PathId} {p : List Byte} (judge : judgeHello s (readHello p) (p.length - 38) = .compatible)
    (governs : path = .primary ∨ s.pai.primary.up = false) :
    receiveHello path p (arrived path s) = governHello path (readHello p) (helloTaken path (readHello p) s) := by
  have judged : judgeHello (arrived path s) (readHello p) (p.length - 38) = .compatible := judge
  unfold receiveHello
  simp only [judged, if_true]
  exact takeHello_governs (readHello p) governs

/-- What a hello on its path leaves of the transmitter, the table and the role (R126 to R128). -/
structure StreamStands (s t : State) : Prop where
  role   : t.pai.role = s.pai.role
  gen    : t.pai.pairGen = s.pai.pairGen
  stream : t.mir.stream = s.mir.stream
  dirty  : t.mir.dirty = s.mir.dirty
  tbl    : t.tbl = s.tbl

theorem helloNoted_stands (path : PathId) (h : Hello) (peer : Option PeerRecord) (s : State) :
    StreamStands s (helloNoted path h peer s) := by
  rw [← helloOnPath_noted]
  by_cases up : ((noteHello h (judged path s)).pai.path path).up = true
  · rw [helloOnPath_up up]
    cases path <;> exact ⟨rfl, rfl, rfl, rfl, rfl⟩
  · rw [helloOnPath_down up]
    generalize held : raise .path (revertRestarted path (heardOn path (noteHello h (judged path s)))) = u
    have mir := rechoose_mir u
    have same : StreamStands s u := by subst held; cases path <;> exact ⟨rfl, rfl, rfl, rfl, rfl⟩
    exact {
      role := (congrArg Pai.role (rechoose_pai u)).trans same.role
      gen := (congrArg Pai.pairGen (rechoose_pai u)).trans same.gen
      stream := (congrArg Mir.stream mir).trans same.stream
      dirty := (congrArg Mir.dirty mir).trans same.dirty
      tbl := (rechoose_touches u .tbl (by decide)).trans same.tbl }

theorem helloTaken_stands (path : PathId) (h : Hello) (s : State) : StreamStands s (helloTaken path h s) := by
  have noted := helloNoted_stands path h
    (if path = .primary ∨ s.pai.primary.up = false then some { hello := h, path := path } else s.pai.peer) (arrived path s)
  obtain ⟨role, gen, stream, dirty, tbl⟩ := noted
  exact ⟨role, gen, stream, dirty, tbl⟩

/-! ## A standby peer's hello (R84, R88) -/

/-- A hello of a standby part. -/
theorem standby_shown {h : Hello} (standby : h.role = 4#8 ∨ h.role = 5#8) :
    ∃ r, h.shownRole = some r ∧ (r = .standbySync ∨ r = .standbyReady) := by
  unfold Hello.shownRole
  rcases standby with e | e <;> rw [e]
  · exact ⟨_, rfl, .inl rfl⟩
  · exact ⟨_, rfl, .inr rfl⟩

theorem showsStandby_of {h : Hello} (standby : h.role = 4#8 ∨ h.role = 5#8) : h.showsStandby = true := by
  obtain ⟨r, shown, rfl | rfl⟩ := standby_shown standby <;> rw [Hello.showsStandby, shown] <;> rfl

/-- A standby peer's hello makes no role change in an active role that has a peer. -/
theorem governHello_standby {h : Hello} (path : PathId) (standby : h.role = 4#8 ∨ h.role = 5#8)
    (role : s.pai.role = .active ∨ s.pai.role = .takeover ∨ s.pai.role = .yielding) :
    governHello path h s = takeRefresh h (if opensStream s h then openStream h s else s) := by
  obtain ⟨r, shown, is⟩ := standby_shown standby
  have rule : helloRule s h r = none := by
    unfold helloRule
    rcases role with e | e | e <;> rw [e] <;> rcases is with rfl | rfl <;> rfl
  have mirror : mirrorHello s.pai.role h s = takeRefresh h (if opensStream s h then openStream h s else s) :=
    if_neg fun other => other (showsStandby_of standby)
  have latch (u : State) : latchActive h u = u := by
    refine if_neg fun both => ?_
    have active := both.2
    rw [Hello.showsActive, shown] at active
    rcases is with rfl | rfl <;> cases active
  unfold governHello
  simp only [shown, Option.bind_some, rule, latch, mirror]

/-- The conditions of R84 for a standby peer's hello. -/
theorem opensStream_standby {h : Hello} (standby : h.role = 4#8 ∨ h.role = 5#8)
    (role : s.pai.role = .active ∨ s.pai.role = .takeover ∨ s.pai.role = .yielding) :
    opensStream s h = true ↔ h.flags.getLsbD 0 = true ∧ (s.mir.stream = .closed ∨ h.adoptedGen = s.pai.pairGen) := by
  have may : s.pai.role.mayStream = true := by rcases role with e | e | e <;> rw [e] <;> rfl
  simp [opensStream, may, showsStandby_of standby, Hello.bulkWanted]

/-! ## The next generation (R84) -/

theorem laterGen_ne (a b : Word32) : b ≠ laterGen a b + 1#32 := by
  unfold laterGen
  split
  · bv_omega
  · next first =>
    rintro rfl
    refine first ?_
    rw [seqAfter, show a + 1#32 - a = 1#32 by bv_omega]
    rfl

/-! ## The refresh list (R88) -/

/-- A record that a refresh marks: LIVE, and not one whose removal is pending. -/
def Marks (r : Record) : Prop := r.handleState = .live ∧ r.pending ≠ .remove

/-- The handles of a list marked CREATE from s to u, `new` the ones that join the dirty list. -/
structure Refreshed (l new : List Nat) (s u : State) : Prop where
  state  : u = { s with
    mir := { s.mir with dirty := s.mir.dirty ++ new }
    tbl := { s.tbl with records := u.tbl.records } }
  nodup  : new.Nodup
  order  : new.Sublist l
  joins  : ∀ k, k ∈ new ↔ k ∈ l ∧ (recordOf s k).handleState = .live ∧ (recordOf s k).pending = .none
  marked : ∀ k, k ∈ l ∧ Marks (recordOf s k) → recordOf u k = { recordOf s k with pending := .create }
  kept   : ∀ k, ¬ (k ∈ l ∧ Marks (recordOf s k)) → recordOf u k = recordOf s k

theorem Refreshed.stream {l new : List Nat} {u : State} (r : Refreshed l new s u) : u.mir.stream = s.mir.stream := by
  rw [r.state]

theorem Refreshed.nil (s : State) : Refreshed [] [] s s where
  state := by rw [List.append_nil]
  nodup := List.nodup_nil
  order := List.Sublist.refl []
  joins := by simp
  marked := by simp
  kept := fun _ _ => rfl

/-- A handle of the first list is marked before the second is taken, so that it does not join again. -/
theorem Refreshed.append {l l' new new' : List Nat} {u v : State} (r : Refreshed l new s u) (r' : Refreshed l' new' u v) :
    Refreshed (l ++ l') (new ++ new') s v := by
  have marks {k : Nat} (m : k ∈ l ∧ Marks (recordOf s k)) : Marks (recordOf u k) := by
    rw [r.marked k m]; exact ⟨m.2.1, nofun⟩
  exact {
    state := by rw [r'.state, r.state, List.append_assoc]
    nodup := by
      refine List.nodup_append.2 ⟨r.nodup, r'.nodup, fun k first j second => ?_⟩
      rintro rfl
      obtain ⟨listed, live, none⟩ := (r.joins k).1 first
      have pending := ((r'.joins k).1 second).2.2
      rw [r.marked k ⟨listed, live, by rw [none]; decide⟩] at pending
      cases pending
    order := r.order.append r'.order
    joins := fun k => by
      rw [List.mem_append, r.joins, r'.joins, List.mem_append]
      by_cases m : k ∈ l ∧ Marks (recordOf s k)
      · rw [r.marked k m]
        simp [m.1]
      · rw [r.kept k m]
        tauto
    marked := fun k m => by
      by_cases first : k ∈ l ∧ Marks (recordOf s k)
      · by_cases second : k ∈ l' ∧ Marks (recordOf u k)
        · rw [r'.marked k second, r.marked k first]
        · rw [r'.kept k second, r.marked k first]
      · have listed : k ∈ l' := (List.mem_append.1 m.1).resolve_left fun listed => first ⟨listed, m.2⟩
        have same := r.kept k first
        rw [r'.marked k ⟨listed, by rw [same]; exact m.2⟩, same]
    kept := fun k m => by
      have same := r.kept k fun first => m ⟨List.mem_append_left l' first.1, first.2⟩
      rw [r'.kept k fun second => m ⟨List.mem_append_right l second.1, by rw [← same]; exact second.2⟩, same] }

/-- A handle that a refresh leaves: not LIVE, or its CREATE or its REMOVE already waits. -/
theorem Refreshed.left {k : Nat} (left : (recordOf s k).handleState = .live → (recordOf s k).pending = .create ∨
    (recordOf s k).pending = .remove) : Refreshed [k] [] s s where
  state := by rw [List.append_nil]
  nodup := List.nodup_nil
  order := List.nil_sublist _
  joins := fun j => by
    refine ⟨nofun, fun ⟨listed, live, pending⟩ => ?_⟩
    obtain rfl := List.mem_singleton.1 listed
    rw [pending] at left
    rcases left live with e | e <;> cases e
  marked := fun j ⟨listed, live, other⟩ => by
    obtain rfl := List.mem_singleton.1 listed
    rw [← (left live).resolve_right other]
  kept := fun _ _ => rfl

theorem recordOf_setPending {k : Nat} (live : (recordOf s k).handleState = .live) (p : Pending) (j : Nat) :
    recordOf (setPending k p s) j = if j = k then { recordOf s k with pending := p } else recordOf s j :=
  recordOf_setRecord_listed (live_listed (r := { recordOf s k with pending := p }) live) s j

/-- A LIVE record whose mark becomes CREATE, `new` the handle when it had none. -/
theorem Refreshed.set {k : Nat} (live : (recordOf s k).handleState = .live) {new : List Nat}
    (mark : new = [k] ∧ (recordOf s k).pending = .none ∨ new = [] ∧ (recordOf s k).pending = .update) :
    Refreshed [k] new s { setPending k .create s with mir := { s.mir with dirty := s.mir.dirty ++ new } } where
  state := rfl
  nodup := by rcases mark with ⟨rfl, _⟩ | ⟨rfl, _⟩ <;> simp
  order := by rcases mark with ⟨rfl, _⟩ | ⟨rfl, _⟩ <;> simp
  joins := fun j => by
    rcases mark with ⟨rfl, pending⟩ | ⟨rfl, pending⟩
    · refine ⟨fun listed => ⟨listed, ?_⟩, And.left⟩
      obtain rfl := List.mem_singleton.1 listed
      exact ⟨live, pending⟩
    · refine ⟨nofun, fun ⟨listed, _, bare⟩ => ?_⟩
      obtain rfl := List.mem_singleton.1 listed
      rw [pending] at bare
      cases bare
  marked := fun j m => by
    obtain rfl := List.mem_singleton.1 m.1
    exact (recordOf_setPending live .create j).trans (if_pos rfl)
  kept := fun j m => by
    refine (recordOf_setPending live .create j).trans (if_neg ?_)
    rintro rfl
    refine m ⟨List.mem_singleton_self j, live, ?_⟩
    rcases mark with ⟨_, pending⟩ | ⟨_, pending⟩ <;> rw [pending] <;> decide

/-- One handle of a refresh list (R88). -/
theorem markRefresh_refreshed (opened : s.mir.stream = .opened) (h : Word16) :
    ∃ new, Refreshed [h.toNat] new s (markRefresh s h) := by
  unfold markRefresh
  by_cases live : (recordOf s h.toNat).handleState = .live
  · rw [if_pos live]
    unfold markDirty
    rw [if_neg (by rw [opened]; decide)]
    cases pending : (recordOf s h.toNat).pending with
    | none => exact ⟨[h.toNat], .set live (.inl ⟨rfl, pending⟩)⟩
    | update =>
      have set := Refreshed.set live (.inr ⟨rfl, pending⟩)
      rw [List.append_nil] at set
      exact ⟨[], set⟩
    | create => exact ⟨[], .left fun _ => .inl pending⟩
    | remove => exact ⟨[], .left fun _ => .inr pending⟩
  · rw [if_neg live]
    exact ⟨[], .left fun c => absurd c live⟩

theorem refresh_refreshed (l : List Word16) (s : State) (opened : s.mir.stream = .opened) :
    ∃ new, Refreshed (l.map BitVec.toNat) new s (l.foldl markRefresh s) := by
  induction l generalizing s with
  | nil => exact ⟨[], .nil s⟩
  | cons h l ih =>
    obtain ⟨first, marked⟩ := markRefresh_refreshed opened h
    obtain ⟨new, rest⟩ := ih (markRefresh s h) (marked.stream.trans opened)
    exact ⟨first ++ new, marked.append rest⟩

/-! ## The whole -/

/-- A stream begun takes no refresh list: its generation is later than any the hello shows. -/
theorem takeRefresh_begun {h : Hello} {gen : Word32} (other : h.adoptedGen ≠ gen) (s : State) :
    takeRefresh h (beginStream gen s) = beginStream gen s := by
  refine if_neg fun current => other (current.2.trans ?_)
  rw [(beginStream_begun gen s).pai]

/-- The event of a standby peer's hello that governs. -/
theorem standbyHello_event {path : PathId} {c : Instr} {p : List Byte} (a : Arrives path s c p) (type : byteAt p 0 = 1#8)
    (judge : judgeHello s (readHello p) (p.length - 38) = .compatible)
    (role : s.pai.role = .active ∨ s.pai.role = .takeover ∨ s.pai.role = .yielding)
    (standby : (readHello p).role = 4#8 ∨ (readHello p).role = 5#8) (governs : path = .primary ∨ s.pai.primary.up = false) :
    let w := helloTaken path (readHello p) s
    ∃ f, exec c s = .next (event f s) ∧
      f s = takeRefresh (readHello p) (if opensStream w (readHello p) then openStream (readHello p) w else w) := by
  obtain ⟨f, acts, runs⟩ := arrives_event a (by rcases role with e | e | e <;> rw [e] <;> decide)
  refine ⟨f, runs, acts.trans ?_⟩
  have dispatch : mirrorDispatch path p (arrived path s) = receiveHello path p (arrived path s) := by
    unfold mirrorDispatch
    rw [type]
    rfl
  rw [dispatch, receiveHello_governs judge governs]
  exact governHello_standby path standby (by rw [(helloTaken_stands path (readHello p) s).role]; exact role)

end Sys2Proof.Machine

namespace Sys2Proof.Proofs

open Sys2Proof.Safety Sys2Proof.Machine

/-- Settles O32: such a hello makes no role change, so that all it does is the opening or the refresh (`governHello_standby`); a
stream it begins is of a later generation than its refresh list (`laterGen_ne`). -/
theorem openingBeginsAStream : Obligations.OpeningBeginsAStream := by
  intro path s c p a type h judge role standby governs _ w wanted current gen
  obtain ⟨f, runs, acts⟩ := standbyHello_event a type judge role standby governs
  have stands : StreamStands s w := helloTaken_stands path h s
  have opens : opensStream w h = true ↔ wanted ∧ (s.mir.stream = .closed ∨ current) := by
    have opens := opensStream_standby (s := w) standby (by rw [stands.role]; exact role)
    rwa [stands.stream, stands.gen] at opens
  have next : nextGen w h = gen := by unfold nextGen; rw [stands.gen]
  have later : h.adoptedGen ≠ gen := laterGen_ne _ _
  have apart : ¬ (s.mir.stream = .closed ∧ s.mir.stream = .opened) := fun both => by rw [both.1] at both; cases both.2
  refine ⟨fun want closed => ?_, fun want opened cur => ?_, fun idle opened cur => ?_, fun rest => ?_⟩
  · refine ⟨_, _, beginStream_begun gen w, runs, event_becomes (acts.trans ?_)⟩
    rw [if_pos (opens.2 ⟨want, .inl closed⟩), openStream, if_pos (stands.stream.trans closed), next]
    exact takeRefresh_begun later w
  · refine ⟨_, _, beginStream_begun gen _, runs, event_becomes (acts.trans ?_)⟩
    rw [if_pos (opens.2 ⟨want, .inr cur⟩), openStream, if_neg (by rw [stands.stream, opened]; decide), next]
    exact takeRefresh_begun later _
  · obtain ⟨new, r⟩ := refresh_refreshed h.refresh w (stands.stream.trans opened)
    have record (k : Nat) : recordOf w k = recordOf s k := by unfold recordOf; rw [stands.tbl]
    have state := r.state
    rw [stands.dirty, stands.tbl] at state
    refine ⟨_, _, new, runs, event_becomes (acts.trans ?_), state, r.nodup, r.order, fun k => ?_, fun k => ?_⟩
    · rw [if_neg fun o => idle (opens.1 o).1]
      exact if_pos ⟨stands.stream.trans opened, cur.trans stands.gen.symm⟩
    · rw [r.joins, record]
    · rw [← record]
      split
      · next m => exact r.marked k m
      · next m => exact r.kept k m
  · refine ⟨_, runs, event_becomes (acts.trans ?_)⟩
    rw [if_neg fun o => ?_]
    · refine if_neg fun m => ?_
      rw [stands.stream, stands.gen] at m
      rcases rest with ⟨_, closed⟩ | ⟨_, other⟩
      · exact apart ⟨closed, m.1⟩
      · exact other m.2
    · obtain ⟨want, cur⟩ := opens.1 o
      rcases rest with ⟨idle, _⟩ | ⟨opened, other⟩
      · exact idle want
      · rcases cur with closed | cur
        · exact apart ⟨closed, opened⟩
        · exact other cur

end Sys2Proof.Proofs
end

section
/-! SUPPORT. The dead timer of a path (R126): the path DOWN, and the peer lost at the last one (R86, R128); and the obligation about
it. -/

-- One proof at a time: proofs that wait for earlier checks would each take a thread.
set_option Elab.async false

namespace Sys2Proof.Machine

open Sys2Proof.Safety

variable {s t : State}

/-! ## A close after a path was chosen (R86) -/

/-- A close does not read what it clears of the transmitter. -/
theorem closeStream_mir_eq (r : Role) {m : Mir} (opened : s.mir.stream = .opened) (stays : m.stream = .opened)
    (clears : mirClosed m = mirClosed s.mir) : closeStream r { s with mir := m } = closeStream r s := by
  obtain ⟨u, closes, state, tbl⟩ := closeStream_eq r s (by rw [opened]; decide)
  obtain ⟨v, closes', state', tbl'⟩ := closeStream_eq r { s with mir := m } (by rw [stays]; decide)
  have same : v = u := by
    rw [state, state', tbl, tbl', clears]
    rfl
  rw [closes, closes', same]

/-- With no path left, the path chosen anew makes no difference to a close, but for PATH. -/
theorem closeStream_rechoose (r : Role) (opened : s.mir.stream = .opened) (none : choosePath s = none)
    (raised : raise .path s = s) : closeStream r (rechoose s) = closeStream r s := by
  by_cases same : choosePath s = s.mir.dataPath
  · rw [rechoose_same same]
  · have moved : rechoose s = { s with mir := (rechoose s).mir } := by
      rw [rechoose_changed opened same, none]
      conv_rhs => rw [← raised]
      rfl
    rw [moved]
    refine closeStream_mir_eq r opened ((rechoose_leaves s).1.trans opened) ?_
    rw [rechoose_mir]
    rfl

/-! ## The path DOWN (R126) -/

/-- A path DOWN by its dead timer, with PAI4 and PATH. -/
def pathLost (path : PathId) (s : State) : State :=
  raise .path (report .pai4 (ErrInfo.ofPlace (pathPlace path))
    { s with pai := s.pai.setPath path { s.pai.path path with up := false, deadTimer := .stopped } })

theorem peerPresent_up {path : PathId} (up : (s.pai.path path).up = true) : peerPresent s = true := by
  unfold peerPresent
  cases path with
  | primary => rw [show s.pai.primary.up = true from up]; rfl
  | secondary => rw [show s.pai.secondary.up = true from up, Bool.or_true]

/-- Presence and usability read the paths and the peer record alone. -/
theorem seen_of_pai {u : State} (pai : u.pai = t.pai) : peerPresent u = peerPresent t ∧ peerUsable u = peerUsable t := by
  unfold peerUsable peerRole peerPresent
  rw [pai]
  exact ⟨rfl, rfl⟩

theorem peerUsable_pathLost (path : PathId) (same : peerPresent (pathLost path s) = peerPresent s) :
    peerUsable (pathLost path s) = peerUsable s := by
  unfold peerUsable
  rw [same]
  cases path <;> rfl

theorem pathDown_eq (path : PathId) (s : State) : pathDown path s =
    let u := watchPeer s (rechoose (pathLost path s))
    if peerPresent s ∧ ¬ peerPresent u then losePeer u else u := rfl

/-- While the other path is UP, the peer stays. -/
theorem pathDown_stays {path : PathId} (up : (s.pai.path path).up = true) (other : peerPresent (pathLost path s) = true) :
    pathDown path s = rechoose (pathLost path s) := by
  have seen := seen_of_pai (rechoose_pai (pathLost path s))
  have same : peerPresent (pathLost path s) = peerPresent s := other.trans (peerPresent_up up).symm
  have watch : watchPeer s (rechoose (pathLost path s)) = rechoose (pathLost path s) :=
    if_pos ⟨same.symm.trans seen.1.symm, (peerUsable_pathLost path same).symm.trans seen.2.symm⟩
  rw [pathDown_eq]
  simp only [watch]
  exact if_neg fun lost => lost.2 (seen.1.trans other)

/-- At the last UP path the peer is lost. -/
theorem pathDown_loses {path : PathId} (up : (s.pai.path path).up = true) (other : peerPresent (pathLost path s) = false) :
    pathDown path s = losePeer (rechoose (raise .peer (pathLost path s))) := by
  have seen := (seen_of_pai (rechoose_pai (pathLost path s))).1.trans other
  have present := peerPresent_up up
  have watch : watchPeer s (rechoose (pathLost path s)) = rechoose (raise .peer (pathLost path s)) := by
    rw [rechoose_raise]
    refine if_neg fun same => ?_
    rw [present, seen] at same
    cases same.1
  rw [pathDown_eq]
  simp only [watch]
  refine if_pos ⟨present, ?_⟩
  rw [rechoose_raise, show peerPresent (raise .peer (rechoose (pathLost path s))) = false from seen]
  decide

/-! ## The peer lost (R86, R128) -/

/-- No path is left for the data. -/
theorem choosePath_absent (absent : peerPresent s = false) : choosePath s = none := by
  obtain ⟨primary, secondary⟩ := Bool.or_eq_false_iff.1 absent
  simp [choosePath, primary, secondary]

/-- What the stream is when the peer is lost: as it was when CLOSED, and else closed. -/
theorem lost_closes (r : Role) (quiet : closedIsQuiet s) (absent : peerPresent s = false) (raised : raise .path s = s) :
    (s.mir.stream = .closed → closeStream r (rechoose s) = s) ∧
    (s.mir.stream = .opened → StreamClosed r s (closeStream r (rechoose s))) := by
  have none := choosePath_absent absent
  refine ⟨fun closed => ?_, fun opened => ?_⟩
  · obtain ⟨_, _, _, _, path⟩ := quiet closed
    rw [rechoose_same (none.trans path.symm)]
    exact if_pos closed
  · rw [closeStream_rechoose r opened none raised]
    exact closeStream_closed r s (by rw [opened]; decide)

/-- The role change of a lost peer, if any. -/
theorem losePeer_changes {r : Role} (rule : lossRule s.pai.role = some (r, .peerLost)) :
    RoleChanged s.pai.role r .peerLost (closeStream r s) (losePeer s) := by
  have pai : (closeStream r s).pai = s.pai := closeStream_touches r s .pai (by decide)
  have changed := changeRole_changed r .peerLost (closeStream r s)
  rw [pai] at changed
  unfold losePeer
  rw [rule]
  exact changed

theorem losePeer_keeps (rule : lossRule s.pai.role = none) : losePeer s = closeStream s.pai.role s := by
  unfold losePeer
  rw [rule]

end Sys2Proof.Machine

namespace Sys2Proof.Proofs

open Sys2Proof.Safety Sys2Proof.Machine

/-- Settles O47: while the other path is UP the peer stays (`pathDown_stays`); at the last one the stream closes, where the path
chosen anew makes no difference (`lost_closes`), and the role goes by R133 and R135. -/
theorem deadTimerTakesThePathDown : Obligations.DeadTimerTakesThePathDown := by
  intro path s running due up down otherUp noted
  have isLost : noted = pathLost path s := by cases path <;> rfl
  have other : peerPresent (pathLost path s) = otherUp := by cases path <;> simp [peerPresent, pathLost, otherUp, Pai.setPath]
  have acts {u : State} (e : pathDown path s = u) :
      ∃ t, exec (.deadTimerExpiry path) s = .next t ∧ Noticed u t :=
    ⟨_, rfl, atTick_noticed running (due_running _ due) e⟩
  refine ⟨fun isUp => ?_, ?_⟩
  · rw [isLost]
    exact acts (pathDown_stays up (other.trans isUp))
  intro isDown safe lost closed moves
  have loses : pathDown path s = losePeer (rechoose lost) := by
    rw [pathDown_loses up (other.trans isDown), ← isLost]
  have role : (rechoose lost).pai.role = s.pai.role := by
    rw [rechoose_pai, show lost = raise .peer (pathLost path s) from congrArg (raise .peer) isLost]
    cases path <;> rfl
  have closes (r : Role) : closed r (closeStream r (rechoose lost)) := by
    rw [show lost = raise .peer (pathLost path s) from congrArg (raise .peer) isLost]
    refine lost_closes (s := raise .peer (pathLost path s)) r safe.quiet (other.trans isDown) ?_
    rw [raise_raise, pathLost, raise_twice]
  have goes {r : Role} (rule : lossRule s.pai.role = some (r, .peerLost)) : moves r := by
    obtain ⟨t, runs, becomes⟩ := acts loses
    have changed := losePeer_changes (s := rechoose lost) (by rw [role]; exact rule)
    rw [role] at changed
    exact ⟨_, _, t, closes r, runs, changed, becomes⟩
  refine ⟨fun standby => goes ?_, fun active => goes ?_, fun rest => ?_⟩
  · rcases standby with e | e <;> rw [e] <;> rfl
  · rcases active with e | e <;> rw [e] <;> rfl
  · have rule : lossRule (rechoose lost).pai.role = none := by
      rw [role]
      rcases rest with e | e | e | e <;> rw [e] <;> rfl
    have keeps := losePeer_keeps rule
    rw [role] at keeps
    obtain ⟨t, runs, becomes⟩ := acts (loses.trans keeps)
    exact ⟨_, t, closes s.pai.role, runs, becomes⟩

end Sys2Proof.Proofs
end

section
/-! SUPPORT. The drain of a YIELDING part (R101, R134): when DRAINED acts, and the hello of the YIELD flag; and the obligation about
it. -/

-- One proof at a time: proofs that wait for earlier checks would each take a thread.
set_option Elab.async false

namespace Sys2Proof.Machine

open Sys2Proof.Safety

variable {s : State}

theorem isDrained_iff (s : State) : isDrained s = true ↔
    s.mir.stream = .opened ∧ s.mir.dirty = [] ∧ s.mir.openFrame = none ∧ s.mir.walk = .idle ∧ s.mir.replay = [] := by
  simp [isDrained, and_assoc]

/-- When DRAINED acts in YIELDING (log entry 34). -/
theorem drainedActs_iff (yielding : s.pai.role = .yielding) :
    (s.pai.role == .yielding && !s.pai.yieldFlag && isDrained s) = true ↔ s.pai.yieldFlag = false ∧ isDrained s = true := by
  simp [yielding]

/-- A hello sent outside DETACHED stands last on an S-port with room (R2, R122). -/
theorem sendHello_sQueue (outside : s.pai.role ≠ .detached) (room : s.prt.sQueue.length < 80) :
    (sendHello s).prt.sQueue = s.prt.sQueue ++ [mirrorFrame .primary (helloBytes (buildHello s)) s] := by
  have one : helloOn .primary s.pai.role s = [mirrorFrame .primary (helloBytes (buildHello s)) s] :=
    if_neg fun c => c.elim outside fun tunnel => nomatch tunnel.1
  have fits : [mirrorFrame .primary (helloBytes (buildHello s)) s].take (80 - s.prt.sQueue.length) =
      [mirrorFrame .primary (helloBytes (buildHello s)) s] :=
    List.take_of_length_le (by rw [List.length_singleton]; omega)
  rw [(sendHello_adds s).prt, one, fits]

/-- The YIELD flag stands in the hello that is built while it is set (R123). -/
theorem buildHello_yieldFlag (flag : s.pai.yieldFlag = true) : (buildHello s).yieldFlag = true := by
  have set : flagBit s.pai.yieldFlag 1 = 2#8 := by rw [flag]; rfl
  unfold Hello.yieldFlag buildHello
  rw [set, BitVec.getLsbD_or, show (2#8).getLsbD 1 = true by decide, Bool.or_true]

end Sys2Proof.Machine

namespace Sys2Proof.Proofs

open Sys2Proof.Machine Sys2Proof.Safety

/-- Settles O49: DRAINED acts while the transmitter is drained and the flag clear (`drainedActs_iff`), and the drain timer when it
is due; the hello of either carries the flag. -/
theorem drainSetsTheYieldFlag : Obligations.DrainSetsTheYieldFlag := by
  intro s yielding flagged drained
  have acts := drainedActs_iff yielding
  refine ⟨fun clear isDrained => ?_, fun rests => ?_, fun running due => ?_, fun u room => ?_⟩
  · have due := acts.2 ⟨clear, (isDrained_iff s).2 isDrained⟩
    exact ⟨_, rfl, event_becomes (whenDue_true due setYieldFlag s)⟩
  · have idle : whenDue (s.pai.role == .yielding && !s.pai.yieldFlag && isDrained s) setYieldFlag s = s := by
      refine whenDue_false (Bool.eq_false_iff.2 fun due => ?_) setYieldFlag s
      obtain ⟨clear, isDrained⟩ := acts.1 due
      rcases rests with set | busy
      · rw [clear] at set; cases set
      · exact busy ((isDrained_iff s).1 isDrained)
    exact congrArg Host.Outcome.next (event_is idle rfl)
  · exact ⟨_, rfl, atTick_noticed running (due_running _ due) rfl⟩
  · have outside : s.pai.role ≠ .detached := by rw [yielding]; decide
    exact ⟨_, buildHello_yieldFlag rfl, sendHello_sQueue outside room⟩

end Sys2Proof.Proofs
end

section
/-! SUPPORT. Whole-queue retransmissions (R95, R97): the outstanding frames sent again, and what the limit does, said once,
`atReplayLimit_reached`; and the obligation about them. -/

-- One proof at a time: proofs that wait for earlier checks would each take a thread.
set_option Elab.async false

namespace Sys2Proof.Machine

open Sys2Proof.Safety

variable {s t : State}

/-! ## Outstanding frames sent again (R95, R97, R98) -/

/-- Every outstanding frame is sent again on a path that has room for them. -/
theorem retransmitOn_handed {path : Option PathId} (room : roomAgain path s) : retransmitOn path s = handedAgain path s := by
  cases path with
  | none => rfl
  | some p =>
    rw [retransmitOn_some]
    cases p with
    | primary => rw [resend_primary s.mir.replay s room]; rfl
    | secondary => rw [resend_secondary s.mir.replay s room.1 room.2]; rfl

theorem handedAgain_mir (path : Option PathId) (s : State) : (handedAgain path s).mir = s.mir := by
  rcases path with _ | _ | _ <;> rfl

theorem handedAgain_cfg (path : Option PathId) (s : State) : (handedAgain path s).cfg = s.cfg := by
  rcases path with _ | _ | _ <;> rfl

theorem handedAgain_flags (path : Option PathId) (s : State) : (handedAgain path s).flt.flags = s.flt.flags := by
  rcases path with _ | _ | _ <;> rfl

/-- Of the transmitter, frames sent again are all that is read. -/
theorem handedAgain_mirror (path : Option PathId) {m : Mir} (same : m.replay = s.mir.replay) :
    handedAgain path { s with mir := m } = { handedAgain path s with mir := m } := by
  unfold handedAgain
  rcases path with _ | _ | _ <;> simp only [same] <;> rfl

theorem restartReplayTimer_outstanding (outstanding : s.mir.replay ≠ []) : restartReplayTimer s =
    { s with mir := { s.mir with replayTimer := .running s.cfg.replayTimeout } } := by
  unfold restartReplayTimer
  rw [if_neg outstanding]

/-- The retransmission that both causes begin with (R95, R97). -/
theorem retransmission_resent (latch : Option Word16) (outstanding : s.mir.replay ≠ []) (room : roomAgain s.mir.dataPath s) :
    restartReplayTimer { retransmitOn s.mir.dataPath s with mir := { (retransmitOn s.mir.dataPath s).mir with
      replayCount := (retransmitOn s.mir.dataPath s).mir.replayCount + 1, gapLatch := latch } } = resent latch s := by
  rw [retransmitOn_handed room, restartReplayTimer_outstanding (by simp only [handedAgain_mir]; exact outstanding)]
  simp only [handedAgain_mir, handedAgain_cfg, resent]

/-- A path chosen anew for an OPEN stream with frames outstanding, for which it has room. -/
theorem rechoose_resends (opened : s.mir.stream = .opened) (outstanding : s.mir.replay ≠ [])
    (other : choosePath s ≠ s.mir.dataPath) (room : roomAgain (choosePath s) s) :
    rechoose s = raise .path { handedAgain (choosePath s) s with mir := { s.mir with
      dataPath := choosePath s, replayCount := 0, gapLatch := none, replayTimer := .running s.cfg.replayTimeout } } := by
  have handed : retransmitOn (choosePath s) (onPath (choosePath s) s) =
      { handedAgain (choosePath s) s with mir := (onPath (choosePath s) s).mir } :=
    (retransmitOn_handed (s := onPath (choosePath s) s) room).trans (handedAgain_mirror (choosePath s) rfl)
  rw [rechoose_changed opened other, handed, restartReplayTimer_outstanding (by exact outstanding)]
  simp only [handedAgain_cfg, onPath]

/-! ## The data path suspended (R97, 3) -/

/-- A transmitter with a path suspended. -/
def suspendedOn (path : Option PathId) (m : Mir) : Mir :=
  match path with
  | none => m
  | some .primary => { m with suspendedPrimary := true, revertElapsed := 0 }
  | some .secondary => { m with suspendedSecondary := true }

theorem suspendDataPath_eq (s : State) : suspendDataPath s = { s with mir := suspendedOn s.mir.dataPath s.mir } := by
  unfold suspendDataPath
  generalize s.mir.dataPath = path
  rcases path with _ | _ | _ <;> rfl

/-- A suspension leaves the rest of the transmitter. -/
theorem suspendedOn_rest (path : Option PathId) (m : Mir) : suspendedOn path m = { m with
    suspendedPrimary := (suspendedOn path m).suspendedPrimary, suspendedSecondary := (suspendedOn path m).suspendedSecondary
    revertElapsed := (suspendedOn path m).revertElapsed } := by
  rcases path with _ | _ | _ <;> rfl

theorem pathChosen_primary {m : Mir} (chosen : pathChosen s m = some .primary) : m.suspendedPrimary = false := by
  unfold pathChosen at chosen
  split at chosen
  · next free => exact free.2
  · split at chosen <;> cases chosen

theorem pathChosen_secondary {m : Mir} (chosen : pathChosen s m = some .secondary) : m.suspendedSecondary = false := by
  unfold pathChosen at chosen
  split at chosen
  · cases chosen
  · split at chosen
    · next free => exact free.2.2
    · cases chosen

/-- A path that is chosen under a suspension is not the suspended one. -/
theorem pathChosen_suspended {path : Option PathId} {m : Mir} (chosen : pathChosen s (suspendedOn path m) ≠ none) :
    pathChosen s (suspendedOn path m) ≠ path := by
  rcases path with _ | _ | _
  · exact chosen
  · exact fun same => nomatch pathChosen_primary same
  · exact fun same => nomatch pathChosen_secondary same

/-! ## The limit (R97, 3 and 4) -/

/-- Of the transmitter, a stream that begins reads whether it was OPEN, its path and the count of bad frames. -/
theorem StreamBegun.of_mir {gen : Word32} {m : Mir} (b : StreamBegun gen { s with mir := m } t)
    (stream : m.stream = s.mir.stream) (path : m.dataPath = s.mir.dataPath) (fcs : m.fcsCount = s.mir.fcsCount) :
    StreamBegun gen s t :=
  { b with
    blocks := (Touches.fields (t := { s with mir := m })).trans b.blocks
    mir := by rw [b.mir]; simp only [fcs]; rfl
    path := by rw [b.path]; simp only [stream, path]; rfl }

/-- MIR2 with the data path. -/
def limitFiled (s : State) : State := report .mir2 { ErrInfo.none with place := s.mir.dataPath.map pathPlace } s

/-- The state in which the path is chosen anew at the limit: MIR2 filed, the data path suspended, the count 0. -/
def suspendedAtLimit (s : State) : State :=
  { limitFiled s with mir :=
    { suspendedOn s.mir.dataPath s.mir with replayCount := 0 } }

theorem atReplayLimit_eq (limit : s.mir.replayCount = s.cfg.replayLimit) : atReplayLimit s =
    if (rechoose (suspendedAtLimit s)).mir.dataPath = none then restartStream (rechoose (suspendedAtLimit s))
    else rechoose (suspendedAtLimit s) := by
  have suspended : clearReplayCount (suspendDataPath (limitFiled s)) = suspendedAtLimit s := by
    rw [suspendDataPath_eq]
    rfl
  rw [← suspended]
  exact if_pos limit

theorem suspendedAtLimit_opened (opened : s.mir.stream = .opened) : (suspendedAtLimit s).mir.stream = .opened := by
  unfold suspendedAtLimit
  rw [suspendedOn_rest]
  exact opened

theorem suspendedAtLimit_replay (s : State) : (suspendedAtLimit s).mir.replay = s.mir.replay := by
  unfold suspendedAtLimit
  rw [suspendedOn_rest]

theorem suspendedAtLimit_dataPath (s : State) : (suspendedAtLimit s).mir.dataPath = s.mir.dataPath := by
  unfold suspendedAtLimit
  rw [suspendedOn_rest]

theorem suspendedAtLimit_chooses (opened : s.mir.stream = .opened) :
    choosePath (suspendedAtLimit s) = pathChosen s (suspendedOn s.mir.dataPath s.mir) :=
  choosePath_opened (suspendedAtLimit_opened opened)

theorem suspendedAtLimit_room {path : Option PathId} (room : roomAgain path s) : roomAgain path (suspendedAtLimit s) := by
  unfold roomAgain at *
  rcases path with _ | _ | _ <;> simp only [suspendedAtLimit_replay] <;> exact room

/-- With a path left, the stream moves there (R97, 3; R98). -/
theorem rechoose_moves (opened : s.mir.stream = .opened) (outstanding : s.mir.replay ≠ [])
    (left : pathChosen s (suspendedOn s.mir.dataPath s.mir) ≠ none)
    (room : roomAgain (pathChosen s (suspendedOn s.mir.dataPath s.mir)) s) :
    rechoose (suspendedAtLimit s) =
      raise .path { handedAgain (pathChosen s (suspendedOn s.mir.dataPath s.mir))
          (limitFiled s) with mir :=
        { suspendedOn s.mir.dataPath s.mir with
          dataPath := pathChosen s (suspendedOn s.mir.dataPath s.mir), replayCount := 0, gapLatch := none
          replayTimer := .running s.cfg.replayTimeout } } := by
  have chooses := suspendedAtLimit_chooses opened
  have resends := rechoose_resends (suspendedAtLimit_opened opened) (by rw [suspendedAtLimit_replay]; exact outstanding)
    (by rw [chooses, suspendedAtLimit_dataPath]; exact pathChosen_suspended left)
    (by rw [chooses]; exact suspendedAtLimit_room room)
  rw [resends, chooses]
  have handed := handedAgain_mirror (s := limitFiled s)
    (pathChosen s (suspendedOn s.mir.dataPath s.mir)) (m := (suspendedAtLimit s).mir) (suspendedAtLimit_replay s)
  rw [show suspendedAtLimit s = { limitFiled s with
    mir := (suspendedAtLimit s).mir } from rfl, handed]
  rfl

/-- The state without a path left, in which MIR3 is filed: PATH rises when the stream had one. -/
def pathGone (s : State) : State := if s.mir.dataPath = none then limitFiled s else raise .path (limitFiled s)

/-- With no path left, the stream stands without one (R97, 3; R98). -/
theorem rechoose_stops (opened : s.mir.stream = .opened) (outstanding : s.mir.replay ≠ [])
    (left : pathChosen s (suspendedOn s.mir.dataPath s.mir) = none) : ∃ m : Mir,
      rechoose (suspendedAtLimit s) = { pathGone s with mir := m } ∧
      m.stream = .opened ∧ m.dataPath = none ∧ m.fcsCount = s.mir.fcsCount := by
  have chooses := (suspendedAtLimit_chooses opened).trans left
  have fcs : (suspendedAtLimit s).mir.fcsCount = s.mir.fcsCount := by
    unfold suspendedAtLimit
    rw [suspendedOn_rest]
  unfold pathGone
  by_cases none : s.mir.dataPath = none
  · have path := (suspendedAtLimit_dataPath s).trans none
    rw [rechoose_same (chooses.trans path.symm), if_pos none]
    exact ⟨_, rfl, suspendedAtLimit_opened opened, path, fcs⟩
  · rw [rechoose_resends (suspendedAtLimit_opened opened) (by rw [suspendedAtLimit_replay]; exact outstanding)
      (by rw [chooses, suspendedAtLimit_dataPath]; exact Ne.symm none) (by rw [chooses]; trivial), chooses, if_neg none]
    exact ⟨_, rfl, suspendedAtLimit_opened opened, rfl, fcs⟩

/-- The restart of a stream without a path (R97, 4). -/
theorem restartStream_begun {m : Mir} (opened : m.stream = .opened) (path : m.dataPath = none)
    (fcs : m.fcsCount = s.mir.fcsCount) (stream : s.mir.stream = .opened) :
    StreamBegun (s.pai.pairGen + 1#32)
      (report .mir3 { ErrInfo.none with place := (pathBegun s).map pathPlace } { s with mir := { s.mir with dataPath := none } })
      (restartStream { s with mir := m }) := by
  have restarts : restartPath { s with mir := m } = pathBegun s := choosePath_begun (s := s) opened rfl rfl ⟨rfl, rfl⟩
  refine StreamBegun.of_mir (m := m) ?_ (opened.trans stream.symm) path fcs
  unfold restartStream
  rw [restarts]
  exact beginStream_begun _ _

theorem pathGone_restarts {m : Mir} (opened : s.mir.stream = .opened) (stream : m.stream = .opened) (path : m.dataPath = none)
    (fcs : m.fcsCount = s.mir.fcsCount) :
    StreamBegun (s.pai.pairGen + 1#32)
      (report .mir3 { ErrInfo.none with place := (pathBegun s).map pathPlace }
        { pathGone s with mir := { s.mir with dataPath := none } })
      (restartStream { pathGone s with mir := m }) := by
  unfold pathGone
  split
  · exact restartStream_begun (s := limitFiled s) stream path fcs opened
  · exact restartStream_begun (s := raise .path (limitFiled s)) stream path fcs opened

/-- All that the limit does. -/
theorem atReplayLimit_reached (opened : s.mir.stream = .opened) (outstanding : s.mir.replay ≠ [])
    (limit : s.mir.replayCount = s.cfg.replayLimit) : LimitReached s (atReplayLimit s) := by
  rw [atReplayLimit_eq limit]
  refine ⟨fun left room => ?_, fun left => ?_⟩
  · have moves := rechoose_moves opened outstanding left room
    have moved : (rechoose (suspendedAtLimit s)).mir.dataPath ≠ none := by rw [moves]; exact left
    rw [if_neg moved, moves]
    rfl
  · obtain ⟨m, stops, stream, path, fcs⟩ := rechoose_stops opened outstanding left
    rw [stops, if_pos path]
    exact pathGone_restarts opened stream path fcs

/-! ## The event of a retransmission -/

theorem resent_cfg (latch : Option Word16) (s : State) : (resent latch s).cfg = s.cfg := handedAgain_cfg s.mir.dataPath s

theorem resent_flags (latch : Option Word16) (s : State) : (resent latch s).flt.flags = s.flt.flags :=
  handedAgain_flags s.mir.dataPath s

/-- Below the limit the frames are sent again and no flag rises; at the limit the path is suspended (R97). `w` is the state in
which the retransmission begins. -/
theorem retransmission_acts {f : State → State} {latch : Option Word16} {w : State}
    (acts : f s = atReplayLimit (resent latch w)) (flags : w.flt.flags = s.flt.flags) (opened : w.mir.stream = .opened)
    (outstanding : w.mir.replay ≠ []) :
    (w.mir.replayCount + 1 ≠ w.cfg.replayLimit → event f s = resent latch w) ∧
    (w.mir.replayCount + 1 = w.cfg.replayLimit → ∃ v, LimitReached (resent latch w) v ∧ Noticed v (event f s)) := by
  refine ⟨fun below => event_is (acts.trans (if_neg ?_)) ((resent_flags latch w).trans flags), fun limit =>
    ⟨_, atReplayLimit_reached opened outstanding ?_, event_becomes acts⟩⟩
  · rw [resent_cfg]
    exact below
  · rw [resent_cfg]
    exact limit

theorem replayExpired_resent (outstanding : s.mir.replay ≠ []) (room : roomAgain s.mir.dataPath s) :
    replayExpired s = atReplayLimit (resent none s) :=
  congrArg atReplayLimit (retransmission_resent none outstanding room)

theorem gapRetransmit_resent (next : Word16) (outstanding : s.mir.replay ≠ []) (room : roomAgain s.mir.dataPath s) :
    gapRetransmit next s = atReplayLimit (resent (some next) s) :=
  congrArg atReplayLimit (retransmission_resent (some next) outstanding room)

theorem replayDue_iff (s : State) : replayDue s = true ↔ s.mir.replayTimer.due = true ∧ s.mir.replay ≠ [] := by
  simp [replayDue]

theorem gapActs_iff (next : Word16) (s : State) :
    gapActs next s = true ↔ s.mir.gapLatch ≠ some next ∧ s.mir.replay ≠ [] := by
  simp [gapActs]

theorem mirrorDispatch_ack (path : PathId) {p : List Byte} (s : State) (type : byteAt p 0 = 3#8) :
    mirrorDispatch path p s = receiveAck (word32At p 4) (word16At p 2) ((byteAt p 1).getLsbD 0) s := by
  unfold mirrorDispatch
  rw [type]
  rfl

/-- A gap ACK of the pair generation that acknowledges nothing (R95). -/
theorem receiveAck_gap {gen : Word32} {next : Word16} (opened : s.mir.stream = .opened) (current : gen = s.pai.pairGen)
    (oldest : next = oldestSeq s.mir) :
    receiveAck gen next true s = if gapActs next s = true then gapRetransmit next s else bump .ackIgnored s := by
  have nothing : (next - oldestSeq s.mir).toNat = 0 := by rw [oldest, BitVec.sub_self]; rfl
  unfold receiveAck
  rw [if_neg (by rw [opened]; decide), if_neg (not_not.2 current)]
  simp only [nothing, if_true, true_and]

end Sys2Proof.Machine

namespace Sys2Proof.Proofs

open Sys2Proof.Machine Sys2Proof.Safety

/-- Settles O36: the timer and the gap ACK each begin the same retransmission (`retransmission_resent`), which the limit ends as
`atReplayLimit_reached` says. -/
theorem retransmissionCountsTowardTheLimit : Obligations.RetransmissionCountsTowardTheLimit := by
  intro s opened outstanding acts
  have counts {c : Instr} {f : State → State} {latch : Option Word16} {w : State} (runs : exec c s = .next (event f s))
      (mir : w.mir = s.mir) (cfg : w.cfg = s.cfg) (flags : w.flt.flags = s.flt.flags)
      (resends : roomAgain s.mir.dataPath s → f s = atReplayLimit (resent latch w)) : acts c latch w := fun room => by
    have effect := retransmission_acts (resends room) flags (by rw [mir]; exact opened) (by rw [mir]; exact outstanding)
    rw [mir, cfg] at effect
    exact ⟨fun below => runs.trans (congrArg _ (effect.1 below)), fun limit =>
      let ⟨v, reached, noticed⟩ := effect.2 limit
      ⟨v, _, reached, runs, noticed⟩⟩
  refine ⟨fun running due => ?_, fun path c p a outside type gen next gap => ?_⟩
  · have isDue := (replayDue_iff s).2 ⟨due_running _ due, outstanding⟩
    exact counts (congrArg Host.Outcome.next (atTick_acts running isDue replayExpired)) rfl rfl rfl
      (replayExpired_resent outstanding)
  · obtain ⟨f, dispatches, runs⟩ := arrives_event a outside
    have receives := dispatches.trans (mirrorDispatch_ack path _ type)
    rw [gap, receiveAck_gap (s := arrived path s) opened gen next] at receives
    refine ⟨fun latched => ?_, fun free => counts runs rfl rfl rfl fun room => ?_⟩
    · have ignored := receives.trans (if_neg fun on => ((gapActs_iff _ (arrived path s)).1 on).1 latched)
      exact runs.trans (congrArg _ (event_is ignored rfl))
    · have resends := receives.trans (if_pos ((gapActs_iff _ (arrived path s)).2 ⟨free, outstanding⟩))
      exact resends.trans (gapRetransmit_resent _ outstanding room)

end Sys2Proof.Proofs
end

section
/-! SUPPORT. A COMPATIBLE hello (R125 to R127): the one beside the governing path; and the governing one, whose role rule (R132 to
R137) moves the role or leaves it, `hello_moves` and `hello_stays`; and the obligation about it. -/

-- One proof at a time: proofs that wait for earlier checks would each take a thread.
set_option Elab.async false

namespace Sys2Proof.Machine

open Sys2Proof.Safety

variable {s t : State} {h : Hello} {path : PathId} {r to_ : Role} {cause : Cause}

/-! ## A hello beside the governing path (R127) -/

/-- What a hello on the secondary leaves: the peer record and the primary path. -/
theorem heardBeside_keeps (h : Hello) (s : State) :
    let heard := helloOnPath .secondary (noteHello h (latchJudgment .secondary .compatible s))
    heard.pai.peer = s.pai.peer ∧ heard.pai.primary = s.pai.primary := by
  simp only [helloOnPath_pai, latchJudgment_compatible]
  exact peerUnless_cases (P := fun u => (heardOn .secondary (noteHello h u)).pai.peer = s.pai.peer ∧
    (heardOn .secondary (noteHello h u)).pai.primary = s.pai.primary) ⟨rfl, rfl⟩ ⟨rfl, rfl⟩

theorem withPeer_same {peer : Option PeerRecord} (same : s.pai.peer = peer) : withPeer peer s = s := by
  subst same
  rfl

/-- What a hello beside the governing path leaves, with PEER as a condition says. -/
theorem helloTaken_beside (h : Hello) (up : s.pai.primary.up = true) :
    helloTaken .secondary h s =
      let noted := helloNoted .secondary h s.pai.peer (arrived .secondary s)
      peerUnless ((s.pai.path .secondary).judgment = .compatible ∧ peerPresent s = peerPresent noted ∧
        peerUsable s = peerUsable noted) noted := by
  have beside : ¬ (PathId.secondary = .primary ∨ s.pai.primary.up = false) := by simp [up]
  unfold helloTaken peerUnless
  simp only [if_neg beside]
  split <;> rfl

/-- On the secondary while the primary is UP, a hello leaves the peer record and drives no role. -/
theorem takeHello_beside (h : Hello) (up : s.pai.primary.up = true) :
    takeHello .secondary h (latchJudgment .secondary .compatible (arrived .secondary s)) = helloTaken .secondary h s := by
  have before := latched_seen .secondary (arrived .secondary s)
  obtain ⟨peer, primary⟩ := heardBeside_keeps h (arrived .secondary s)
  have heard := (withPeer_same peer).symm.trans (heard_latched .secondary h s.pai.peer (arrived .secondary s))
  have other : governingPath (helloOnPath .secondary (noteHello h (latchJudgment .secondary .compatible (arrived .secondary s))))
      = .primary := if_pos ((congrArg PathState.up primary).trans up)
  unfold takeHello
  rw [if_neg (by rw [other]; decide), watchPeer_peerUnless, helloTaken_beside h up]
  simp only [heard, peerUnless_twice, (peerUnless_seen _ _).1, (peerUnless_seen _ _).2, before.1, before.2]
  rfl

theorem receiveHello_beside {p : List Byte} (judge : judgeHello s (readHello p) (p.length - 38) = .compatible)
    (up : s.pai.primary.up = true) :
    receiveHello .secondary p (arrived .secondary s) = helloTaken .secondary (readHello p) s := by
  have judged : judgeHello (arrived .secondary s) (readHello p) (p.length - 38) = .compatible := judge
  unfold receiveHello
  simp only [judged, if_true]
  exact takeHello_beside (readHello p) up

/-! ## What a governing hello does to the stream (R84, R86, R88) -/

theorem showsStandby_eq (shown : h.shownRole = some r) : h.showsStandby = r.isStandby := by
  unfold Hello.showsStandby
  rw [shown]

theorem showsActive_eq (shown : h.shownRole = some r) : h.showsActive = r.isActive := by
  unfold Hello.showsActive
  rw [shown]

theorem closeStream_shut (after : Role) (closed : s.mir.stream = .closed) : closeStream after s = s := if_pos closed

theorem closeStream_pai (after : Role) (s : State) : (closeStream after s).pai = s.pai :=
  closeStream_touches after s .pai (by decide)

theorem streamConfined_closed (confined : streamConfined s) (may : s.pai.role.mayStream = false) : s.mir.stream = .closed := by
  cases stream : s.mir.stream with
  | closed => rfl
  | opened => exact absurd (confined stream) (by rw [may]; decide)

/-- But for a standby peer's hello to a part that may have the stream open, a governing hello closes the stream. -/
theorem mirrorHello_closes (after : Role) (shown : h.shownRole = some r) (confined : streamConfined s)
    (closes : r.isStandby = false ∨ s.pai.role.mayStream = false) : mirrorHello after h s = closeStream after s := by
  unfold mirrorHello
  cases standby : h.showsStandby with
  | false => exact if_pos (by decide)
  | true =>
    rw [showsStandby_eq shown] at standby
    have may : s.pai.role.mayStream = false := closes.resolve_left (by rw [standby]; decide)
    have closed := streamConfined_closed confined may
    have opens : ¬ opensStream s h = true := by simp [opensStream, may]
    rw [if_neg (by decide), if_neg opens, closeStream_shut after closed]
    exact if_neg fun current => by rw [closed] at current; cases current.1

/-- A hello that shows no active role leaves the latch of R135. -/
theorem latchActive_inactive (inactive : h.showsActive = false) : latchActive h s = s :=
  if_neg fun both => by rw [inactive] at both; cases both.2

/-- Outside the standby roles every hello leaves it. -/
theorem latchActive_outside (outside : s.pai.role.isStandby = false) : latchActive h s = s :=
  if_neg fun both => by rw [outside] at both; cases both.1

/-! ## What a governing hello does to the role (R132 to R137) -/

/-- A governing hello whose rule moves the role. -/
theorem governHello_moves (path : PathId) (shown : h.shownRole = some r) (confined : streamConfined s)
    (closes : r.isStandby = false ∨ s.pai.role.mayStream = false) (rule : helloRule s h r = some (to_, cause)) :
    RoleChanged s.pai.role to_ cause (reportRule path cause (latchActive h (closeStream to_ s))) (governHello path h s) := by
  have role : (reportRule path cause (latchActive h (closeStream to_ s))).pai.role = s.pai.role := by
    rw [reportRule_touches path cause _ .pai (by decide), (latchActive_steady h _).role, closeStream_pai]
  have changed := changeRole_changed to_ cause (reportRule path cause (latchActive h (closeStream to_ s)))
  rw [role] at changed
  unfold governHello
  rw [shown, Option.bind_some, rule]
  simp only
  rwa [mirrorHello_closes to_ shown confined closes]

/-- A governing hello whose rule leaves the role. -/
theorem governHello_stays (path : PathId) (shown : h.shownRole = some r) (confined : streamConfined s)
    (closes : r.isStandby = false ∨ s.pai.role.mayStream = false) (rule : helloRule s h r = none) :
    governHello path h s = latchActive h (closeStream s.pai.role s) := by
  unfold governHello
  rw [shown, Option.bind_some, rule]
  simp only
  rw [mirrorHello_closes s.pai.role shown confined closes]

/-! ## The rules in the statement's words -/

/-- A hello taken leaves the configuration and the latch of R135. -/
theorem helloTaken_keeps (path : PathId) (h : Hello) (s : State) :
    (helloTaken path h s).cfg = s.cfg ∧ (helloTaken path h s).pai.peerActiveSeen = s.pai.peerActiveSeen := by
  have cfg (u : State) : (helloOnPath path u).cfg = u.cfg := helloOnPath_touches path u .cfg (by decide)
  have taken (u v : State) (f : BitVec 9) (e : v = { u with flt := { u.flt with flags := f } }) :
      v.cfg = u.cfg ∧ v.pai.peerActiveSeen = u.pai.peerActiveSeen := by rw [e]; exact ⟨rfl, rfl⟩
  obtain ⟨cfg', seen'⟩ := taken _ (helloTaken path h s) _ rfl
  rw [cfg', seen', ← helloOnPath_noted]
  refine ⟨cfg _, ?_⟩
  unfold withPeer
  rw [helloOnPath_pai]
  cases path <;> rfl

/-- A COMPATIBLE hello shows a role other than DETACHED. -/
theorem compatible_shown {extra : Nat} (judge : judgeHello s h extra = .compatible) :
    ∃ r, h.shownRole = some r ∧ r ≠ .detached := by
  unfold judgeHello at judge
  split at judge
  · cases judge
  · split at judge
    · cases judge
    · next valid =>
      cases shown : h.shownRole with
      | none => exact absurd (.inr (.inl shown)) valid
      | some r => exact ⟨r, rfl, fun detached => valid (.inr (.inr (.inl (shown.trans (congrArg some detached)))))⟩

/-- R129's election. -/
theorem winsElection_iff (s : State) (h : Hello) : winsElection s h = true ↔ h.priority.toNat < s.cfg.priority ∨
    (h.priority.toNat = s.cfg.priority ∧ s.cfg.stationId < h.stationId.toNat) := by
  simp [winsElection, eq_comm (a := s.cfg.priority)]

theorem isStandby_iff : r.isStandby = true ↔ r = .standbySync ∨ r = .standbyReady := by
  cases r <;> simp [Role.isStandby]

theorem ruleYielding_active (other : r ≠ .listen) : ruleYielding s h r = ruleActive s h r := by
  unfold ruleYielding
  split
  · exact absurd rfl other
  · rfl

/-- The rule in ACTIVE and YIELDING (R133, R134). -/
theorem helloRule_active (role : s.pai.role = .active ∨ s.pai.role = .yielding) (other : r ≠ .listen) :
    helloRule s h r = ruleActive s h r := by
  unfold helloRule
  rcases role with role | role <;> rw [role]
  exact ruleYielding_active other

theorem helloRule_standby (role : s.pai.role = .standbySync ∨ s.pai.role = .standbyReady) (r : Role) :
    helloRule s h r = ruleStandby s h r := by
  unfold helloRule
  rcases role with role | role <;> rw [role]

/-- The rows of R135 that need the latch: no row is met behind FAULTED and YIELD. -/
theorem ruleStandby_stays (unfaulted : r ≠ .faulted) (unyielding : ¬ h.yieldFlag = true)
    (unlistening : ¬ (s.pai.peerActiveSeen = true ∧ r = .listen))
    (beside : ¬ (s.pai.peerActiveSeen = true ∧ r.isStandby = true)) : ruleStandby s h r = none :=
  (if_neg unfaulted).trans ((if_neg unyielding).trans ((if_neg (mt And.symm unlistening)).trans (if_neg (mt And.symm beside))))

/-- Behind FAULTED and YIELD, the latch and a listening peer. -/
theorem ruleStandby_listen (unyielding : ¬ h.yieldFlag = true) (seen : s.pai.peerActiveSeen = true) :
    ruleStandby s h .listen = some (.takeover, .peerListen) :=
  (if_neg nofun).trans ((if_neg unyielding).trans (if_pos ⟨rfl, seen⟩))

/-- Behind FAULTED and YIELD, the latch and a standby peer. -/
theorem ruleStandby_standby (unyielding : ¬ h.yieldFlag = true) (seen : s.pai.peerActiveSeen = true)
    (standby : r = .standbySync ∨ r = .standbyReady) : ruleStandby s h r = some (.takeover, .peerStandby) := by
  refine (if_neg ?_).trans ((if_neg unyielding).trans ((if_neg ?_).trans (if_pos ⟨isStandby_iff.2 standby, seen⟩))) <;>
    rcases standby with rfl | rfl <;> nofun

theorem showsActive_iff (h : Hello) : h.showsActive = true ↔ (h.shownRole = some .solo ∨ h.shownRole = some .active ∨
    h.shownRole = some .yielding) ∨ h.shownRole = some .takeover := by
  unfold Hello.showsActive
  cases h.shownRole with
  | none => simp
  | some r => cases r <;> simp [Role.isActive]

/-- R135's latch, set by a hello that shows an active role. -/
def latchedBy (h : Hello) (s : State) : State :=
  if (h.shownRole = some .solo ∨ h.shownRole = some .active ∨ h.shownRole = some .yielding) ∨ h.shownRole = some .takeover
  then { s with pai := { s.pai with peerActiveSeen := true } } else s

theorem latchActive_standby (standby : s.pai.role.isStandby = true) : latchActive h s = latchedBy h s :=
  if_congr ((and_iff_right standby).trans (showsActive_iff h)) rfl rfl

theorem mirrorDispatch_hello (path : PathId) {p : List Byte} (s : State) (type : byteAt p 0 = 1#8) :
    mirrorDispatch path p s = receiveHello path p s := by
  unfold mirrorDispatch
  rw [type]
  rfl

/-! ## The event of a governing hello -/

/-- A hello that comes by a command on the governing path: it is taken in v, from where it acts on the stream and the role. -/
structure Governing (path : PathId) (h : Hello) (c : Instr) (s v : State) : Prop where
  acts     : ∃ f, exec c s = .next (event f s) ∧ f s = governHello path h v
  stands   : StreamStands s v
  confined : streamConfined v
  cfg      : v.cfg = s.cfg
  seen     : v.pai.peerActiveSeen = s.pai.peerActiveSeen

/-- The event of a hello. -/
theorem hello_event {c : Instr} {p : List Byte} (a : Arrives path s c p) (type : byteAt p 0 = 1#8)
    (outside : s.pai.role ≠ .detached) :
    ∃ f, exec c s = .next (event f s) ∧ f s = receiveHello path p (arrived path s) := by
  obtain ⟨f, acts, runs⟩ := arrives_event a outside
  exact ⟨f, runs, acts.trans (mirrorDispatch_hello path _ type)⟩

theorem hello_governing {c : Instr} {p : List Byte} (a : Arrives path s c p) (type : byteAt p 0 = 1#8)
    (outside : s.pai.role ≠ .detached) (confined : streamConfined s)
    (judge : judgeHello s (readHello p) (p.length - 38) = .compatible) (governs : path = .primary ∨ s.pai.primary.up = false) :
    Governing path (readHello p) c s (helloTaken path (readHello p) s) := by
  obtain ⟨f, runs, acts⟩ := hello_event a type outside
  have stands := helloTaken_stands path (readHello p) s
  obtain ⟨cfg, seen⟩ := helloTaken_keeps path (readHello p) s
  refine ⟨⟨f, runs, acts.trans (receiveHello_governs judge governs)⟩, stands, fun opened => ?_, cfg, seen⟩
  rw [stands.role]
  exact confined (stands.stream.symm.trans opened)

/-- The stream behind a hello that closes it: as it was when CLOSED, and else closed by the role behind the hello (log entry 17). -/
def ClosedBy (after : Role) (s v w : State) : Prop :=
  (s.mir.stream = .closed → w = v) ∧ (s.mir.stream = .opened → StreamClosed after v w)

/-- The role changes behind the close, with what is filed before it. -/
def RoleMoves (c : Instr) (s v : State) (to_ : Role) (cause : Cause) (filed : State → State) : Prop :=
  ∃ w u t, ClosedBy to_ s v w ∧ exec c s = .next t ∧ RoleChanged s.pai.role to_ cause (filed w) u ∧ Noticed u t

/-- The role stays behind the close. -/
def RoleStays (c : Instr) (s v : State) : Prop :=
  ∃ w t, ClosedBy s.pai.role s v w ∧ exec c s = .next t ∧ Noticed w t

section governing

variable {c : Instr} {v : State} (g : Governing path h c s v) (shown : h.shownRole = some r)
include g

/-- R129's election, read behind the hello. -/
theorem Governing.elects : winsElection v h = true ↔ h.priority.toNat < s.cfg.priority ∨
    (h.priority.toNat = s.cfg.priority ∧ s.cfg.stationId < h.stationId.toNat) := by
  rw [winsElection_iff, g.cfg]

theorem Governing.closedBy (after : Role) : ClosedBy after s v (closeStream after v) :=
  ⟨fun shut => closeStream_shut after (g.stands.stream.trans shut), fun opened =>
    closeStream_closed after v (by rw [g.stands.stream, opened]; decide)⟩

theorem Governing.closed_role (after : Role) : (closeStream after v).pai.role = s.pai.role :=
  (congrArg Pai.role (closeStream_pai after v)).trans g.stands.role

include shown

/-- A rule that moves the role, with what is filed before the change. -/
theorem Governing.goes (closes : r.isStandby = false ∨ s.pai.role.mayStream = false)
    (rule : helloRule v h r = some (to_, cause)) {filed : State → State}
    (files : reportRule path cause (latchActive h (closeStream to_ v)) = filed (closeStream to_ v)) :
    RoleMoves c s v to_ cause filed := by
  obtain ⟨f, runs, acts⟩ := g.acts
  have changed := governHello_moves path shown g.confined (by rw [g.stands.role]; exact closes) rule
  rw [files, g.stands.role] at changed
  exact ⟨_, _, _, g.closedBy to_, runs, changed, event_becomes acts⟩

/-- A rule that leaves the role. -/
theorem Governing.keeps (closes : r.isStandby = false ∨ s.pai.role.mayStream = false) (rule : helloRule v h r = none) :
    ∃ t, exec c s = .next t ∧ Noticed (latchActive h (closeStream s.pai.role v)) t := by
  obtain ⟨f, runs, acts⟩ := g.acts
  have stays := governHello_stays path shown g.confined (by rw [g.stands.role]; exact closes) rule
  rw [g.stands.role] at stays
  exact ⟨_, runs, event_becomes (acts.trans stays)⟩

variable (outside : s.pai.role.isStandby = false)
include outside

/-- Outside the standby roles nothing but the error of the rule is filed. -/
theorem Governing.moves (closes : r.isStandby = false ∨ s.pai.role.mayStream = false)
    (rule : helloRule v h r = some (to_, cause)) : RoleMoves c s v to_ cause (reportRule path cause) :=
  g.goes shown closes rule (congrArg _ (latchActive_outside (by rw [g.closed_role]; exact outside)))

theorem Governing.stays (closes : r.isStandby = false ∨ s.pai.role.mayStream = false) (rule : helloRule v h r = none) :
    RoleStays c s v := by
  obtain ⟨t, runs, becomes⟩ := g.keeps shown closes rule
  rw [latchActive_outside (by rw [g.closed_role]; exact outside)] at becomes
  exact ⟨_, t, g.closedBy s.pai.role, runs, becomes⟩

/-- Dual activity (R133): the election is won, or lost with what is filed. -/
theorem Governing.dual (closes : r.isStandby = false) (rule : helloRule v h r = ruleDual v h) :
    if h.priority.toNat < s.cfg.priority ∨ (h.priority.toNat = s.cfg.priority ∧ s.cfg.stationId < h.stationId.toNat)
    then RoleStays c s v else RoleMoves c s v .standbySync .dualActive (reportRule path .dualActive) := by
  split
  · next won => exact g.stays shown outside (.inl closes) (rule.trans (if_pos (g.elects.2 won)))
  · next lost => exact g.moves shown outside (.inl closes) (rule.trans (if_neg (g.elects.not.2 lost)))

end governing

/-- The rows of R135 in order. -/
theorem Governing.standby {c : Instr} {v : State} (g : Governing path h c s v) (shown : h.shownRole = some r)
    (role : s.pai.role = .standbySync ∨ s.pai.role = .standbyReady) :
    if h.shownRole = some .faulted then RoleMoves c s v .takeover .peerUnusable id
    else if h.yieldFlag = true then RoleMoves c s v .takeover .yieldFlag (latchedBy h)
    else if s.pai.peerActiveSeen = true ∧ h.shownRole = some .listen then RoleMoves c s v .takeover .peerListen id
    else if s.pai.peerActiveSeen = true ∧ (h.shownRole = some .standbySync ∨ h.shownRole = some .standbyReady)
      then RoleMoves c s v .takeover .peerStandby id
    else ∃ t, exec c s = .next t ∧ Noticed (latchedBy h v) t := by
  have may : s.pai.role.mayStream = false := by rcases role with role | role <;> rw [role] <;> rfl
  have standby : v.pai.role.isStandby = true := by rw [g.stands.role]; exact isStandby_iff.2 role
  have shut (after : Role) : closeStream after v = v :=
    closeStream_shut after (streamConfined_closed g.confined (by rw [g.stands.role]; exact may))
  have rule (q : Role) : helloRule v h q = ruleStandby v h q := helloRule_standby (by rw [g.stands.role]; exact role) q
  have takes {q : Role} {cause : Cause} (e : h.shownRole = some q) (inactive : q.isActive = false)
      (met : ruleStandby v h q = some (.takeover, cause)) (silent : reportRule path cause = id) :
      RoleMoves c s v .takeover cause id :=
    g.goes e (.inr may) ((rule q).trans met)
      (by rw [latchActive_inactive ((showsActive_eq e).trans inactive)]; exact congrFun silent _)
  split
  · next faulted => exact takes faulted rfl (if_pos rfl) rfl
  next unfaulted =>
  have other : r ≠ .faulted := fun e => unfaulted (shown.trans (congrArg some e))
  split
  · next yields =>
    refine g.goes shown (.inr may) ((rule r).trans ((if_neg other).trans (if_pos yields))) ?_
    rw [shut]
    exact latchActive_standby standby
  next unyielding =>
  split
  · next listens => exact takes listens.2 rfl (ruleStandby_listen unyielding (g.seen.trans listens.1)) rfl
  next unlistening =>
  split
  · next both =>
    obtain ⟨latch, e | e⟩ := both
    · exact takes e rfl (ruleStandby_standby unyielding (g.seen.trans latch) (.inl rfl)) rfl
    · exact takes e rfl (ruleStandby_standby unyielding (g.seen.trans latch) (.inr rfl)) rfl
  · next beside =>
    rw [shown, Option.some_inj] at unlistening
    rw [shown, Option.some_inj, Option.some_inj, ← isStandby_iff] at beside
    rw [← g.seen] at unlistening beside
    obtain ⟨t, runs, becomes⟩ := g.keeps shown (.inr may) ((rule r).trans (ruleStandby_stays other unyielding unlistening beside))
    rw [shut, latchActive_standby standby] at becomes
    exact ⟨t, runs, becomes⟩

end Sys2Proof.Machine

namespace Sys2Proof.Proofs

open Sys2Proof.Safety Sys2Proof.Machine

/-- Settles O44: beside the governing path a hello is only taken (`receiveHello_beside`); on it, the rule of the role in force
moves the role (`Governing.moves`) or leaves it (`Governing.stays`), row by row. -/
theorem helloInListenMovesTheRole : Obligations.HelloInListenMovesTheRole := by
  intro path s c p a type safe outside h judge governs wins place
  refine ⟨_, rfl, fun beside => ?_, fun governing => ?_⟩
  · obtain ⟨f, runs, acts⟩ := hello_event a type outside
    have up : s.pai.primary.up = true := Bool.of_not_eq_false fun down => beside (.inr down)
    cases path with
    | primary => exact absurd (.inl rfl) beside
    | secondary => exact ⟨_, runs, event_becomes (acts.trans (receiveHello_beside judge up))⟩
  have g := hello_governing a type outside safe.stream judge governing
  obtain ⟨r, shows, -⟩ := compatible_shown judge
  have role := g.stands.role
  generalize helloTaken path h s = v at g role ⊢
  refine ⟨fun is => ?_, fun is => ?_, fun is => ?_, fun is => g.standby shows is, fun is => ?_, fun is => ?_⟩
  · have beside : s.pai.role.isStandby = false := congrArg Role.isStandby is
    have may : s.pai.role.mayStream = false := congrArg Role.mayStream is
    have rule (r : Role) : helloRule v h r = ruleListen v h r := by unfold helloRule; rw [role.trans is]
    refine ⟨fun e => ?_, fun e => ?_, fun e => ?_, fun e => g.stays e beside (.inr may) (rule _)⟩
    · rcases e with (e | e | e) | e <;> exact g.moves e beside (.inr may) (rule _)
    · split
      · next won => exact g.moves e beside (.inr may) ((rule _).trans (if_pos (g.elects.2 won)))
      · next lost => exact g.moves e beside (.inr may) ((rule _).trans (if_neg (g.elects.not.2 lost)))
    · rcases e with e | e <;> exact g.moves e beside (.inr may) (rule _)
  · have beside : s.pai.role.isStandby = false := congrArg Role.isStandby is
    have may : s.pai.role.mayStream = false := congrArg Role.mayStream is
    have rule (r : Role) : helloRule v h r = ruleSolo v h r := by unfold helloRule; rw [role.trans is]
    refine ⟨fun e => ?_, fun e => g.moves e beside (.inr may) (rule _), fun e => ?_,
      fun e => g.stays e beside (.inr may) (rule _)⟩
    · rcases e with (e | e) | e <;> exact g.moves e beside (.inr may) (rule _)
    · rcases e with e | e | e <;> exact g.dual e beside rfl (rule _)
  · have beside : s.pai.role.isStandby = false := by rcases is with is | is <;> exact congrArg Role.isStandby is
    have rule {r : Role} (other : r ≠ .listen) : helloRule v h r = ruleActive v h r :=
      helloRule_active (by rw [role]; exact is) other
    refine ⟨fun e => g.moves e beside (.inl rfl) (rule nofun), fun e => ?_, fun e => g.moves e beside (.inl rfl) (rule nofun),
      fun e => ?_⟩
    · rcases e with e | e | e <;> exact g.dual e beside rfl (rule nofun)
    · split
      · next active => exact g.stays e beside (.inl rfl) (by unfold helloRule; rw [role.trans active]; rfl)
      · next other =>
        have yielding := is.resolve_left other
        exact g.moves e beside (.inl rfl) (by unfold helloRule; rw [role.trans yielding]; rfl)
  · have beside : s.pai.role.isStandby = false := congrArg Role.isStandby is
    have rule (r : Role) : helloRule v h r = ruleTakeover v h r := by unfold helloRule; rw [role.trans is]
    refine ⟨fun e => ?_, fun e => ?_⟩
    · split
      · next won => exact g.stays e beside (.inl rfl) ((rule _).trans (if_neg fun lost => lost.2 (g.elects.2 won)))
      · next lost => exact g.moves e beside (.inl rfl) ((rule _).trans (if_pos ⟨rfl, g.elects.not.2 lost⟩))
    · rcases e with (e | e | e) | e | e <;> exact g.stays e beside (.inl rfl) (rule _)
  · exact g.stays shows (congrArg Role.isStandby is) (.inr (congrArg Role.mayStream is))
      (by unfold helloRule; rw [role.trans is])

end Sys2Proof.Proofs
end

section
/-! SUPPORT. DATA frames (R105 to R109): how one is judged, how its deltas are applied, and how it is acknowledged; and the
obligation about it. -/

-- One proof at a time: proofs that wait for earlier checks would each take a thread.
set_option Elab.async false

namespace Sys2Proof.Machine

open Sys2Proof.Safety

variable {s u v : State} {path : PathId} {c : Instr} {p : List Byte}

/-! ## The event of a DATA frame (R9) -/

theorem mirrorDispatch_data (type : byteAt p 0 = 2#8) (path : PathId) (s : State) :
    mirrorDispatch path p s = receiveData path p s := by
  unfold mirrorDispatch
  rw [type]
  rfl

/-- The command of a DATA frame is the event of its judgment. -/
theorem data_event (a : Arrives path s c p) (type : byteAt p 0 = 2#8) (outside : s.pai.role ≠ .detached) :
    ∃ f : State → State, exec c s = .next (event f s) ∧ f s = receiveData path p (arrived path s) := by
  obtain ⟨f, dispatch, runs⟩ := arrives_event a outside
  exact ⟨f, runs, dispatch.trans (mirrorDispatch_data type path _)⟩

/-! ## Deltas applied in order (R109) -/

theorem deltaSize_pos {kind : Byte} {n : Nat} (size : deltaSize kind = some n) : 0 < n := by
  unfold deltaSize at size
  split at size <;> cases size <;> decide

/-- A delta takes at least one byte. -/
theorem readDelta_shorter {bs rest : List Byte} {d : Delta} (read : readDelta bs = some (d, rest)) : rest.length < bs.length := by
  unfold readDelta at read
  split at read
  · cases read
  · next kind tail =>
    split at read
    · cases read
    · next n size =>
      split at read
      · cases read
      · obtain ⟨_, -, same⟩ := Option.map_eq_some_iff.1 read
        cases same
        have := deltaSize_pos size
        rw [List.length_drop, List.length_cons]
        omega

/-- With fuel for each byte, the deltas are applied one after another to the end that R109 gives them. -/
theorem applyDeltas_applied (id : FrameId) {fuel : Nat} (first : Bool) {bs : List Byte} (enough : bs.length ≤ fuel) (s : State) :
    Applied id first bs s (applyDeltas id fuel first bs s) := by
  induction fuel generalizing first bs s with
  | zero =>
    obtain rfl := List.length_eq_zero_iff.1 (Nat.le_zero.1 enough)
    exact .done
  | succ fuel ih =>
    cases bs with
    | nil => exact .done
    | cons b bs =>
      unfold applyDeltas
      split
      · next unread => exact .unread (List.cons_ne_nil b bs) unread
      · next d rest read =>
        split
        · next unfit => exact .unfit read unfit
        · next u applied =>
          split
          · next standby =>
            have shorter := readDelta_shorter read
            exact .next read applied standby (ih false (by omega) u)
          · next left => exact .left read applied (Bool.eq_false_iff.2 left)

/-- A frame of one delta ends as that delta leaves it. -/
theorem applyDeltas_one {id : FrameId} {bs : List Byte} {d : Delta} (read : readDelta bs = some (d, []))
    (applied : applyDelta id true d s = some u) : applyDeltas id bs.length true bs s = u := by
  cases bs with
  | nil => cases read
  | cons b bs =>
    have behind : applyDeltas id bs.length false [] u = u := by cases bs <;> rfl
    rw [List.length_cons, applyDeltas, read]
    simp only [applied, behind, ite_self]

/-- A delta of 12 bytes that is all of a frame's deltas: BULK_BEGIN, BULK_END or CHECKPOINT. -/
theorem readDelta_twelve {bs : List Byte} (length : bs.length = 12) (size : deltaSize (byteAt bs 0) = some 12) :
    readDelta bs = (spellDelta bs).map fun d => (d, []) := by
  cases bs with
  | nil => cases length
  | cons b bs =>
    rw [readDelta, show deltaSize b = some 12 from size]
    simp only
    rw [if_neg (by omega), List.take_of_length_le (by omega), List.drop_of_length_le (by omega)]

/-- The 12 bytes of deltas that a DATA frame states and holds. -/
theorem deltaRange_twelve (stated : word16At p 2 = 12#16) (held : 24 ≤ p.length) :
    (deltaRange p).length = 12 ∧ (∀ i < 12, byteAt (deltaRange p) i = byteAt p (12 + i)) ∧
      ∀ i ≤ 8, word32At (deltaRange p) i = word32At p (12 + i) := by
  unfold deltaRange
  rw [stated]
  refine ⟨?_, fun i inside => byteAt_slice p 12 inside, fun i inside => word32At_slice p 12 (n := 12) (by omega)⟩
  rw [slice, List.length_take, List.length_drop, show (12#16).toNat = 12 from rfl]
  omega

/-- Its live count, when that is in range. -/
theorem readCount_twelve (stated : word16At p 2 = 12#16) (held : 24 ≤ p.length) (within : (word32At p 16).toNat ≤ 32768) :
    readCount (deltaRange p) = some (word32At p 16) := by
  have count : word32At (deltaRange p) 4 = word32At p 16 := (deltaRange_twelve stated held).2.2 4 (by decide)
  rw [readCount, count]
  exact if_pos within

/-- The one delta of a frame of 12 bytes is a BULK_BEGIN. -/
theorem readDelta_bulkBegin (stated : word16At p 2 = 12#16) (held : 24 ≤ p.length) (kind : byteAt p 12 = 4#8)
    (within : (word32At p 16).toNat ≤ 32768) : readDelta (deltaRange p) = some (.bulkBegin (word32At p 16), []) := by
  obtain ⟨length, bytes, -⟩ := deltaRange_twelve stated held
  have kind : byteAt (deltaRange p) 0 = 4#8 := (bytes 0 (by decide)).trans kind
  rw [readDelta_twelve length (by rw [kind]; rfl), spellDelta, kind]
  simp [readCount_twelve stated held within]

/-- The one delta of a frame of 12 bytes is a CHECKPOINT. -/
theorem readDelta_checkpoint (stated : word16At p 2 = 12#16) (held : 24 ≤ p.length) (kind : byteAt p 12 = 7#8)
    (within : (word32At p 16).toNat ≤ 32768) :
    readDelta (deltaRange p) = some (.compare .checkpoint (word32At p 16) (word32At p 20), []) := by
  obtain ⟨length, bytes, words⟩ := deltaRange_twelve stated held
  have kind : byteAt (deltaRange p) 0 = 7#8 := (bytes 0 (by decide)).trans kind
  rw [readDelta_twelve length (by rw [kind]; rfl), spellDelta, kind]
  simp [readCount_twelve stated held within, words 8 (by decide)]

/-! ## Acknowledgement (R108) -/

/-- The state after one more accepted frame that is not yet acknowledged. -/
def counted (s : State) : State := { s with shd := { s.shd with
  unacked := s.shd.unacked + 1
  ackTimer := if s.shd.unacked = 0 then .running s.cfg.ackDelay else s.shd.ackTimer } }

theorem sendAck_bytes {gap : Bool} {gen : Word32} (adopted : s.shd.adoptedGen = gen) : sendAck path gap s =
    bump .shdAckSent (sendMirror path ([3#8, flagBit gap 0] ++ bytes16 s.shd.expectedSeq ++ bytes32 gen)
      { s with shd := { s.shd with unacked := 0, ackTimer := .stopped } }) := by
  rw [← adopted]
  rfl

theorem countAccepted_waits (few : s.shd.unacked + 1 < 8) (delayed : s.cfg.ackDelay ≠ 0) : countAccepted s = counted s :=
  if_neg fun now => now.elim (by omega) delayed

theorem countAccepted_acks (now : 8 ≤ s.shd.unacked + 1 ∨ s.cfg.ackDelay = 0) :
    countAccepted s = sendAck s.shd.ackPath false s := if_pos now

theorem whileStandby_in (standby : s.pai.role.isStandby = true) (f : State → State) : whileStandby f s = f s := if_pos standby

theorem whileStandby_out (out : s.pai.role.isStandby = false) (f : State → State) : whileStandby f s = s :=
  if_neg (by rw [out]; decide)

/-! ## Frames judged (R105 to R107) -/

theorem seqAfter_self (x : Word32) : seqAfter x x = false := by
  simp [seqAfter]

theorem beginsStream_iff (seq : Word16) (ds : List Byte) : beginsStream seq ds = true ↔ seq = 0#16 ∧ ds.head? = some 4#8 := by
  simp [beginsStream]

/-- Outside the standby roles. -/
theorem receiveData_outside (out : s.pai.role.isStandby = false) : receiveData path p s = bump .shdRoleDrop s :=
  if_pos (by rw [out]; decide)

theorem receiveData_inside (standby : s.pai.role.isStandby = true) : receiveData path p s =
    if seqAfter (word32At p 4) s.shd.adoptedGen then
      if beginsStream (word16At p 8) (deltaRange p) then
        acceptFrame path { gen := word32At p 4, seq := word16At p 8, adopting := true } (deltaRange p) (adoptGen (word32At p 4) s)
      else bump .shdGenDrop s
    else if word32At p 4 = s.shd.adoptedGen ∧ s.shd.bound then takeCurrent path (word32At p 4) (word16At p 8) (deltaRange p) s
    else bump .shdGenDrop s := if_neg (not_not_intro standby)

/-- A newer generation that does not begin a stream, an older one, and any while UNBOUND. -/
theorem receiveData_otherGen (standby : s.pai.role.isStandby = true)
    (other : (seqAfter (word32At p 4) s.shd.adoptedGen = true ∧ (word16At p 8 ≠ 0#16 ∨ (deltaRange p).head? ≠ some 4#8)) ∨
      (seqAfter (word32At p 4) s.shd.adoptedGen = false ∧ (word32At p 4 ≠ s.shd.adoptedGen ∨ s.shd.bound = false))) :
    receiveData path p s = bump .shdGenDrop s := by
  rw [receiveData_inside standby]
  rcases other with ⟨newer, no⟩ | ⟨old, no⟩
  · rw [if_pos newer, if_neg fun begins => ?_]
    obtain ⟨zero, kind⟩ := (beginsStream_iff _ _).1 begins
    exact no.elim (· zero) (· kind)
  · rw [if_neg (by rw [old]; decide), if_neg fun both => ?_]
    exact no.elim (· both.1) fun unbound => by rw [unbound] at both; cases both.2

/-- A newer generation that begins a stream is adopted. -/
theorem receiveData_adopts (standby : s.pai.role.isStandby = true) (newer : seqAfter (word32At p 4) s.shd.adoptedGen = true)
    (zero : word16At p 8 = 0#16) (kind : (deltaRange p).head? = some 4#8) : receiveData path p s = acceptFrame path
      { gen := word32At p 4, seq := word16At p 8, adopting := true } (deltaRange p) (adoptGen (word32At p 4) s) := by
  rw [receiveData_inside standby, if_pos newer, if_pos ((beginsStream_iff _ _).2 ⟨zero, kind⟩)]

/-- A frame of the adopted generation. -/
theorem receiveData_current (standby : s.pai.role.isStandby = true) (same : word32At p 4 = s.shd.adoptedGen)
    (bound : s.shd.bound = true) :
    receiveData path p s = takeCurrent path (word32At p 4) (word16At p 8) (deltaRange p) s := by
  rw [receiveData_inside standby, if_neg (by rw [same, seqAfter_self]; decide), if_pos ⟨same, bound⟩]

theorem takeCurrent_next {gen : Word32} {seq : Word16} {ds : List Byte} (next : (seq - s.shd.expectedSeq).toNat = 0) :
    takeCurrent path gen seq ds s = acceptFrame path { gen := gen, seq := seq, adopting := false } ds s := if_pos next

theorem takeCurrent_ahead {gen : Word32} {seq : Word16} {ds : List Byte} (least : 1 ≤ (seq - s.shd.expectedSeq).toNat)
    (most : (seq - s.shd.expectedSeq).toNat ≤ 32767) : takeCurrent path gen seq ds s = sendAck path true (bump .shdAhead s) :=
  (if_neg (by omega)).trans (if_pos most)

theorem takeCurrent_duplicate {gen : Word32} {seq : Word16} {ds : List Byte} (least : 32768 ≤ (seq - s.shd.expectedSeq).toNat) :
    takeCurrent path gen seq ds s = sendAck path false (bump .shdDup s) := (if_neg (by omega)).trans (if_neg (by omega))

/-- The state from which the deltas of an accepted frame are applied (R107). -/
def accepted (path : PathId) (seq : Word16) (s : State) : State :=
  bump .shdAccept { s with shd := { s.shd with expectedSeq := seq + 1#16, ackPath := path } }

/-- An accepted frame of one delta. -/
theorem acceptFrame_one {id : FrameId} {ds : List Byte} {d : Delta} (read : readDelta ds = some (d, []))
    (applied : applyDelta id true d (accepted path id.seq s) = some u) :
    acceptFrame path id ds s = whileStandby countAccepted u := by
  rw [acceptFrame, ← accepted, applyDeltas_one read applied]

/-! ## BULK_BEGIN (R113) -/

/-- The state behind a BULK_BEGIN, before its role change. -/
def bulkBegun (count : Word32) (s : State) : State :=
  raise .bulk { s with shd := { s.shd with bulkWanted := false, refresh := [], bulkStart := count.toNat } }

theorem applyDelta_bulkBegin {id : FrameId} (adopting : id.adopting = true) (count : Word32) (s : State) :
    applyDelta id true (.bulkBegin count) s = some (beginBulk count s) := if_pos ⟨rfl, adopting⟩

theorem beginBulk_sync (sync : s.pai.role = .standbySync) (count : Word32) : beginBulk count s = bulkBegun count s :=
  if_neg (show ¬ s.pai.role = .standbyReady by rw [sync]; decide)

theorem beginBulk_ready (ready : s.pai.role = .standbyReady) (count : Word32) :
    beginBulk count s = changeRole .standbySync .bulkBegin (bulkBegun count s) := if_pos ready

/-- A frame of a BULK_BEGIN alone, adopted in STANDBY_SYNC and not acknowledged at once. -/
theorem acceptFrame_bulkBegin {gen : Word32} {seq : Word16} {ds : List Byte} {count : Word32} (sync : s.pai.role = .standbySync)
    (read : readDelta ds = some (.bulkBegin count, [])) (few : s.shd.unacked + 1 < 8) (delayed : s.cfg.ackDelay ≠ 0) :
    acceptFrame path { gen := gen, seq := seq, adopting := true } ds s = counted (bulkBegun count (accepted path seq s)) := by
  have begun := beginBulk_sync (s := accepted path seq s) sync count
  have standby : (bulkBegun count (accepted path seq s)).pai.role.isStandby = true := congrArg Role.isStandby sync
  have waits := countAccepted_waits (s := bulkBegun count (accepted path seq s)) few delayed
  rw [acceptFrame_one read (applyDelta_bulkBegin rfl count _), begun, whileStandby_in standby, waits]

/-- An accepted frame of no delta. -/
theorem acceptFrame_empty {id : FrameId} (standby : s.pai.role.isStandby = true) :
    acceptFrame path id [] s = countAccepted (accepted path id.seq s) := whileStandby_in (s := accepted path id.seq s) standby _

end Sys2Proof.Machine

namespace Sys2Proof.Proofs

open Sys2Proof.Machine Sys2Proof.Safety

/-- Settles O38: the judgment is `receiveData` case by case; an accepted frame's deltas are applied to the end that
`applyDeltas_applied` gives them, and then it counts toward the next ACK or is acknowledged. -/
theorem dataFrameIsJudged : Obligations.DataFrameIsJudged := by
  intro path s c p a outside type gen seq d ds rx quiet answers timer applies
  obtain ⟨f, runs, judged⟩ := data_event a type outside
  have exactly {u : State} (e : receiveData path p rx = u) (flags : u.flt.flags = s.flt.flags) : exec c s = .next u :=
    runs.trans (congrArg _ (event_is (judged.trans e) flags))
  have accepts {adopting : Bool} {w : State} (e : receiveData path p rx =
      acceptFrame path { gen := gen, seq := seq, adopting := adopting } ds w) : applies adopting (accepted path seq w) := by
    refine ⟨_, _, applyDeltas_applied _ true le_rfl _, runs, fun left => ?_,
      fun standby => ⟨fun few delayed => ?_, fun now => ?_⟩⟩
    · exact event_becomes (judged.trans (e.trans (whileStandby_out left _)))
    · exact event_becomes (judged.trans (e.trans ((whileStandby_in standby _).trans (countAccepted_waits few delayed))))
    · exact event_becomes (judged.trans (e.trans ((whileStandby_in standby _).trans (countAccepted_acks now))))
  refine ⟨fun out => exactly (receiveData_outside out) rfl, fun standby => ⟨fun other => ?_, fun newer zero kind => ?_,
    fun sync newer zero stated held kind within few delayed => ?_, fun same bound => ?_⟩⟩
  · exact exactly (receiveData_otherGen standby other) rfl
  · have v := accepts (receiveData_adopts standby newer zero kind)
    rw [zero] at v
    exact v
  · have standby : rx.pai.role.isStandby = true := standby
    obtain ⟨length, bytes, -⟩ := deltaRange_twelve stated held
    have first : (deltaRange p).head? = some 4#8 := by
      rw [← kind, ← bytes 0 (by decide)]
      generalize deltaRange p = ds at length
      cases ds with
      | nil => cases length
      | cons b ds => rfl
    have adopted := receiveData_adopts (path := path) (s := rx) standby newer zero first
    have begun := acceptFrame_bulkBegin (path := path) (s := adoptGen gen rx) (gen := gen) (seq := seq) sync
      (readDelta_bulkBegin stated held kind within) few delayed
    have fromZero := congrArg (fun q => counted (bulkBegun (word32At p 16) (accepted path q (adoptGen gen rx)))) zero
    exact ⟨_, runs, event_becomes (judged.trans (adopted.trans (begun.trans fromZero)))⟩
  · have current : receiveData path p rx = takeCurrent path gen seq ds rx := receiveData_current standby same bound
    have adopted : s.shd.adoptedGen = gen := same.symm
    have answered (gap : Bool) (w : State) (e : receiveData path p rx = sendAck path gap w) (of : w.shd.adoptedGen = gen) :
        answers (flagBit gap 0) w.shd.expectedSeq { w with shd := { w.shd with unacked := 0, ackTimer := .stopped } } :=
      ⟨_, runs, event_becomes (judged.trans (e.trans (sendAck_bytes of)))⟩
    refine ⟨fun least most => ?_, fun least => ?_, fun next => ?_, fun next empty => ?_⟩
    · exact answered true (bump .shdAhead rx) (current.trans (takeCurrent_ahead least most)) adopted
    · exact answered false (bump .shdDup rx) (current.trans (takeCurrent_duplicate least)) adopted
    · exact accepts (current.trans (takeCurrent_next next))
    · have none : ds = [] := congrArg (slice p 12 ·.toNat) empty
      have whole : receiveData path p rx = countAccepted (accepted path seq rx) := by
        rw [current, takeCurrent_next (s := rx) next, none, acceptFrame_empty (s := rx) standby]
      refine ⟨fun few delayed => exactly (whole.trans (countAccepted_waits few delayed)) rfl, fun now => ?_⟩
      exact answered false (accepted path seq rx) (whole.trans (countAccepted_acks now)) adopted

end Sys2Proof.Proofs
end

section
/-! SUPPORT. The purge of a BULK_END (R114): each stale session removed, said once for the whole purge, `purge_purged`. -/

-- One proof at a time: proofs that wait for earlier checks would each take a thread.
set_option Elab.async false

namespace Sys2Proof.Machine

open Sys2Proof.Safety

variable {s t : State} {h : Nat} {l : List Nat}

/-! ## Sessions purged one after another (R37, R114) -/

/-- A standby part as a purge finds it: nothing waits for the peer, and its stores are in order. -/
structure Shadowing (s : State) : Prop where
  standby : s.pai.role.isStandby = true
  closed  : s.mir.stream = .closed
  dirty   : s.mir.dirty = []
  hold    : s.hold = []
  records : sparseSorted s.tbl.records = true
  slots   : sparseSorted s.tbl.slots = true

theorem shadowing_of_safe (safe : Safe s) (standby : s.pai.role.isStandby = true) (records : sparseSorted s.tbl.records = true)
    (slots : sparseSorted s.tbl.slots = true) : Shadowing s := by
  have closed := safe_closed safe (mayStream_of_standby standby)
  obtain ⟨-, -, dirty, hold, -⟩ := safe.quiet closed
  exact ⟨standby, closed, dirty, hold, records, slots⟩

/-- What the sessions of a list of handles leave of the part, purged in this order. -/
structure Purged (l : List Nat) (s t : State) : Prop where
  kept    : t = { s with tbl := t.tbl, flt := { s.flt with counters := t.flt.counters } }
  records : sparseSorted t.tbl.records = true
  slots   : sparseSorted t.tbl.slots = true
  record  : ∀ k, recordOf t k = if k ∈ l then { Record.fresh with epoch := (recordOf s k).epoch } else recordOf s k
  slot    : ∀ q, t.tbl.slot q =
    if ∃ k ∈ l, q = (recordOf s k).slotOrig ∨ q = (recordOf s k).slotReply then none else s.tbl.slot q
  free    : freeHandles t.tbl.free = freeHandles s.tbl.free ++ l
  count   : t.tbl.liveCount = s.tbl.liveCount - l.length
  digest  : t.tbl.digestSum = s.tbl.digestSum - (l.map fun k => BitVec.ofNat 32 (k * 65536 + (recordOf s k).epoch.toNat)).sum
  purges  : counter t .remPurge = satAdd32 (counter s .remPurge) l.length
  counts  : ∀ c, c.pos ≠ Ctr.remPurge.pos → counter t c = counter s c

theorem Purged.none (a : Shadowing s) : Purged [] s s where
  kept := rfl
  records := a.records
  slots := a.slots
  record := fun k => (if_neg List.not_mem_nil).symm
  slot := fun q => (if_neg (by rintro ⟨k, none, -⟩; cases none)).symm
  free := (List.append_nil _).symm
  count := rfl
  digest := by simp
  purges := (satAdd32_zero _).symm
  counts := fun _ _ => rfl

/-- What stood for a purge stands behind some of its removals. -/
theorem Purged.shadowing (p : Purged l s t) (a : Shadowing s) : Shadowing t where
  standby := by rw [p.kept]; exact a.standby
  closed := by rw [p.kept]; exact a.closed
  dirty := by rw [p.kept]; exact a.dirty
  hold := by rw [p.kept]; exact a.hold
  records := p.records
  slots := p.slots

/-- A removal touches no block but these. -/
theorem removal_keeps (b : Touches [.tbl, .hold, .mir, .flt] s t) (hold : t.hold = s.hold) (mir : t.mir = s.mir) :
    t = { s with tbl := t.tbl, flt := t.flt } := by
  have cfg : t.cfg = s.cfg := b .cfg (by decide)
  have zones : t.zones = s.zones := b .zones (by decide)
  have timeouts : t.timeouts = s.timeouts := b .timeouts (by decide)
  have prt : t.prt = s.prt := b .prt (by decide)
  have shd : t.shd = s.shd := b .shd (by decide)
  have pai : t.pai = s.pai := b .pai (by decide)
  have tko : t.tko = s.tko := b .tko (by decide)
  have tim : t.tim = s.tim := b .tim (by decide)
  have mgtQueue : t.mgtQueue = s.mgtQueue := b .mgtQueue (by decide)
  have pending : t.pending = s.pending := b .pending (by decide)
  have freeCount : t.freeCount = s.freeCount := b .freeCount (by decide)
  cases s
  cases t
  simp only at *
  subst_vars
  rfl

/-- A removal from a standby part (R37, R38): its handle is FREE at once. -/
theorem purged_one (a : Shadowing s) (live : (recordOf s h).handleState = .live) :
    Purged [h] s (removeSession h .purge false s) := by
  have removed := removeSession_removed a.records a.slots live .purge false
  obtain ⟨records, slots⟩ := removeSession_sorted a.records a.slots h .purge false
  generalize removeSession h .purge false s = t at removed records slots
  have fate : fateFree s h (false || (recordOf s h).body.mirrored.isSome) := .inl a.closed
  have hold : t.hold = s.hold := by rw [removed.hold, a.hold]; rfl
  have mir : t.mir = s.mir := by
    have dirty : t.mir.dirty = s.mir.dirty := by rw [removed.dirty, if_pos fate, a.dirty]; rfl
    rw [removed.mir, dirty]
  have record (k : Nat) : recordOf t k =
      if k ∈ [h] then { Record.fresh with epoch := (recordOf s k).epoch } else recordOf s k := by
    by_cases same : k = h
    · rw [same, removed.record, if_pos fate, if_pos List.mem_cons_self]
    · rw [removed.others k same, if_neg (by simpa using same)]
  have discarded : counter t .holdDropRemoved = counter s .holdDropRemoved := by
    rw [removed.held, a.hold]
    rfl
  exact {
    kept := by
      have keeps := removal_keeps removed.blocks hold mir
      rw [removed.flt] at keeps
      exact keeps
    records, slots, record
    slot := fun q => (removed.slots q).trans (by simp only [List.mem_singleton, exists_eq_left])
    free := by rw [removed.free, if_pos fate]
    count := removed.digest.1
    digest := by rw [removed.digest.2, List.map_singleton, List.sum_singleton]
    purges := removed.count
    counts := fun c other => by
      by_cases held : c.pos = Ctr.holdDropRemoved.pos
      · have same (u : State) : counter u c = counter u .holdDropRemoved := by simp only [counter, held]
        rw [same, same, discarded]
      · exact removed.counts c other held }

/-- A list purged, and then another of handles that it leaves. -/
theorem Purged.append {m : List Nat} {u : State} (p : Purged l s t) (r : Purged m t u) (apart : ∀ k ∈ m, k ∉ l) :
    Purged (l ++ m) s u := by
  have stands {k : Nat} (mem : k ∈ m) : recordOf t k = recordOf s k := by rw [p.record, if_neg (apart k mem)]
  exact {
    kept := by
      have both := r.kept
      rw [p.kept] at both
      exact both
    records := r.records
    slots := r.slots
    record := fun k => by
      rw [r.record]
      by_cases mem : k ∈ m
      · rw [if_pos mem, if_pos (List.mem_append_right l mem), stands mem]
      · rw [if_neg mem, p.record]
        exact if_congr (by simp [mem]) rfl rfl
    slot := fun q => by
      have moved : (∃ k ∈ m, q = (recordOf t k).slotOrig ∨ q = (recordOf t k).slotReply) ↔
          ∃ k ∈ m, q = (recordOf s k).slotOrig ∨ q = (recordOf s k).slotReply :=
        exists_congr fun k => and_congr_right fun mem => by rw [stands mem]
      rw [r.slot, p.slot, if_congr moved rfl rfl, ← ite_or]
      exact if_congr (by simp only [List.mem_append, or_and_right, exists_or, or_comm]) rfl rfl
    free := by rw [r.free, p.free, List.append_assoc]
    count := by rw [r.count, p.count, List.length_append, Nat.sub_sub]
    digest := by
      have moved : (m.map fun k => BitVec.ofNat 32 (k * 65536 + (recordOf t k).epoch.toNat)) =
          m.map fun k => BitVec.ofNat 32 (k * 65536 + (recordOf s k).epoch.toNat) :=
        List.map_congr_left fun k mem => by rw [stands mem]
      rw [r.digest, p.digest, moved, List.map_append, List.sum_append, BitVec.sub_sub]
    purges := by rw [r.purges, p.purges, satAdd32_add, List.length_append]
    counts := fun c other => (r.counts c other).trans (p.counts c other) }

/-! ## The purge (R114) -/

/-- A session of another generation than the adopted one. -/
def isStale (s : State) (h : Nat) : Bool := (recordOf s h).body.gen != s.shd.adoptedGen

theorem purgeOne_intact (standby : s.pai.role.isStandby = true) (live : (recordOf s h).handleState = .live)
    (intact : recordIntact s h) : purgeOne s h = if isStale s h then removeSession h .purge false s else s := by
  rw [purgeOne, whileStandby_in standby, checkRecord_intact intact, whileStandby_in standby]
  exact if_congr (by simp [isStale, live]) rfl rfl

/-- A visit to an intact LIVE handle. -/
theorem purgeOne_purged (a : Shadowing s) (live : (recordOf s h).handleState = .live) (intact : recordIntact s h) :
    Purged ([h].filter (isStale s)) s (purgeOne s h) := by
  rw [purgeOne_intact a.standby live intact]
  by_cases stale : isStale s h = true
  · rw [if_pos stale, List.filter_cons_of_pos stale]
    exact purged_one a live
  · rw [if_neg stale, List.filter_cons_of_neg stale]
    exact Purged.none a

/-- Visits to intact LIVE handles purge the stale ones among them, in order. -/
theorem visits_purged (a : Shadowing s) (nodup : l.Nodup)
    (intact : ∀ k ∈ l, (recordOf s k).handleState = .live ∧ recordIntact s k) :
    Purged (l.filter (isStale s)) s (l.foldl purgeOne s) := by
  induction l generalizing s with
  | nil => exact Purged.none a
  | cons k l ih =>
    obtain ⟨new, nodup⟩ := List.nodup_cons.1 nodup
    obtain ⟨live, good⟩ := intact k List.mem_cons_self
    have visit := purgeOne_purged a live good
    have stands {j : Nat} (mem : j ∈ l) : recordOf (purgeOne s k) j = recordOf s j := by
      refine (visit.record j).trans (if_neg fun purged => ?_)
      obtain rfl := List.mem_singleton.1 (List.mem_filter.1 purged).1
      exact new mem
    have shd : (purgeOne s k).shd = s.shd := by rw [visit.kept]
    have rest := ih (visit.shadowing a) nodup fun j mem => by
      rw [recordIntact, stands mem]
      exact intact j (List.mem_cons_of_mem k mem)
    have same : l.filter (isStale (purgeOne s k)) = l.filter (isStale s) :=
      List.filter_congr fun j mem => by rw [isStale, stands mem, shd]; rfl
    rw [same] at rest
    have both := visit.append rest fun j mem purged => by
      obtain rfl := List.mem_singleton.1 (List.mem_filter.1 purged).1
      exact new (List.mem_filter.1 mem).1
    rw [← List.filter_append] at both
    exact both

/-- The whole purge of intact records. -/
theorem purge_purged (a : Shadowing s) (intact : ∀ k, (recordOf s k).handleState = .live → recordIntact s k) :
    Purged (s.tbl.liveHandles.filter (isStale s)) s (purge s) :=
  visits_purged a (sparseSorted_nodup _ a.records _) fun k mem =>
    have live := (mem_liveHandles a.records k).1 mem
    ⟨live, intact k live⟩

theorem mem_stale (sorted : sparseSorted s.tbl.records = true) (k : Nat) : k ∈ s.tbl.liveHandles.filter (isStale s) ↔
    (recordOf s k).handleState = .live ∧ (recordOf s k).body.gen ≠ s.shd.adoptedGen := by
  rw [List.mem_filter, mem_liveHandles sorted, isStale, bne_iff_ne]
  rfl

end Sys2Proof.Machine
end

section
/-! SUPPORT. The comparison of the table's digest with a received one (R114 to R116), and the frame of a CHECKPOINT alone; and the
obligation about them. -/

-- One proof at a time: proofs that wait for earlier checks would each take a thread.
set_option Elab.async false

namespace Sys2Proof.Machine

open Sys2Proof.Safety

variable {s : State} {shd : Shd} {path : PathId} {kind : CompareKind} {gen : Word32} {seq : Word16} {n m : Word32}

/-! ## The comparison (R114 to R116) -/

/-- The table's digest is the one received. -/
abbrev SameDigest (n m : Word32) (s : State) : Prop := BitVec.ofNat 32 s.tbl.liveCount = n ∧ s.tbl.digestSum = m

/-- A comparison is written. -/
def compared (kind : CompareKind) (gen : Word32) (seq : Word16) (n m : Word32) (s : State) : State :=
  { s with shd := { s.shd with lastCompare := some (comparison kind gen seq n m s) } }

/-- A comparison reads the table alone. -/
theorem comparison_of {t : State} (tbl : t.tbl = s.tbl) : comparison kind gen seq n m t = comparison kind gen seq n m s := by
  simp only [comparison, tbl]

theorem compared_of (stood : s.shd = shd) : compared kind gen seq n m s =
    { s with shd := { shd with lastCompare := some (comparison kind gen seq n m s) } } := by
  rw [← stood]
  rfl

/-- A mismatch is counted and logged. -/
def mismatched (kind : CompareKind) (gen : Word32) (seq : Word16) (n m : Word32) (s : State) : State :=
  report .shd1 (frameInfo gen seq) (bump .shdDigestBad (compared kind gen seq n m s))

theorem compareDigest_match (same : SameDigest n m s) :
    compareDigest kind gen seq n m s = bump .shdDigestOk (compared kind gen seq n m s) := if_pos (decide_eq_true same)

theorem compareDigest_mismatch (other : ¬ SameDigest n m s) :
    compareDigest kind gen seq n m s = setBulkWanted (mismatched kind gen seq n m s) :=
  if_neg (by rw [show (comparison kind gen seq n m s).matched = false from decide_eq_false other]; decide)

theorem mismatched_touches (kind : CompareKind) (gen : Word32) (seq : Word16) (n m : Word32) (s : State) :
    Touches [.shd, .flt] s (mismatched kind gen seq n m s) :=
  Touches.trans (t := compared kind gen seq n m s) Touches.fields ((bump_touches _ _).trans (report_touches _ _ _)).mono

theorem mismatched_shd (kind : CompareKind) (gen : Word32) (seq : Word16) (n m : Word32) (s : State) :
    (mismatched kind gen seq n m s).shd = { s.shd with lastCompare := some (comparison kind gen seq n m s) } := rfl

theorem mismatched_log (kind : CompareKind) (gen : Word32) (seq : Word16) (n m : Word32) (s : State) :
    (mismatched kind gen seq n m s).flt.logDegraded =
      s.flt.logDegraded.report .shd1 (frameInfo gen seq) s.tim.seconds s.tim.ms := rfl

theorem mismatched_flag (kind : CompareKind) (gen : Word32) (seq : Word16) (n m : Word32) (s : State) :
    (mismatched kind gen seq n m s).flt.flags.getLsbD Flag.errDegraded.bit = true := by
  have own : ErrCode.shd1.cls.flag.bitmap.getLsbD Flag.errDegraded.bit = true := by decide
  rw [mismatched, report_flags, BitVec.getLsbD_or, own, Bool.or_true]

theorem counter_mismatched (kind : CompareKind) (gen : Word32) (seq : Word16) (n m : Word32) (s : State) :
    counter (mismatched kind gen seq n m s) .shdDigestBad = satAdd32 (counter s .shdDigestBad) 1 := by
  rw [mismatched, counter_report, counter_bump, if_pos rfl]
  rfl

/-- BULK_WANTED set. -/
def wanting (s : State) : State := { s with shd := { s.shd with bulkWanted := true } }

theorem wanting_shd (s : State) : (wanting s).shd = { s.shd with bulkWanted := true } := rfl

theorem setBulkWanted_set (set : s.shd.bulkWanted = true) : setBulkWanted s = s := if_pos set

theorem setBulkWanted_clear (clear : s.shd.bulkWanted = false) :
    setBulkWanted s = sendHello (wanting s) := if_neg (by rw [clear]; decide)

theorem sendHello_keeps (s : State) :
    (sendHello s).shd = s.shd ∧ (sendHello s).cfg = s.cfg ∧ (sendHello s).pai.role = s.pai.role := by
  refine ⟨sendHello_touches s .shd (by decide), sendHello_touches s .cfg (by decide), ?_⟩
  rw [sendHello_pai]
  split <;> rfl

theorem setBulkWanted_keeps (s : State) :
    (setBulkWanted s).shd.lastCompare = s.shd.lastCompare ∧ (setBulkWanted s).pai.role = s.pai.role := by
  unfold setBulkWanted
  split
  · exact ⟨rfl, rfl⟩
  · obtain ⟨shd, -, role⟩ := sendHello_keeps (wanting s)
    exact ⟨(congrArg Shd.lastCompare shd).trans rfl, role⟩

/-- A comparison leaves the role and stands as the last one. -/
theorem compareDigest_keeps (kind : CompareKind) (gen : Word32) (seq : Word16) (n m : Word32) (s : State) :
    (compareDigest kind gen seq n m s).shd.lastCompare = some (comparison kind gen seq n m s) ∧
      (compareDigest kind gen seq n m s).pai.role = s.pai.role := by
  by_cases same : SameDigest n m s
  · rw [compareDigest_match same]
    exact ⟨rfl, rfl⟩
  · rw [compareDigest_mismatch same]
    exact setBulkWanted_keeps _

/-! ## BULK_END (R114) -/

/-- A BULK_END whose purge leaves the part in a standby role. -/
theorem endBulk_compares (standby : (purge s).pai.role.isStandby = true) : endBulk gen seq n m s =
    if (purge s).pai.role = .standbySync ∧ SameDigest n m (purge s) then
      changeRole .standbyReady .bulkMatch (raise .bulk (compareDigest .bulkEnd gen seq n m (purge s)))
    else raise .bulk (compareDigest .bulkEnd gen seq n m (purge s)) := by
  obtain ⟨last, role⟩ := compareDigest_keeps .bulkEnd gen seq n m (purge s)
  have matched : lastMatched (raise .bulk (compareDigest .bulkEnd gen seq n m (purge s))) = true ↔ SameDigest n m (purge s) := by
    rw [lastMatched, raise_shd, last]
    exact decide_eq_true_iff
  rw [endBulk, whileStandby_in standby]
  exact if_congr (and_congr (by rw [raise_pai, role]) matched) rfl rfl

/-! ## A CHECKPOINT alone in its frame (R107, R108, R115) -/

theorem acceptFrame_checkpoint {id : FrameId} {ds : List Byte} (standby : s.pai.role.isStandby = true)
    (read : readDelta ds = some (.compare .checkpoint n m, [])) : acceptFrame path id ds s =
      countAccepted (compareDigest .checkpoint id.gen id.seq n m (accepted path id.seq s)) := by
  have still : (compareDigest .checkpoint id.gen id.seq n m (accepted path id.seq s)).pai.role.isStandby = true := by
    rw [(compareDigest_keeps ..).2]
    exact standby
  rw [acceptFrame_one read rfl, whileStandby_in still]

/-- What a hello and a frame counted behind it, then at most one notice, leave of a standby part with BULK_WANTED set (R108,
R116). -/
structure HelloCounted (s t : State) : Prop where
  blocks : Touches (.shd :: .pai :: noticeBlocks) s t
  shd    : t.shd = (counted s).shd
  pai    : t.pai = { s.pai with helloTimer := .running s.cfg.helloInterval }
  log    : t.flt.logDegraded = s.flt.logDegraded
  flag   : s.flt.flags.getLsbD Flag.errDegraded.bit = true → t.flt.flags.getLsbD Flag.errDegraded.bit = true
  count  : counter t .shdDigestBad = counter s .shdDigestBad
  sQueue : s.prt.sQueue.length < 80 → t.prt.sQueue = s.prt.sQueue ++ [mirrorFrame .primary (helloBytes (buildHello s)) s]

theorem counted_touches (s : State) : Touches [.shd] s (counted s) := Touches.fields

theorem counted_shd (s : State) : (counted s).shd = { s.shd with
    unacked := s.shd.unacked + 1
    ackTimer := if s.shd.unacked = 0 then .running s.cfg.ackDelay else s.shd.ackTimer } := rfl

theorem sendHello_counted {t : State} (outside : s.pai.role ≠ .detached) (n : Noticed (counted (sendHello s)) t) :
    HelloCounted s t := by
  have sent := sendHello_adds s
  obtain ⟨shd, cfg, -⟩ := sendHello_keeps s
  exact {
    blocks := ((sendHello_touches s).mono.trans (counted_touches _).mono).trans n.kept.blocks.mono
    shd := by
      rw [show t.shd = (counted (sendHello s)).shd from n.kept.blocks .shd (by decide), counted, shd, cfg]
      rfl
    pai := by
      rw [show t.pai = (sendHello s).pai from n.kept.blocks .pai (by decide), sendHello_pai, if_neg outside]
    log := by
      rw [n.kept.logs.1]
      exact (congrArg Flt.logDegraded sent.rest).trans rfl
    flag := fun was => by
      have apart : Flag.errNote.bitmap.getLsbD Flag.errDegraded.bit = false := by decide
      have sentFlag : (sendHello s).flt.flags.getLsbD Flag.errDegraded.bit = true := by
        simp only [sent.flags, BitVec.getLsbD_or, was, Bool.true_or]
      have both := congrArg (·.getLsbD Flag.errDegraded.bit) n.kept.flags
      simp only [BitVec.getLsbD_or, apart, Bool.or_false] at both
      exact both.trans sentFlag
    count := by
      have none (d : Ctr) (k : Nat) (other : d.pos ≠ Ctr.shdDigestBad.pos) : only d k .shdDigestBad = 0 := if_neg other
      rw [n.kept.counts .shdDigestBad (by decide)]
      refine (sent.count .shdDigestBad).trans ?_
      rw [none _ _ (by decide), none _ _ (by decide), Nat.add_zero, satAdd32_zero]
    sQueue := fun room => n.kept.sQueue.trans (sendHello_sQueue outside room) }

/-- The event of a mismatch at which BULK_WANTED changes, when its frame is not acknowledged at once. -/
theorem wanting_counted {v : State} {f : State → State} (effect : f v = countAccepted (setBulkWanted s))
    (clear : s.shd.bulkWanted = false) (outside : s.pai.role ≠ .detached) (few : s.shd.unacked + 1 < 8)
    (delayed : s.cfg.ackDelay ≠ 0) : HelloCounted (wanting s) (event f v) := by
  obtain ⟨shd, cfg, -⟩ := sendHello_keeps (wanting s)
  have waits := countAccepted_waits (s := sendHello (wanting s)) (by rw [shd]; exact few) (by rw [cfg]; exact delayed)
  rw [setBulkWanted_clear clear, waits] at effect
  exact sendHello_counted outside (event_becomes effect)

/-- The state from which the deltas of a frame that arrived by a path are applied. -/
theorem accepted_touches (path : PathId) (seq : Word16) (s : State) : Touches [.shd, .flt] s (accepted path seq (arrived path s)) :=
  ((bump_touches _ s).mono.trans (Touches.fields (bs := [.shd, .flt])
    (t := { arrived path s with shd := { s.shd with expectedSeq := seq + 1#16, ackPath := path } }))).trans (bump_touches _ _).mono

theorem counter_accepted (path : PathId) (seq : Word16) (s : State) :
    counter (accepted path seq (arrived path s)) .shdDigestBad = counter s .shdDigestBad := by
  rw [accepted, counter_bump, if_neg (by decide)]
  cases path <;> exact (counter_bump _ _ _).trans (if_neg (by decide))

theorem accepted_shd (path : PathId) (seq : Word16) (s : State) :
    (accepted path seq s).shd = { s.shd with expectedSeq := seq + 1#16, ackPath := path } := rfl

theorem arrived_shd (path : PathId) (s : State) : (arrived path s).shd = s.shd := rfl

theorem accepted_log (path : PathId) (seq : Word16) (s : State) :
    (accepted path seq s).flt.logDegraded = s.flt.logDegraded := rfl

theorem arrived_log (path : PathId) (s : State) : (arrived path s).flt.logDegraded = s.flt.logDegraded := rfl

/-- The state behind a CHECKPOINT that the table does not match, before BULK_WANTED is set and the frame is counted. -/
def missed (path : PathId) (n m : Word32) (s : State) : State :=
  mismatched .checkpoint s.shd.adoptedGen s.shd.expectedSeq n m (accepted path s.shd.expectedSeq (arrived path s))

theorem missed_touches (path : PathId) (n m : Word32) (s : State) : Touches [.shd, .flt] s (wanting (missed path n m s)) :=
  have files := mismatched_touches .checkpoint s.shd.adoptedGen s.shd.expectedSeq n m _
  ((accepted_touches path s.shd.expectedSeq s).trans files).trans (Touches.fields (s := missed path n m s))

theorem missed_flag (path : PathId) (n m : Word32) (s : State) :
    (wanting (missed path n m s)).flt.flags.getLsbD Flag.errDegraded.bit = true :=
  mismatched_flag .checkpoint s.shd.adoptedGen s.shd.expectedSeq n m (accepted path s.shd.expectedSeq (arrived path s))

theorem counter_missed (path : PathId) (n m : Word32) (s : State) :
    counter (missed path n m s) .shdDigestBad = satAdd32 (counter s .shdDigestBad) 1 := by
  rw [missed, counter_mismatched, counter_accepted]

theorem missed_shd (path : PathId) (n m : Word32) (s : State) : (missed path n m s).shd = { s.shd with
    expectedSeq := s.shd.expectedSeq + 1#16, ackPath := path
    lastCompare := some (comparison .checkpoint s.shd.adoptedGen s.shd.expectedSeq n m s) } := by
  have tbl : (accepted path s.shd.expectedSeq (arrived path s)).tbl = s.tbl := accepted_touches path _ s .tbl (by decide)
  rw [missed, mismatched_shd, accepted_shd, arrived_shd, comparison_of tbl]

theorem missed_log (path : PathId) (n m : Word32) (s : State) : (missed path n m s).flt.logDegraded =
    s.flt.logDegraded.report .shd1 (frameInfo s.shd.adoptedGen s.shd.expectedSeq) s.tim.seconds s.tim.ms := by
  have clock : (accepted path s.shd.expectedSeq (arrived path s)).tim = s.tim := accepted_touches path _ s .tim (by decide)
  rw [missed, mismatched_log, clock, accepted_log, arrived_log]

/-- A hello is built from these parts of the state (R123). -/
theorem buildHello_of {s t : State} (cfg : t.cfg = s.cfg) (zones : t.zones = s.zones) (tbl : t.tbl = s.tbl) (pai : t.pai = s.pai)
    (bulk : t.shd.bulkWanted = s.shd.bulkWanted) (refresh : t.shd.refresh = s.shd.refresh)
    (gen : t.shd.adoptedGen = s.shd.adoptedGen) : buildHello t = buildHello s := by
  simp only [buildHello, cfg, zones, tbl, pai, bulk, refresh, gen]

/-- The hello behind a mismatch is that of the state before it, with BULK_WANTED set. -/
theorem hello_missed (path : PathId) (n m : Word32) (s : State) : mirrorFrame .primary
    (helloBytes (buildHello (wanting (missed path n m s)))) (wanting (missed path n m s)) =
      mirrorFrame .primary (helloBytes (buildHello (wanting s))) s := by
  have stands := missed_touches path n m s
  have built : buildHello (wanting (missed path n m s)) = buildHello (wanting s) := by
    refine buildHello_of (stands .cfg (by decide)) (stands .zones (by decide)) (stands .tbl (by decide)) (stands .pai (by decide))
      rfl ?_ ?_ <;> rw [wanting_shd, missed_shd] <;> rfl
  rw [built]
  exact mirrorFrame_eq .primary _ (stands .cfg (by decide)) (congrArg Prt.peerMac (stands .prt (by decide)))

/-- The event of a CHECKPOINT alone in the next frame. -/
theorem checkpoint_event {c : Instr} {p : List Byte} (a : Arrives path s c p) (type : byteAt p 0 = 2#8)
    (standby : s.pai.role.isStandby = true) (bound : s.shd.bound = true) (adopted : word32At p 4 = s.shd.adoptedGen)
    (expected : word16At p 8 = s.shd.expectedSeq) (read : readDelta (deltaRange p) = some (.compare .checkpoint n m, [])) :
    ∃ f : State → State, exec c s = .next (event f s) ∧ f s = countAccepted
      (compareDigest .checkpoint s.shd.adoptedGen s.shd.expectedSeq n m (accepted path s.shd.expectedSeq (arrived path s))) := by
  obtain ⟨f, runs, judged⟩ := data_event a type fun is => by rw [is] at standby; cases standby
  have next : (word16At p 8 - s.shd.expectedSeq).toNat = 0 := by rw [expected, BitVec.sub_self]; rfl
  refine ⟨f, runs, ?_⟩
  rw [judged, receiveData_current (s := arrived path s) standby adopted bound, takeCurrent_next (s := arrived path s) next,
    acceptFrame_checkpoint (s := arrived path s) standby read, adopted, expected]

end Sys2Proof.Machine

namespace Sys2Proof.Proofs

open Sys2Proof.Machine Sys2Proof.Safety

/-- Settles O41: a CHECKPOINT's event is its comparison (`checkpoint_event`); a BULK_BEGIN is `beginBulk`, role by role; a BULK_END
compares (`endBulk_compares`) behind the purge that `purge_purged` says whole. -/
theorem checkpointComparesTheDigest : Obligations.CheckpointComparesTheDigest := by
  refine ⟨?_, ?_, ?_⟩
  · intro path s c p a type standby bound adopted expected stated held kind within few delayed count sum same compared shd info
      taken
    obtain ⟨f, runs, effect⟩ := checkpoint_event a type standby bound adopted expected
      (readDelta_checkpoint stated held kind within)
    refine ⟨fun equal => ?_, fun differs => ?_⟩
    · rw [compareDigest_match (s := accepted path s.shd.expectedSeq (arrived path s)) equal] at effect
      exact runs.trans (congrArg _ (event_is (effect.trans (countAccepted_waits few delayed)) rfl))
    · rw [compareDigest_mismatch (s := accepted path s.shd.expectedSeq (arrived path s)) differs, ← missed] at effect
      refine ⟨fun set => ?_, fun clear => ?_⟩
      · rw [setBulkWanted_set (s := missed path count sum s) set] at effect
        exact ⟨_, runs, event_becomes (effect.trans (countAccepted_waits few delayed))⟩
      · have outside : s.pai.role ≠ .detached := fun is => by rw [is] at standby; cases standby
        have sent := wanting_counted (s := missed path count sum s) effect clear outside few delayed
        have stands := missed_touches path count sum s
        have cfg : (wanting (missed path count sum s)).cfg = s.cfg := stands .cfg (by decide)
        have prt : (wanting (missed path count sum s)).prt = s.prt := stands .prt (by decide)
        have pai : (wanting (missed path count sum s)).pai = s.pai := stands .pai (by decide)
        have received : (counted (wanting (missed path count sum s))).shd = { shd with bulkWanted := true } := by
          rw [counted_shd, wanting_shd, missed_shd, cfg]
          rfl
        refine ⟨_, runs, stands.mono.trans sent.blocks, sent.shd.trans received, by rw [sent.pai, pai, cfg],
          sent.log.trans (missed_log path count sum s), sent.flag (missed_flag path count sum s),
          sent.count.trans (counter_missed path count sum s), fun room => ?_⟩
        rw [sent.sQueue (by rw [prt]; exact room), prt, hello_missed]
        rfl
  · intro id first count s begun
    refine ⟨fun later => if_neg fun both => ?_, fun isFirst adopting => ⟨fun sync => ?_, fun ready => ?_⟩⟩
    · obtain ⟨isFirst, adopting⟩ := both
      exact later.elim (fun no => by rw [no] at isFirst; cases isFirst) fun no => by rw [no] at adopting; cases adopting
    · rw [isFirst]
      exact (applyDelta_bulkBegin adopting count s).trans (congrArg some (beginBulk_sync sync count))
    · rw [isFirst]
      refine ⟨_, (applyDelta_bulkBegin adopting count s).trans (congrArg some (beginBulk_ready ready count)), ?_⟩
      rw [← ready]
      exact changeRole_changed .standbySync .bulkBegin begun
  · intro id first count sum s standby safe records slots intact stale purged
    have stands := shadowing_of_safe safe standby records slots
    have p := purge_purged stands intact
    have ends := endBulk_compares (gen := id.gen) (seq := id.seq) (n := count) (m := sum) (p.shadowing stands).standby
    have named (k : Nat) : k ∈ purged ↔ stale k := mem_stale records k
    have shd : (purge s).shd = s.shd := by rw [p.kept]
    have role : (purge s).pai.role = s.pai.role := by rw [p.kept]
    refine ⟨purge s, p.kept, fun k => (p.record k).trans (if_congr (named k) rfl rfl),
      fun q => ⟨fun out => ?_, fun stays => ?_⟩, p.free, p.count, p.digest, p.purges, p.counts, ?_⟩
    · obtain ⟨k, is, place⟩ := out
      exact (p.slot q).trans (if_pos ⟨k, (named k).2 is, place⟩)
    · refine (p.slot q).trans (if_neg ?_)
      rintro ⟨k, mem, place⟩
      exact place.elim (stays k ((named k).1 mem)).1 (stays k ((named k).1 mem)).2
    · intro same c compared bad matching
      have written : Machine.compared .bulkEnd id.gen id.seq count sum (purge s) = compared := compared_of shd
      have agrees (equal : same) : raise .bulk (compareDigest .bulkEnd id.gen id.seq count sum (purge s)) = matching :=
        congrArg (raise .bulk) ((compareDigest_match equal).trans (congrArg (bump .shdDigestOk) written))
      refine ⟨fun equal ready => ?_, fun equal sync => ?_, fun differs => ?_⟩
      · have stays : ¬ ((purge s).pai.role = .standbySync ∧ same) := fun both => by
          rw [role, ready] at both
          cases both.1
        exact congrArg some ((ends.trans (if_neg stays)).trans (agrees equal))
      · refine ⟨_, congrArg some (ends.trans (if_pos ⟨role.trans sync, equal⟩)), ?_⟩
        rw [agrees equal, ← sync, ← role]
        exact changeRole_changed .standbyReady .bulkMatch matching
      · have filed : mismatched .bulkEnd id.gen id.seq count sum (purge s) = bad :=
          congrArg (fun u => report .shd1 (frameInfo id.gen id.seq) (bump .shdDigestBad u)) written
        refine congrArg some ((ends.trans (if_neg fun both => differs both.2)).trans (congrArg (raise .bulk) ?_))
        exact (compareDigest_mismatch differs).trans (congrArg setBulkWanted filed)

end Sys2Proof.Proofs
end

section
/-! SUPPORT. A hello judged (R125): the rows in the rule's words, and what a judgment latched leaves; and the obligation about it. -/

-- One proof at a time: proofs that wait for earlier checks would each take a thread.
set_option Elab.async false

namespace Sys2Proof.Machine

open Sys2Proof.Safety

variable {s : State} {h : Hello} {path : PathId} {j : Judgment}

/-! ## The rows of R125 -/

/-- A role code that names no role, or DETACHED. -/
theorem shownRole_unfit_iff (h : Hello) :
    (h.shownRole = none ∨ h.shownRole = some .detached) ↔ (h.role = 0#8 ∨ 8 < h.role.toNat) := by
  unfold Hello.shownRole
  rw [← BitVec.toNat_inj, BitVec.toNat_ofNat]
  generalize h.role.toNat = code
  rcases Nat.lt_or_ge 8 code with beyond | named
  · obtain ⟨k, rfl⟩ := Nat.exists_eq_add_of_le' beyond
    exact iff_of_true (.inl rfl) (.inr beyond)
  · interval_cases code <;> simp [Role.ofCode]

/-- The row REVISION, with the roles by their codes. -/
theorem revisionRow_iff (h : Hello) (extra : Nat) :
    (h.revision ≠ nat8 Config.revision ∨ h.shownRole = none ∨ h.shownRole = some .detached ∨ 16 < h.count.toNat ∨
      extra < 2 * h.count.toNat) ↔
    (h.revision ≠ 3#8 ∨ h.role = 0#8 ∨ 8 < h.role.toNat ∨ 16 < h.count.toNat ∨ extra < 2 * h.count.toNat) :=
  or_congr Iff.rfl (by rw [← or_assoc, shownRole_unfit_iff, or_assoc])

/-! ## The judgment latched -/

/-- The judgment latched in its path: PEER rises when it changes (R125). -/
def latched (path : PathId) (j : Judgment) (s : State) : State :=
  if (s.pai.path path).judgment = j then s
  else raise .peer { s with pai := s.pai.setPath path { s.pai.path path with judgment := j } }

theorem latchJudgment_held (held : (s.pai.path path).judgment = j) : latchJudgment path j s = s := if_pos held

theorem latchJudgment_bad (bad : j ≠ .compatible) (moves : (s.pai.path path).judgment ≠ j) :
    latchJudgment path j s = report .pai2 (ErrInfo.ofPlace (pathPlace path)) (latched path j s) := by
  have moved : latched path j s = _ := if_neg moves
  rw [moved]
  exact (if_neg moves).trans (if_neg bad)

theorem latchJudgment_good (path : PathId) (s : State) : latchJudgment path .compatible s = latched path .compatible s := rfl

/-- A hello that is not COMPATIBLE changes the judgment alone. -/
theorem receiveHello_bad {p : List Byte} (judge : judgeHello s (readHello p) (p.length - 38) = j) (bad : j ≠ .compatible) :
    receiveHello path p s = if (s.pai.path path).judgment = j then s
      else report .pai2 (ErrInfo.ofPlace (pathPlace path)) (latched path j s) := by
  have alone : receiveHello path p s = latchJudgment path j s := by
    unfold receiveHello
    simp only [judge]
    exact if_neg bad
  rw [alone]
  split
  · next held => exact latchJudgment_held held
  · next moves => exact latchJudgment_bad bad moves

/-- A COMPATIBLE one is latched and taken. -/
theorem receiveHello_good {p : List Byte} (judge : judgeHello s (readHello p) (p.length - 38) = .compatible) :
    receiveHello path p s = takeHello path (readHello p) (latched path .compatible s) := by
  unfold receiveHello
  simp only [judge]
  rw [if_pos trivial, latchJudgment_good]

end Sys2Proof.Machine

namespace Sys2Proof.Proofs

open Sys2Proof.Safety Sys2Proof.Machine

/-- In DETACHED a mirror frame of either path is handed on or discarded (R8). -/
theorem arrives_detached {path : PathId} {s : State} {c : Instr} {p : List Byte} (a : Arrives path s c p)
    (detached : s.pai.role = .detached) : ∃ t, exec c s = .next t ∧ Touches noticeBlocks s t := by
  cases path with
  | primary =>
    obtain ⟨f, rfl, g, passes, _⟩ := a
    exact ⟨_, ((detachedIsAWire.1 f g s passes).1 detached).2, (bump_touches .sRx s).then (bump_touches .sDiscard _)⟩
  | secondary =>
    obtain ⟨f, g, rfl, passes, _⟩ := a
    obtain ⟨t, runs, becomes⟩ := ((detachedIsAWire.1 f g s passes).1 detached).1
    exact ⟨t, runs, ((bump_touches .wRx s).then (handToPort_touches .p g _)).trans becomes.kept.blocks⟩

/-- Settles O43: the rows are read in their order, and the judgment decides between `receiveHello_bad` and
`receiveHello_good`. -/
theorem helloIsJudgedByTheFirstRow : Obligations.HelloIsJudgedByTheFirstRow := by
  intro path s c p a type h self revision geometry zones latched judged
  refine ⟨arrives_detached a, fun outside => ?_⟩
  obtain ⟨f, runs, acts⟩ := hello_event a type outside
  have row := revisionRow_iff h (p.length - 38)
  have latches {j : Judgment} (judge : judgeHello s h (p.length - 38) = j) (bad : j ≠ .compatible) : judged j := by
    have received := acts.trans (receiveHello_bad (s := arrived path s) judge bad)
    refine ⟨judge, _, runs, event_becomes (received.trans ?_)⟩
    cases path <;> rfl
  refine ⟨fun own => ?_, fun other bad => ?_, fun other fits bad => ?_, fun other fits same bad => ?_,
    fun other fits same agree => ?_⟩
  · exact latches (if_pos own) nofun
  · exact latches ((if_neg other).trans (if_pos (row.2 bad))) nofun
  · exact latches ((if_neg other).trans ((if_neg (row.not.2 fits)).trans (if_pos bad))) nofun
  · exact latches ((if_neg other).trans ((if_neg (row.not.2 fits)).trans ((if_neg same).trans (if_pos bad)))) nofun
  · have judge : judgeHello s h (p.length - 38) = .compatible :=
      (if_neg other).trans ((if_neg (row.not.2 fits)).trans ((if_neg same).trans (if_neg agree)))
    exact ⟨judge, _, runs, event_becomes (acts.trans (receiveHello_good (s := arrived path s) judge))⟩

end Sys2Proof.Proofs
end

section
/-! SUPPORT. The ends of LISTEN and of grace (R132, R137): when a peer is usable (R128); and the obligation about them. -/

-- One proof at a time: proofs that wait for earlier checks would each take a thread.
set_option Elab.async false

namespace Sys2Proof.Machine

open Sys2Proof.Safety

variable {s : State}

/-- A usable peer has a path UP and a record that shows a role other than FAULTED (R128). -/
theorem peerUsable_iff (s : State) : peerUsable s = true ↔ (s.pai.primary.up = true ∨ s.pai.secondary.up = true) ∧
    ∃ pr r, s.pai.peer = some pr ∧ pr.hello.shownRole = some r ∧ r ≠ .faulted := by
  unfold peerUsable peerRole peerPresent
  rw [Bool.and_eq_true, Bool.or_eq_true]
  refine and_congr Iff.rfl ?_
  cases s.pai.peer with
  | none => simp
  | some pr => cases shown : pr.hello.shownRole <;> simp [shown]

end Sys2Proof.Machine

namespace Sys2Proof.Proofs

open Sys2Proof.Safety Sys2Proof.Machine

/-- Settles O48: each expiry is one role change, and at the end of grace a usable peer decides its role. -/
theorem listenAndGraceEndInARole : Obligations.ListenAndGraceEndInARole := by
  intro s running
  refine ⟨fun listen due => ?_, ?_⟩
  · have changed := changeRole_changed .solo .listenTimeout s
    rw [listen] at changed
    exact ⟨_, _, rfl, changed, atTick_noticed running (due_running _ due) rfl⟩
  · intro takeover due usable
    have usableIff : peerUsable s = true ↔ usable := peerUsable_iff s
    have ends {to_ : Role} (goes : (if peerUsable s then Role.active else .solo) = to_) :
        ∃ u t, exec .graceTimerExpiry s = .next t ∧ RoleChanged .takeover to_ .graceEnd s u ∧ Noticed u t := by
      have changed := changeRole_changed to_ .graceEnd s
      rw [takeover] at changed
      exact ⟨_, _, rfl, changed, atTick_noticed running (due_running _ due) (congrArg (changeRole · .graceEnd s) goes)⟩
    exact ⟨fun yes => ends (if_pos (usableIff.2 yes)), fun no => ends (if_neg (usableIff.not.2 no))⟩

end Sys2Proof.Proofs
end

section
/-! SUPPORT. START (R130): its checks in the rule's words, and what it clears; and the obligation about it. -/

-- One proof at a time: proofs that wait for earlier checks would each take a thread.
set_option Elab.async false

namespace Sys2Proof.Machine

open Sys2Proof.Safety

variable {s : State}

theorem distinct_iff (l : List Nat) : distinct l = true ↔ l.Nodup := by
  induction l with
  | nil => simp [distinct]
  | cons a l ih => simp [distinct, ih]

/-- The checks of START. -/
theorem startGood_iff (s : State) : startGood s = true ↔
    let vlans := (enabledZones s.zones).map fun p => p.2.vlan
    s.cfg.stationId ≠ 0 ∧ isUnicast s.cfg.stationMac = true ∧ s.cfg.stationMac ≠ 0#48 ∧ vlans ≠ [] ∧
      (s.cfg.syncVlan :: vlans).Nodup := by
  unfold startGood
  simp only [Bool.and_eq_true, distinct_iff, bne_iff_ne, Bool.not_eq_true', List.isEmpty_eq_false_iff, and_assoc]

theorem answerStart_refused (r : Request) (outside : s.pai.role ≠ .detached) : answerStart r s = refuse .badState s :=
  if_pos outside

theorem answerStart_bad (r : Request) (detached : s.pai.role = .detached) (bad : ¬ startGood s = true) :
    answerStart r s = refuse .badConfig s := (if_neg (not_not.2 detached)).trans (if_pos bad)

theorem answerStart_good (r : Request) (detached : s.pai.role = .detached) (good : startGood s = true) :
    answerStart r s = done (changeRole .listen .start (startKeepalive (clearPairing s))) :=
  (if_neg (not_not.2 detached)).trans (if_neg (not_not.2 good))

/-- What START clears and starts before the role changes. -/
theorem startKeepalive_clearPairing (s : State) : startKeepalive (clearPairing s) = { s with
    prt := { s.prt with peerMac := none }
    pai := { s.pai with
      primary := s.pai.primary.started, secondary := s.pai.secondary.started, peer := none, peerActiveSeen := false }
    flt := { s.flt with
      keepalive := if s.cfg.keepaliveWindow = 0 then s.flt.keepalive else .running s.cfg.keepaliveWindow
      flags := if s.pai.primary.judgment = .none ∧ s.pai.secondary.judgment = .none then s.flt.flags
        else s.flt.flags ||| Flag.peer.bitmap } } := by
  have cfg : (clearPairing s).cfg = s.cfg := clearPairing_touches s .cfg (by decide)
  unfold startKeepalive
  rw [cfg]
  unfold clearPairing
  by_cases window : s.cfg.keepaliveWindow = 0 <;>
    by_cases unjudged : s.pai.primary.judgment = .none ∧ s.pai.secondary.judgment = .none <;>
    simp only [window, unjudged, if_true, if_false] <;> rfl

end Sys2Proof.Machine

namespace Sys2Proof.Proofs

open Sys2Proof.Safety Sys2Proof.Machine

/-- Settles O50: the role and the checks choose among the three answers of `answerStart`; the good one is a role change from what
`startKeepalive_clearPairing` names. -/
theorem startChecksAndEntersListen : Obligations.StartChecksAndEntersListen := by
  intro s r rest commanded s0 vlans good begun v
  have checks : startGood s0 = true ↔ good := startGood_iff s0
  refine ⟨fun outside => ?_, fun detached bad => ?_, fun detached fits => ?_⟩
  · exact ⟨_, rfl, commanded_replied commanded rfl answerStart (answerStart_refused (s := s0) r outside)⟩
  · exact ⟨_, rfl, commanded_replied commanded rfl answerStart (answerStart_bad (s := s0) r detached (checks.not.2 bad))⟩
  · have begins : startKeepalive (clearPairing s0) = v := startKeepalive_clearPairing s0
    have changed := changeRole_changed .listen .start v
    rw [show v.pai.role = .detached from detached] at changed
    have answers := answerStart_good (s := s0) r detached (checks.2 fits)
    rw [begins] at answers
    exact ⟨_, _, rfl, changed, commanded_replied commanded rfl answerStart answers⟩

end Sys2Proof.Proofs
end

section
/-! SUPPORT. A tick as the commands of the expiries take it (R153 to R155): each expiry's command is its event, what the last tick
made due taken is `TickEnds`, and the cycles up to the next carry; and the obligations about the clock. -/

-- One proof at a time: proofs that wait for earlier checks would each take a thread.
set_option Elab.async false

namespace Sys2Proof.Machine

open Sys2Proof.Safety

variable {s : State}

/-! ## What the last tick made due (R155, R160) -/

/-- Every event of a list taken, one after another. -/
abbrev takeAll (es : List (State → State)) (s : State) : State := es.foldl (fun t e => e t) s

/-- The events of the timers' expiries, in the order of `expiryCommands`. -/
def expiryEvents : List (State → State) := tickEvents.drop 2

theorem endTick_takes (s : State) : endTick s = takeAll expiryEvents (holdEvents (patrolEvent s)) := rfl

/-- A command is the row of an event. -/
def RowOf (c : Instr) (e : State → State) : Prop := ∀ s, exec c s = .next (e s)

theorem expiry_rows : List.Forall₂ RowOf expiryCommands expiryEvents := by
  unfold expiryCommands expiryEvents
  repeat' constructor
  all_goals exact fun _ => rfl

/-- Everything that a tick can make due, with the hold queue's expiries one by one. -/
theorem due_rows : List.Forall₂ RowOf ([.patrolStep, .holdTimeout] ++ expiryCommands) ([patrolEvent, holdEvent] ++ expiryEvents) :=
  .cons (fun _ => rfl) (.cons (fun _ => rfl) expiry_rows)

theorem runs_rows {cs : List Instr} {es : List (State → State)} (rows : List.Forall₂ RowOf cs es) (s : State) :
    Runs cs s (takeAll es s) := by
  induction rows generalizing s with
  | nil => rfl
  | cons row _ ih => exact ⟨_, row s, ih _⟩

/-- Commands change nothing exactly when their events change nothing. -/
theorem rest_rows {cs : List Instr} {es : List (State → State)} (rows : List.Forall₂ RowOf cs es) (s : State) :
    (∀ c ∈ cs, exec c s = .next s) ↔ ∀ e ∈ es, e s = s := by
  induction rows with
  | nil => simp
  | cons row _ ih => simp [row s, ih]

theorem takeAll_rest {es : List (State → State)} (rest : ∀ e ∈ es, e s = s) : takeAll es s = s := by
  induction es with
  | nil => rfl
  | cons e es ih =>
    rw [takeAll, List.foldl_cons, rest e List.mem_cons_self]
    exact ih fun d h => rest d (List.mem_cons_of_mem _ h)

theorem runs_holdTimeouts (l : List HoldEntry) (s : State) :
    Runs (l.map fun _ => .holdTimeout) s (l.foldl (fun t _ => holdEvent t) s) := by
  induction l generalizing s with
  | nil => rfl
  | cons _ l ih => exact ⟨_, rfl, ih _⟩

theorem endTick_ends (s : State) : TickEnds s (endTick s) :=
  ⟨patrolEvent s, holdEvents (patrolEvent s), rfl, runs_holdTimeouts _ _, runs_rows expiry_rows _⟩

/-- With nothing due the end of a tick changes nothing. -/
theorem endTick_rests (rest : ∀ c ∈ [Instr.patrolStep, .holdTimeout] ++ expiryCommands, exec c s = .next s) : endTick s = s := by
  have events := (rest_rows due_rows s).1 rest
  have patrol : patrolEvent s = s := events _ (by simp)
  have holds : holdEvents s = s := List.foldl_fixed' (fun _ => events holdEvent (by simp)) s.hold
  rw [endTick_takes, patrol, holds]
  exact takeAll_rest fun e mem => events e (List.mem_append_right _ mem)

/-- While the clock is HALTED no expiry is taken. -/
theorem halted_rests (halted : s.tim.running = false) :
    ∀ c ∈ [Instr.patrolStep, .holdTimeout] ++ expiryCommands, exec c s = .next s := by
  refine (rest_rows due_rows s).2 fun e mem => ?_
  rcases List.mem_append.1 mem with first | expiry
  · rcases List.mem_pair.1 first with rfl | rfl <;> exact atTick_rests (.inl halted) _
  · exact tickEvents_halted e (List.mem_of_mem_drop expiry) s halted

/-! ## A tick (R154) -/

theorem isActive_eq (r : Role) : r.isActive = decide (r ∈ [.solo, .active, .takeover, .yielding]) := by cases r <;> rfl

theorem advance_eq (t : Tim) : t.advance = { t with
    ms := if 999 ≤ t.ms then 0 else t.ms + 1
    seconds := if 999 ≤ t.ms then t.seconds + 1#32 else t.seconds } := by
  unfold Tim.advance
  simp only [show 1000 ≤ t.ms + 1 ↔ 999 ≤ t.ms by omega]
  split <;> rfl

theorem mirTick_eq (s : State) : s.mir.tick (revertRuns s) (decide (1000 ≤ s.tim.ms + 1)) = { s.mir with
    openFrame := s.mir.openFrame.map fun fr => { fr with timer := fr.timer.tick }
    replayTimer := s.mir.replayTimer.tick
    revertElapsed :=
      if s.mir.suspendedPrimary = true ∧ s.pai.primary.up = true ∧ s.cfg.revertPeriod ≠ 0 then s.mir.revertElapsed + 1
      else s.mir.revertElapsed
    fcsCount := if 999 ≤ s.tim.ms then 0 else s.mir.fcsCount } := by
  unfold Mir.tick
  simp only [revertRuns_iff, decide_eq_true_eq, show 1000 ≤ s.tim.ms + 1 ↔ 999 ≤ s.tim.ms by omega]

/-! ## The cycles up to a carry (R153) -/

/-- The cycles up to the next carry are the least number whose sum reaches 2^32. -/
theorem cyclesToTick_le_iff {t : Tim} (counts : 0 < t.increment) (k : Nat) :
    cyclesToTick t ≤ k ↔ 2 ^ 32 ≤ t.acc.toNat + k * t.increment := by
  have least : cyclesToTick t ≤ k ↔ 2 ^ 32 - t.acc.toNat ≤ t.increment * k := ceilDiv_le_iff_le_mul counts
  rw [least, Nat.mul_comm, Nat.sub_le_iff_le_add']

theorem cyclesToTick_carries {t : Tim} (counts : 0 < t.increment) : 1 ≤ cyclesToTick t ∧
    t.acc.toNat + (cyclesToTick t - 1) * t.increment < 2 ^ 32 ∧ 2 ^ 32 ≤ t.acc.toNat + cyclesToTick t * t.increment := by
  have atLeastOne : 1 ≤ cyclesToTick t := by
    by_contra zero
    have carried := (cyclesToTick_le_iff counts 0).1 (by omega)
    have below := t.acc.isLt
    omega
  refine ⟨atLeastOne, Nat.lt_of_not_le fun early => ?_, (cyclesToTick_le_iff counts _).1 le_rfl⟩
  have := (cyclesToTick_le_iff counts _).2 early
  omega

/-! ## A halt (R156) -/

theorem haltWaits_commanded {r : Request} {rest : List Frame} (halt : Commanded 12#8 s r rest) : haltWaits s = true := by
  have row : r.row = .clockHalt := commanded_row halt
  obtain ⟨⟨f, queue, rfl, -⟩, -, length, -⟩ := halt
  simp [haltWaits, queue, row, length]

/-- A CLOCK_HALT is answered in the state that the end of the tick leads to. -/
theorem clockHalt_replied {r : Request} {rest : List Frame} (halt : Commanded 12#8 s r rest) :
    Replied r (Answer.only .ok)
      { dequeue rest (endTick s) with tim := { (endTick s).tim with running := false } } (clockHalt s) := by
  have acts : clockHalt s = takeRequest .clockHalt (control answerClockHalt) (endTick s) := by
    unfold clockHalt
    rw [if_pos (haltWaits_commanded halt)]
  have ended : Commanded 12#8 (endTick s) r rest := by
    obtain ⟨⟨f, queue, waits⟩, code⟩ := halt
    exact ⟨⟨f, (endTick_touches s .mgtQueue (by decide)).trans queue, waits⟩, code⟩
  rw [acts]
  exact commanded_replied ended rfl answerClockHalt rfl

end Sys2Proof.Machine

namespace Sys2Proof.Proofs

open Sys2Proof.Safety Sys2Proof.Machine

/-- Settles O2: the end of the last tick is `endTick`, which leaves the clock; then a cycle adds the increment once, and CLOCK_TICK as
often as the first carry needs. -/
theorem tickAdvancesClockAndTimers : Obligations.TickAdvancesClockAndTimers := by
  intro s ticked
  have ticks (u : State) (acc : Nat) : tick (setAcc acc u) = ticked u acc := by
    unfold tick
    rw [advance_eq, mirTick_eq, isActive_eq]
    rfl
  refine ⟨fun halted => ⟨fun idle => ?_, fun c mem => ?_⟩, fun running => ?_⟩
  · unfold step referenceCycle
    simp only [idle, halted, Bool.false_eq_true, if_false]
  · rcases List.mem_cons.1 mem with rfl | expiry
    · exact congrArg Host.Outcome.next (if_neg (by rw [halted]; decide))
    · exact halted_rests halted c expiry
  · obtain ⟨-, acc, increment, -, -⟩ := endTick_clock s
    refine ⟨endTick s, endTick_ends s, endTick_touches s, endTick_rests, fun idle => ?_, fun counts => ?_⟩
    · have cycle : step s = .next (addIncrement (endTick s)) := by
        unfold step referenceCycle
        simp only [idle, running, if_true]
      rw [cycle]
      unfold addIncrement
      rw [acc, increment]
      refine ⟨fun below => ?_, fun carry => ?_⟩
      · rw [if_pos below, setAcc, BitVec.ofNat_add, BitVec.ofNat_toNat, BitVec.setWidth_eq]
      · rw [if_neg (Nat.not_lt.2 carry), ticks]
    · obtain ⟨atLeastOne, before, carry⟩ := cyclesToTick_carries counts
      refine ⟨cyclesToTick s.tim, atLeastOne, before, carry, ?_⟩
      have passes : clockTick s = nextTick (endTick s) := if_pos running
      have same : cyclesToTick (endTick s).tim = cyclesToTick s.tim := by
        unfold cyclesToTick
        rw [acc, increment]
      show Host.Outcome.next (clockTick s) = _
      rw [passes, nextTick, same, acc, increment, ticks]

/-- Settles O53: CLOCK_RUN and CLOCK_SET are answered as they stand, a CLOCK_HALT after `endTick`, which leaves the request. -/
theorem clockCommandsActOnTheClock : Obligations.ClockCommandsActOnTheClock := by
  intro s r rest s0
  refine ⟨fun run => ?_, fun halt => ⟨fun running => ?_, fun halted => ?_⟩, fun set => ⟨fun halted => ?_, fun running => ?_⟩⟩
  · exact ⟨_, rfl, commanded_replied run rfl answerClockRun rfl⟩
  · exact ⟨_, _, endTick_ends s, endTick_touches s, endTick_rests, rfl, clockHalt_replied halt⟩
  · have replied := clockHalt_replied halt
    rw [endTick_halted s halted] at replied
    refine ⟨_, rfl, ?_⟩
    have stands : { s0 with tim := { s.tim with running := false } } = s0 := by
      rw [← halted]
      rfl
    rwa [stands] at replied
  · exact ⟨_, rfl, commanded_replied set rfl answerClockSet (if_neg (by rw [show s0.tim.running = false from halted]; decide))⟩
  · exact ⟨_, rfl, commanded_replied set rfl answerClockSet (if_pos running)⟩

end Sys2Proof.Proofs
end

section
/-! SUPPORT. A patrol step whose visits find nothing damaged (R160, R161): each visit ages its record or changes nothing; and the
obligation about it. -/

-- One proof at a time: proofs that wait for earlier checks would each take a thread.
set_option Elab.async false

namespace Sys2Proof.Machine

open Sys2Proof.Safety

variable {s u : State}

theorem patrolStep_behind (s : State) : patrolStep s = patrolBehind s ((patrolled s).foldl visitHandle s) := rfl

theorem patrolBehind_flags (s u : State) : (patrolBehind s u).flt.flags = u.flt.flags := by
  unfold patrolBehind
  simp only
  split <;> rfl

theorem visitHandle_young {h : Nat} (intact : visitIntact s h) (young : (recordOf s h).handleState = .live → ¬ isOld s h) :
    visitHandle s h = s := by
  rw [visitHandle_intact intact]
  exact if_neg fun old => young old.1 ((expired_iff s h).1 old.2)

theorem visitHandle_old {h : Nat} (intact : visitIntact s h) (live : (recordOf s h).handleState = .live) (old : isOld s h) :
    visitHandle s h = removeSession h .expired false s := by
  rw [visitHandle_intact intact]
  exact if_pos ⟨live, (expired_iff s h).2 old⟩

/-- Visits that find nothing damaged age their records: a removal leaves the later visits nothing damaged. -/
theorem visits_age {hs : List Nat} (records : sparseSorted s.tbl.records = true) (slots : sparseSorted s.tbl.slots = true)
    (intact : ∀ h ∈ hs, visitIntact s h) : Ages hs s (hs.foldl visitHandle s) := by
  induction hs generalizing s with
  | nil => rfl
  | cons h hs ih =>
    rw [List.forall_mem_cons] at intact
    obtain ⟨here, later⟩ := intact
    rw [List.foldl_cons]
    by_cases old : (recordOf s h).handleState = .live ∧ isOld s h
    · rw [visitHandle_old here old.1 old.2]
      have removed := removeSession_removed records slots old.1 .expired false
      obtain ⟨records', slots'⟩ := removeSession_sorted records slots h .expired false
      exact ⟨_, fun _ => removed, fun young => absurd old young,
        ih records' slots' fun k mem => removed_intact removed k (later k mem)⟩
    · rw [visitHandle_young here (not_and.1 old)]
      exact ⟨s, fun yes => absurd yes old, fun _ => rfl, ih records slots later⟩

theorem ages_flags {hs : List Nat} (ages : Ages hs s u) : u.flt.flags = s.flt.flags := by
  induction hs generalizing s with
  | nil => rw [show u = s from ages]
  | cons h hs ih =>
    obtain ⟨v, removed, stays, later⟩ := ages
    rw [ih later]
    by_cases old : (recordOf s h).handleState = .live ∧ isOld s h
    · rw [(removed old).flt]
    · rw [stays old]

/-- With none of the visited records old, the visits change nothing. -/
theorem visits_young {hs : List Nat} (intact : ∀ h ∈ hs, visitIntact s h)
    (young : ∀ h ∈ hs, (recordOf s h).handleState = .live → ¬ isOld s h) : hs.foldl visitHandle s = s := by
  induction hs with
  | nil => rfl
  | cons h hs ih =>
    rw [List.forall_mem_cons] at intact young
    rw [List.foldl_cons, visitHandle_young intact.1 young.1]
    exact ih intact.2 young.2

/-- A patrol step whose visits raise no flag: no notice follows it. -/
theorem exec_patrolStep (running : s.tim.running = true) (waits : patrolWaits s = true)
    (visits : (patrolled s).foldl visitHandle s = u) (flags : u.flt.flags = s.flt.flags) :
    exec .patrolStep s = .next (patrolBehind s u) := by
  have taken : patrolEvent s = event patrolStep s := atTick_acts running waits _
  have behind : patrolStep s = patrolBehind s u := by rw [patrolStep_behind, visits]
  exact congrArg Host.Outcome.next (taken.trans (event_is behind ((patrolBehind_flags s u).trans flags)))

theorem patrolWaits_false (rests : s.tim.patrolDue = false ∨ s.pai.role.isActive = false) : patrolWaits s = false := by
  unfold patrolWaits
  rcases rests with undue | inactive
  · rw [undue, Bool.false_and]
  · rw [inactive, Bool.and_false]

end Sys2Proof.Machine

namespace Sys2Proof.Proofs

open Sys2Proof.Safety Sys2Proof.Machine

/-- Settles O52: the step is its visits, by `visits_young` with none old and by `visits_age` else, and the cursor behind them. -/
theorem patrolStepAgesTheRecords : Obligations.PatrolStepAgesTheRecords := by
  intro s _
  refine ⟨fun rests => ?_, fun running due active intact => ?_⟩
  · exact congrArg Host.Outcome.next (atTick_rests (rests.imp_right patrolWaits_false) _)
  · have waits : patrolWaits s = true := by rw [patrolWaits, due, active]; rfl
    refine ⟨fun young => ?_, fun records slots => ?_⟩
    · exact exec_patrolStep running waits (visits_young intact young) rfl
    · have ages := visits_age records slots intact
      exact ⟨_, ages, exec_patrolStep running waits rfl (ages_flags ages)⟩

end Sys2Proof.Proofs
end

section
/-! SUPPORT. How the rises of each command are taken (R183, R184): an event, a request, or neither; and the obligation about
them. -/

-- One proof at a time: proofs that wait for earlier checks would each take a thread.
set_option Elab.async false

namespace Sys2Proof.Machine

open Sys2Proof.Safety

variable {s u : State}

/-! ## One event -/

theorem settle_calm (calm : ¬ Rises s u) : settle s.flt.flags u = u :=
  if_pos (by_contra fun bits => calm ((rises_iff s u).2 bits))

/-- A rise with the holdoff stopped and room at the P-port sends a notice. -/
theorem settle_sends (rises : Rises s u) (stopped : u.flt.holdoff = .stopped) (unmarked : u.flt.noticeMark = false)
    (room : u.prt.pQueue.length < 64) : settle s.flt.flags u = { u with
      prt := { u.prt with pQueue := u.prt.pQueue ++ [noticeBytes u] }
      flt := { u.flt with noticeMark := false, holdoff := .running u.cfg.noticeHoldoff } } := by
  have bits := (rises_iff s u).1 rises
  rcases settle_cases s.flt.flags u with ⟨none, -⟩ | ⟨-, ⟨⟨n, runs⟩, -⟩ | ⟨-, ⟨-, sent⟩ | ⟨full, -⟩⟩⟩
  · exact absurd none bits
  · rw [stopped] at runs
    cases runs
  · rw [sent, noticeFrame_eq, ← unmarked]
  · exact absurd room (Nat.not_lt.2 full)

/-- A rise while the holdoff runs sets the mark. -/
theorem settle_marks (rises : Rises s u) (runs : u.flt.holdoff ≠ .stopped) :
    settle s.flt.flags u = { u with flt := { u.flt with noticeMark := true } } := by
  have bits := (rises_iff s u).1 rises
  rcases settle_cases s.flt.flags u with ⟨none, -⟩ | ⟨-, ⟨-, marked⟩ | ⟨stopped, -⟩⟩
  · exact absurd none bits
  · exact marked
  · exact absurd stopped runs

/-! ## The holdoff's expiry -/

theorem holdoffExpired_sends (marked : s.flt.noticeMark = true) (room : s.prt.pQueue.length < 64) : holdoffExpired s = { s with
    prt := { s.prt with pQueue := s.prt.pQueue ++ [noticeBytes s] }
    flt := { s.flt with noticeMark := false, holdoff := .running s.cfg.noticeHoldoff } } := by
  rw [← noticeFrame_eq]
  exact (if_pos marked).trans (handToP_room (s := { s with
    flt := { s.flt with noticeMark := false, holdoff := .running s.cfg.noticeHoldoff } }) room)

theorem holdoffExpired_stops (unmarked : s.flt.noticeMark = false) :
    holdoffExpired s = { s with flt := { s.flt with holdoff := .stopped } } := if_neg (by rw [unmarked]; decide)

/-- The holdoff's expiry is taken where it raises no flag. -/
theorem exec_holdoffExpiry (running : s.tim.running = true) (due : s.flt.holdoff = .running 0) (e : holdoffExpired s = u)
    (flags : u.flt.flags = s.flt.flags) : exec .noticeHoldoffExpiry s = .next u :=
  congrArg Host.Outcome.next
    ((atTick_acts (d := fun s => s.flt.holdoff.due) running (due_running _ due) _).trans (event_is e flags))

/-! ## Each command -/

/-- A command takes its rises: behind the notice stands at most the response of a request. -/
def Taken (c : Instr) (s : State) : Prop :=
  ∃ t, exec c s = .next t ∧ RisesTaken (if Block.mgtQueue ∈ blocksOf c then 1 else 0) s t

/-- The blocks that the effects of the requests touch between them: all but the notice's own and the queues. -/
def handlerBlocks : List Block := .cfg :: .zones :: .timeouts :: .clock :: roleBlocks

theorem taken_event {c : Instr} {f : State → State} (touches : Touches (.mgtQueue :: roleBlocks) s (f s))
    (acts : exec c s = .next (event f s)) : Taken c s :=
  ⟨_, acts, (event_taken touches).mono (Nat.zero_le _)⟩

theorem taken_whenDue {c : Instr} {due : Bool} {f : State → State} (touches : Touches roleBlocks s (f s))
    (acts : exec c s = .next (event (whenDue due f) s)) : Taken c s :=
  taken_event (whenDue_touches due f s touches.mono) acts

theorem taken_request {c : Instr} {row : Row} {h : Handler} {bs : List Block}
    (touches : ∀ r : Request, r.row = row → ∀ t, Touches bs t (h r t).1) (acts : exec c s = .next (takeRequest row h s))
    (within : ∀ b, b ∈ bs → b ∈ handlerBlocks := by decide) (request : Block.mgtQueue ∈ blocksOf c := by decide) : Taken c s := by
  refine ⟨_, acts, ?_⟩
  rw [if_pos request]
  exact takeRequest_taken row h s fun r e t => (touches r e t).mono within

theorem taken_action {c : Instr} {row : Row} {act : Handler} {bs : List Block} (touches : ∀ r t, Touches bs t (act r t).1)
    (acts : exec c s = .next (takeRequest row (control act) s))
    (within : ∀ b, b ∈ bs → b ∈ handlerBlocks := by decide) (request : Block.mgtQueue ∈ blocksOf c := by decide) : Taken c s :=
  taken_request (fun r _ t => control_touches act r t (touches r t)) acts within request

theorem answerWrite_within (r : Request) (t : State) :
    Touches [.cfg, .zones, .timeouts, .tim, .clock, .flt] t (answerWrite r t).1 :=
  answerWrite_touches r t fun o _ _ => by cases o <;> decide

/-- A command that moves no flag and leaves the notice's items takes its rises, of which there are none. -/
theorem risesTaken_calm {n : Nat} (items : noticeItems u.flt = noticeItems s.flt) (flags : u.flt.flags = s.flt.flags) :
    RisesTaken n s u := by
  have calm : ¬ Rises s u := fun ⟨g, up, down, _⟩ => by
    rw [flags, down] at up
    cases up
  have holdoff : u.flt.holdoff = s.flt.holdoff := congrArg Prod.fst items
  exact ⟨fun _ runs => ⟨holdoff.trans runs, fun rises => absurd rises calm⟩, fun _ _ => items, fun _ rises => absurd rises calm⟩

theorem transmitted_taken (n : Nat) (port : Port) (s : State) : RisesTaken n s (transmitted port s) := by
  unfold transmitted
  split
  · exact RisesTaken.refl s
  · exact risesTaken_calm rfl rfl

theorem takeRunt_taken (s : State) : RisesTaken 1 s (takeRunt s) := by
  unfold takeRunt
  split
  · exact RisesTaken.refl s
  · split
    · next f rest _ _ =>
      have left : Touches [.mgtQueue, .flt] s { s with mgtQueue := rest } := Touches.fields
      exact (event_taken (left.trans ((bump_touches _ _).then (report_touches _ _ _)))).mono (Nat.zero_le 1)
    · exact RisesTaken.refl s

/-- While the clock is HALTED a CLOCK_HALT has nothing to take before it. -/
theorem clockHalt_halted (halted : s.tim.running = false) :
    clockHalt s = takeRequest .clockHalt (control answerClockHalt) s := by
  unfold clockHalt
  rw [endTick_halted s halted, ite_self]

/-- Every command that is one event takes its rises (R184). -/
theorem exec_taken (c : Instr) (s : State)
    (one : c ∉ [Instr.powerOn, .pinReset, .softReset, .clockTick, .noticeHoldoffExpiry])
    (halts : c = .clockHalt → s.tim.running = false) : Taken c s := by
  cases c with
  | powerOn | pinReset | softReset | clockTick | noticeHoldoffExpiry => exact absurd (by simp) one
  | pPortFrameReceive f =>
    exact taken_event (receive_touches .p f classP s (fun g t => (classP_touches g t).mono) (hs := nofun)) rfl
  | wPortFrameReceive f =>
    exact taken_event (receive_touches .w f takeW s (fun g t => (takeW_touches g t).mono) (hs := nofun)) rfl
  | sPortFrameReceive f =>
    exact taken_event (receive_touches .s f takeS s (fun g t => (takeS_touches g t).mono) (hs := fun _ => by decide)) rfl
  | frameTransmitComplete port => exact ⟨_, rfl, transmitted_taken _ port s⟩
  | patrolStep => exact taken_whenDue (patrolStep_touches s) rfl
  | holdTimeout => exact taken_whenDue (holdExpired_touches s).mono rfl
  | coalesceTimerExpiry => exact taken_whenDue (closeFrame_touches s).mono rfl
  | replayTimerExpiry => exact taken_whenDue (replayExpired_touches s).mono rfl
  | revertTimerExpiry => exact taken_whenDue (revertExpired_touches s).mono rfl
  | ackTimerExpiry => exact taken_whenDue (sendAck_touches s.shd.ackPath false s).mono rfl
  | helloTimerExpiry => exact taken_whenDue (sendHello_touches s).mono rfl
  | deadTimerExpiry path => exact taken_whenDue (pathDown_touches path s) rfl
  | listenTimerExpiry => exact taken_whenDue (changeRole_touches .solo .listenTimeout s) rfl
  | drainTimerExpiry => exact taken_whenDue (drainExpired_touches s).mono rfl
  | graceTimerExpiry => exact taken_whenDue (f := graceExpired) (changeRole_touches _ _ s) rfl
  | announceSpacingExpiry => exact taken_whenDue (nextRound_touches s).mono rfl
  | keepaliveTimerExpiry => exact taken_whenDue (keepaliveExpired_touches s) rfl
  | drained => exact taken_whenDue (setYieldFlag_touches s).mono rfl
  | deltaBuild => exact taken_event (buildDelta_touches s).mono rfl
  | read => exact taken_request (fun r _ => answerRead_touches r) rfl
  | readCountersClear => exact taken_request (fun r _ => answerReadClear_touches r) rfl
  | write | writeConfig | writeZones | writeTimeouts | writeStatus | writeClock =>
    exact taken_request (fun r _ => answerWrite_within r) rfl
  | install => exact taken_request (fun r _ => answerInstall_touches r) rfl
  | find => exact taken_request (fun r _ => answerFind_touches r) rfl
  | remove => exact taken_request (fun r _ => answerRemove_touches r) rfl
  | keepalive => exact taken_request (fun r _ => answerKeepalive_touches r) rfl
  | start => exact taken_action answerStart_touches rfl
  | stop => exact taken_action answerStop_touches rfl
  | take => exact taken_action answerTake_touches rfl
  | yield => exact taken_action answerYield_touches rfl
  | resume => exact taken_action answerResume_touches rfl
  | resumePath => exact taken_action answerResumePath_touches rfl
  | forceFault => exact taken_action answerForceFault_touches rfl
  | clearErrors => exact taken_action answerClearErrors_touches rfl
  | clearStatus => exact taken_action answerClearStatus_touches rfl
  | clockRun => exact taken_action (act := answerClockRun) (bs := [.tim, .clock]) (fun _ _ => Touches.fields) rfl
  | clockHalt =>
    exact taken_action (act := answerClockHalt) (bs := [.tim, .clock]) (fun _ _ => Touches.fields)
      (congrArg Host.Outcome.next (clockHalt_halted (halts rfl)))
  | clockSet => exact taken_action answerClockSet_touches rfl
  | runtRequest => exact ⟨_, rfl, takeRunt_taken s⟩
  | undefinedCommand => exact taken_request (bs := []) (fun _ _ t => Touches.refl t) rfl

end Sys2Proof.Machine

namespace Sys2Proof.Proofs

open Sys2Proof.Safety Sys2Proof.Machine

/-- Settles O60: an event ends in one of the three ways of `settle`, each command is an event or a request by `exec_taken`, and the
holdoff's expiry raises no flag. -/
theorem risesCauseOneNotice : Obligations.RisesCauseOneNotice := by
  intro s sent
  refine ⟨fun f => ⟨settle_calm, settle_sends, settle_marks⟩, fun c one halts => exec_taken c s one halts,
    fun running due => ⟨fun marked room => ?_, fun unmarked => ?_⟩⟩
  · exact exec_holdoffExpiry running due (holdoffExpired_sends marked room) rfl
  · exact exec_holdoffExpiry running due (holdoffExpired_stops unmarked) rfl

end Sys2Proof.Proofs
end

section
/-! SUPPORT. KEEPALIVE, CLEAR_ERRORS and CLEAR_STATUS (R174, R175, R177), and the obligation about them. -/

-- One proof at a time: proofs that wait for earlier checks would each take a thread.
set_option Elab.async false

namespace Sys2Proof.Machine

open Sys2Proof.Safety

variable {s : State} {r : Request}

/-! ## The keepalive timer (R175, R179) -/

theorem keepaliveRuns_iff (role : Role) : role.keepaliveRuns = true ↔ role ≠ .detached ∧ role ≠ .faulted := by
  cases role <;> simp [Role.keepaliveRuns]

theorem startKeepalive_eq (s : State) : startKeepalive s = { s with flt := { s.flt with
    keepalive := if s.cfg.keepaliveWindow = 0 then s.flt.keepalive else .running s.cfg.keepaliveWindow } } := by
  unfold startKeepalive
  by_cases window : s.cfg.keepaliveWindow = 0
  · simp only [if_pos window]
  · simp only [if_neg window]

/-! ## CLEAR_ERRORS and CLEAR_STATUS (R174, R177) -/

theorem answerClearErrors_named {c : ErrClass} (named : ErrClass.ofCode r.argument.toNat = some c) :
    answerClearErrors r s = done { s with flt := s.flt.setRecord c ErrRecord.empty } := by
  unfold answerClearErrors
  rw [named]

theorem ErrClass.ofCode_above {n : Nat} (above : 3 < n) : ErrClass.ofCode n = none := by
  obtain ⟨k, rfl⟩ := Nat.exists_eq_add_of_lt above
  rw [Nat.add_comm 3 k]
  rfl

theorem answerClearErrors_unnamed (above : 3 < r.argument.toNat) : answerClearErrors r s = refuse .badIndex s := by
  unfold answerClearErrors
  rw [ErrClass.ofCode_above above]

/-- An argument of 1 to 3 names each path whose bit it has. -/
theorem answerClearStatus_named (named : 1 ≤ r.argument.toNat ∧ r.argument.toNat ≤ 3) : answerClearStatus r s =
    done { s with pai := { s.pai with
      primary := if r.argument.toNat = 2 then s.pai.primary else { s.pai.primary with seen := false }
      secondary := if r.argument.toNat = 1 then s.pai.secondary else { s.pai.secondary with seen := false } } } := by
  unfold answerClearStatus
  have paths : r.argument.toNat = 1 ∨ r.argument.toNat = 2 ∨ r.argument.toNat = 3 := by omega
  rcases paths with primary | secondary | both
  · rw [primary]
    rfl
  · rw [secondary]
    rfl
  · rw [both]
    rfl

theorem answerClearStatus_unnamed (unnamed : r.argument.toNat = 0 ∨ 3 < r.argument.toNat) :
    answerClearStatus r s = refuse .badIndex s := by
  have none : latchesOf r.argument.toNat = .none := by
    rcases unnamed with zero | above
    · rw [zero]
      rfl
    · obtain ⟨k, paths⟩ := Nat.exists_eq_add_of_lt above
      rw [paths, Nat.add_comm 3 k]
      rfl
  unfold answerClearStatus
  rw [none]

end Sys2Proof.Machine

namespace Sys2Proof.Proofs

open Sys2Proof.Safety Sys2Proof.Machine

/-- Settles O58: the role decides about a KEEPALIVE, and the argument of a clear action about what it names. -/
theorem keepaliveAndClearActions : Obligations.KeepaliveAndClearActions := by
  intro s r rest s0
  refine ⟨fun waits command => ?_, fun commanded => ?_, fun commanded => ?_⟩
  · have row : r.row = .keepalive := by
      rw [waiting_row waits, command]
      rfl
    have runs : s0.pai.role.keepaliveRuns = true ↔ s.pai.role ≠ .detached ∧ s.pai.role ≠ .faulted := keepaliveRuns_iff _
    refine ⟨fun outside sound => ⟨_, rfl, taken_replied waits row answerKeepalive ?_⟩,
      fun rests => ⟨_, rfl, taken_replied waits row answerKeepalive (if_neg ?_)⟩⟩
    · exact (if_pos (runs.2 ⟨outside, sound⟩)).trans (congrArg done (startKeepalive_eq s0))
    · rw [runs, not_and_or, not_not, not_not]
      exact rests
  · intro cls cleared
    have clears {n : Nat} {c : ErrClass} (argument : cls.toNat = n) (code : ErrClass.ofCode n = some c) :
        cleared (s0.flt.setRecord c ErrRecord.empty) :=
      ⟨_, rfl, commanded_replied commanded rfl answerClearErrors (answerClearErrors_named (argument ▸ code))⟩
    exact ⟨fun note => clears (congrArg BitVec.toNat note) rfl, fun degraded => clears (congrArg BitVec.toNat degraded) rfl,
      fun loss => clears (congrArg BitVec.toNat loss) rfl, fun fault => clears (congrArg BitVec.toNat fault) rfl,
      fun above => ⟨_, rfl, commanded_replied commanded rfl answerClearErrors (answerClearErrors_unnamed above)⟩⟩
  · intro paths
    exact ⟨fun named => ⟨_, rfl, commanded_replied commanded rfl answerClearStatus (answerClearStatus_named named)⟩,
      fun unnamed => ⟨_, rfl, commanded_replied commanded rfl answerClearStatus (answerClearStatus_unnamed unnamed)⟩⟩

end Sys2Proof.Proofs
end

section
/-! SUPPORT. Requests of no effect (R163 to R167, R174, R187): what names no row, what a check refuses, the bytes of a request
and of its response; and the obligation about them. -/

-- One proof at a time: proofs that wait for earlier checks would each take a thread.
set_option Elab.async false

namespace Sys2Proof.Machine

open Sys2Proof.Safety

variable {s : State} {r : Request} {rest : List Frame}

/-! ## Frames and requests that no row takes (R163, R165, R174) -/

/-- A frame that is no request is counted and reported, and nothing else. -/
theorem takeRunt_noticed {f : Frame} (queue : s.mgtQueue = f :: rest) (short : (readRequest f).rest < (readRequest f).length) :
    Noticed (report .mgt1 ErrInfo.none (bump .mgtRunt { s with mgtQueue := rest })) (takeRunt s) := by
  have row : (readRequest f).row = .runt := if_pos short
  unfold takeRunt
  simp only [queue]
  rw [if_pos row]
  exact event_becomes rfl

/-- A command code that is not one of the seven. -/
theorem undefined_row (w : Waiting s r rest) (code : r.command = 0 ∨ 7 < r.command) : r.row = .undefined := by
  rw [waiting_row w]
  rcases code with zero | above
  · rw [zero]
    rfl
  · obtain ⟨k, command⟩ := Nat.exists_eq_add_of_lt above
    rw [command, Nat.add_comm 7 k]
    rfl

theorem Row.ofAction_undefined {n : Nat} (code : n = 0 ∨ 13 < n) : Row.ofAction n = .undefined := by
  rcases code with rfl | above
  · rfl
  · obtain ⟨k, rfl⟩ := Nat.exists_eq_add_of_lt above
    rw [Nat.add_comm 13 k]
    rfl

theorem undefined_replied (w : Waiting s r rest) (row : r.row = .undefined) {st : Status}
    (status : (if r.command = 6 ∧ r.length ≠ 8 then Status.badLength else .badCommand) = st) :
    ∃ t, exec .undefinedCommand s = .next t ∧ Replied r (Answer.only st) (dequeue rest s) t :=
  ⟨_, rfl, taken_replied w row answerUndefined (status ▸ rfl)⟩

/-! ## A CONTROL request of another length (R187) -/

section short

variable (w : Waiting s r rest) (command : r.command = 6) (short : r.length ≠ 8)
include w short

theorem short_control {row : Row} (of : r.row = row) (act : Handler) :
    Replied r (Answer.only .badLength) (dequeue rest s) (takeRequest row (control act) s) :=
  taken_replied w of (control act) (if_neg short)

/-- SOFT_RESET, whose row is its own: it resets nothing. -/
theorem short_softReset (of : r.row = .softReset) : Replied r (Answer.only .badLength) (dequeue rest s) (takeSoftReset s) := by
  have refused : takeSoftReset s = serve (fun _ s => refuse .badLength s) r rest s := by
    obtain ⟨f, queue, rfl, -⟩ := w
    unfold takeSoftReset
    simp only [queue]
    rw [if_pos of, if_neg short]
  rw [refused]
  exact serve_replied (fun _ s => refuse .badLength s) r rest s

/-- CLOCK_HALT, which takes nothing that is due before it. -/
theorem short_clockHalt (of : r.row = .clockHalt) : Replied r (Answer.only .badLength) (dequeue rest s) (clockHalt s) := by
  have stays : haltWaits s = false := by
    obtain ⟨f, queue, rfl, -⟩ := w
    simp [haltWaits, queue, short]
  unfold clockHalt
  rw [stays]
  exact short_control w short of answerClockHalt

include command

/-- Whatever its action, the command of that action answers BAD_LENGTH. -/
theorem short_replied :
    ∃ t, exec (controlCommand r) s = .next t ∧ Replied r (Answer.only .badLength) (dequeue rest s) t := by
  have undefined (of : r.row = .undefined) := undefined_replied w of (if_pos ⟨command, short⟩)
  have row := waiting_row w
  rw [command] at row
  unfold controlCommand
  cases payload : r.payload with
  | nil => exact undefined (by rw [row, payload]; rfl)
  | cons a bs =>
    have row : r.row = Row.ofAction a.toNat := by rw [row, payload]; rfl
    simp only [List.head?_cons, Option.map_some]
    generalize a.toNat = n at row
    match n, row with
    | 0, row => exact undefined row
    | 1, row => exact ⟨_, rfl, short_control w short row answerStart⟩
    | 2, row => exact ⟨_, rfl, short_control w short row answerStop⟩
    | 3, row => exact ⟨_, rfl, short_control w short row answerTake⟩
    | 4, row => exact ⟨_, rfl, short_control w short row answerYield⟩
    | 5, row => exact ⟨_, rfl, short_control w short row answerResume⟩
    | 6, row => exact ⟨_, rfl, short_control w short row answerResumePath⟩
    | 7, row => exact ⟨_, rfl, short_control w short row answerForceFault⟩
    | 8, row => exact ⟨_, rfl, short_softReset w short row⟩
    | 9, row => exact ⟨_, rfl, short_control w short row answerClearErrors⟩
    | 10, row => exact ⟨_, rfl, short_control w short row answerClearStatus⟩
    | 11, row => exact ⟨_, rfl, short_control w short row answerClockRun⟩
    | 12, row => exact ⟨_, rfl, short_clockHalt w short row⟩
    | 13, row => exact ⟨_, rfl, short_control w short row answerClockSet⟩
    | k + 14, row => exact undefined row

end short

/-! ## Checks 2 to 6 of a WRITE (R165, R167) -/

theorem answerWrite_refused {st : Status} (check : checkAccess false r = .error st) (s : State) :
    answerWrite r s = (s, Answer.only st) := by
  unfold answerWrite
  rw [check]

theorem answerWrite_readOnly {o : Object} {is : List Nat} (access : checkAccess false r = .ok (o, is))
    (unwritten : o.writable = false) (s : State) : answerWrite r s = (s, Answer.only .readOnly) := by
  unfold answerWrite
  simp only [access]
  exact if_pos (by rw [unwritten]; decide)

theorem checkAccess_noObject (isRead : Bool) (none : Object.ofCode r.object = .none) :
    checkAccess isRead r = .error .badObject := by
  unfold checkAccess
  rw [none]

/-- The object codes are 1 to 9. -/
theorem Object.ofCode_none {n : Nat} (none : Object.ofCode n = .none) : n = 0 ∨ ∃ k, n = k + 10 := by
  match n, none with
  | 0, _ => exact .inl rfl
  | k + 10, _ => exact .inr ⟨k, rfl⟩

/-- A WRITE of no object is taken by the row of what is not written. -/
theorem write_noObject (w : Waiting s r rest) (command : r.command = 2) (none : Object.ofCode r.object = .none) :
    ∃ t, exec .write s = .next t ∧ Replied r (Answer.only .badObject) (dequeue rest s) t := by
  have row : r.row = .write := by
    rw [waiting_row w, command]
    rcases Object.ofCode_none none with zero | ⟨k, above⟩
    · rw [zero]
      rfl
    · rw [above]
      rfl
  exact ⟨_, rfl, taken_replied w row answerWrite (answerWrite_refused (checkAccess_noObject false none) _)⟩

/-! ## The bytes of a request and of its response (R164, R187) -/

theorem byteAt_drop (f : List Byte) (off i : Nat) : byteAt (f.drop off) i = byteAt f (off + i) := by
  simp [byteAt, List.getD_eq_getElem?_getD]

theorem word16At_drop (f : List Byte) (off i : Nat) : word16At (f.drop off) i = word16At f (off + i) := by
  unfold word16At
  rw [byteAt_drop, byteAt_drop, Nat.add_assoc]

/-- Where the header of a frame ends, and whom it comes from. -/
theorem readHeader_off (vlan : Nat) (f : Frame) : (readHeader vlan f).off = (if word16At f 12 = 0x8100#16 then 18 else 14) ∧
    (readHeader vlan f).src = macAt f 6 := by
  unfold readHeader
  split <;> exact ⟨rfl, rfl⟩

/-- Each field of a request stands at its place behind the Ethernet header. -/
theorem readRequest_eq (f : Frame) {off : Nat} (ends : (if word16At f 12 = 0x8100#16 then 18 else 14) = off) :
    readRequest f =
      { src := macAt f 6, tag := word16At f off, command := (byteAt f (off + 2)).toNat, object := (byteAt f (off + 3)).toNat,
        index := (word16At f (off + 4)).toNat, count := (byteAt f (off + 6)).toNat, stepMode := (byteAt f (off + 7)).toNat,
        span := (byteAt f (off + 8)).toNat, clear := (byteAt f (off + 9)).getLsbD 0,
        length := (word16At f (off + 10)).toNat, rest := (f.drop (off + 16)).length,
        payload := slice f (off + 16) (word16At f (off + 10)).toNat } := by
  obtain ⟨header, src⟩ := readHeader_off 0 f
  rw [ends] at header
  unfold readRequest slice
  simp only [header, src, byteAt_drop, word16At_drop, List.drop_drop, Nat.add_zero]

theorem responseFrame_eq (r : Request) (a : Answer) (s : State) : responseFrame r a s =
    bytes48 r.src ++ bytes48 s.cfg.stationMac ++ bytes16 s.cfg.mgmtEthertype ++
      [1#8, nat8 a.status.code] ++ bytes16 r.tag ++ nat16 a.payload.length ++ [0#8, 0#8] ++ a.payload := by
  simp only [responseFrame, etherFrame, List.append_assoc]
  rfl

end Sys2Proof.Machine

namespace Sys2Proof.Proofs

open Sys2Proof.Safety Sys2Proof.Machine

/-- Settles O57: a code that names nothing leads to the row of the undefined, a CONTROL request is judged by its length first
(`short_replied`), and `checkAccess` gives the first check of a WRITE that fails. -/
theorem requestsOfNoEffectAreAnswered : Obligations.RequestsOfNoEffectAreAnswered := by
  refine ⟨fun s => ⟨fun f rest queue short => ⟨_, rfl, takeRunt_noticed queue short⟩, fun r rest w => ?_⟩, fun f a s => ?_⟩
  · intro answered
    refine ⟨fun code => ?_, fun a command eight action code => ?_, short_replied w, write_noObject w, fun o command object => ?_⟩
    · exact undefined_replied w (undefined_row w code) (if_neg (by omega))
    · have row : r.row = .undefined := (commanded_row ⟨w, command, eight, action⟩).trans
        (Row.ofAction_undefined (code.imp_left (congrArg BitVec.toNat)))
      exact undefined_replied w row (if_neg fun other => other.2 eight)
    · intro allowed fits
      obtain ⟨badCommand, badIndex, badLength, access⟩ := checkAccess_write o r object
      have refused {st : Status} (check : checkAccess false r = .error st) : answered (writeCommand o) st :=
        write_replied w command o object (answerWrite_refused check _)
      refine ⟨fun bad => refused (badCommand bad), fun good outside => refused (badIndex good outside),
        fun good inside bad => refused (badLength good inside bad), fun unwritten good inside fit => ?_⟩
      have readOnly (no : o.writable = false) : answered (writeCommand o) .readOnly :=
        write_replied w command o object (answerWrite_readOnly (access good inside fit) no _)
      cases o with
      | session | counters | errlog | pairing => exact readOnly rfl
      | config | zones | timeouts | status | clock => exact absurd unwritten (by decide)
  · intro r off
    have request := readRequest_eq f (off := off) rfl
    have response := responseFrame_eq r a s
    rw [show r = _ from request] at response ⊢
    exact ⟨⟨rfl, rfl, rfl, rfl, rfl, rfl, rfl, rfl, rfl, rfl, rfl⟩, response⟩

end Sys2Proof.Proofs
end

section
/-! SUPPORT. WRITEs of CONFIG (R168, R169, R179, R180): checks 7 and 8 in the rules' words, the entry that stands, the keepalive
timer after a change of its window; and the obligation about them. -/

-- One proof at a time: proofs that wait for earlier checks would each take a thread.
set_option Elab.async false

namespace Sys2Proof.Machine

open Sys2Proof.Safety

variable {s : State} {r : Request} {rest : List Frame}

/-! ## Checks 7 and 8 (R165, R168, R169) -/

/-- Entry k of a WRITE of CONFIG as it would be stored. -/
def storedConfig (r : Request) (k : Nat) : ConfigRec := (readConfig (entryOf .config r k)).clamped

/-- The role permits the write: DETACHED does, and another role one that keeps every fixed field. -/
theorem configLocked_iff (r : Request) (s : State) :
    writeLocked .config ((List.range r.count).map (entryOf .config r)) s = false ↔
      (s.pai.role = .detached ∨ ∀ k < r.count, (byteAt (entryOf .config r k) 16).toNat ≤ 1 ∧
        (storedConfig r k).withFree s.cfg = s.cfg) := by
  simp only [writeLocked, Bool.and_eq_false_iff, bne_eq_false_iff_eq, List.any_map, List.any_eq_false, List.mem_range,
    Function.comp, Bool.not_eq_true, Bool.or_eq_false_iff, Bool.not_eq_false', tunnelDefined, decide_eq_true_eq, storedConfig]

theorem configBad_iff (p : List Byte) : entryBad .config p = false ↔
    (byteAt p 16).toNat ≤ 1 ∧ (byteAt p 17).toNat ≤ 1 ∧
      (readConfig p).clamped.mgmtEthertype ≠ (readConfig p).clamped.mirrorEthertype := by
  simp only [entryBad, tunnelDefined, policyDefined, Bool.or_eq_false_iff, Bool.not_eq_false', decide_eq_true_eq, and_assoc,
    beq_eq_false_iff_ne]

/-! ## The write (R168, R180) -/

/-- The last CONFIG entry stands. -/
theorem afterEntries_config (r : Request) (s : State) (nonempty : 1 ≤ r.count) :
    afterEntries .config r s = { s with cfg := storedConfig r (r.count - 1) } :=
  afterEntries_of_each (g := fun n => { s with cfg := storedConfig r n }) rfl (fun _ => rfl) nonempty

/-- The keepalive timer after a write that left the window `new` where `old` was (R180). -/
def keepaliveNext (old new : Nat) (role : Role) (timer : Timer) : Timer :=
  if new = old then timer
  else if new = 0 then .stopped
  else if timer ≠ .stopped ∨ (old = 0 ∧ role ≠ .detached ∧ role ≠ .faulted) then .running new
  else timer

theorem keepaliveAfterWrite_eq (old : Nat) (s : State) : keepaliveAfterWrite old s = { s with flt := { s.flt with
    keepalive := keepaliveNext old s.cfg.keepaliveWindow s.pai.role s.flt.keepalive } } := by
  unfold keepaliveAfterWrite keepaliveNext
  simp only [keepaliveRuns_iff]
  split_ifs <;> rfl

/-- The state after a WRITE of CONFIG. -/
def configWritten (c : ConfigRec) (s : State) : State :=
  { s with cfg := c, flt := { s.flt with
      keepalive := keepaliveNext s.cfg.keepaliveWindow c.keepaliveWindow s.pai.role s.flt.keepalive } }

theorem applyEntries_config (r : Request) (s : State) (nonempty : 1 ≤ r.count) :
    applyEntries .config ((List.range r.count).map (entryPlace r)) ((List.range r.count).map (entryOf .config r)) s =
      configWritten (storedConfig r (r.count - 1)) s := by
  have zipped : (((List.range r.count).map (entryPlace r)).zip ((List.range r.count).map (entryOf .config r))).foldl
      (applyEntry .config) s = afterEntries .config r s := by
    rw [List.zip_map', List.foldl_map]
    rfl
  unfold applyEntries
  rw [zipped, afterEntries_config r s nonempty, keepaliveAfterWrite_eq]
  rfl

/-- Checks 7 and 8, and the answer of a WRITE of CONFIG that meets them. -/
theorem answerWrite_config (nonempty : 1 ≤ r.count)
    (access : checkAccess false r = .ok (.config, (List.range r.count).map (entryPlace r))) (s : State) : answerWrite r s =
      if writeLocked .config ((List.range r.count).map (entryOf .config r)) s then (s, Answer.only .locked)
      else if (List.range r.count).any fun k => entryBad .config (entryOf .config r k) then (s, Answer.only .badConfig)
      else (configWritten (storedConfig r (r.count - 1)) s,
        { status := if (List.range r.count).any fun k => entryClamps .config (entryOf .config r k) then .clamped else .ok
          payload := (List.range r.count).flatMap fun _ => configEntry (storedConfig r (r.count - 1)) }) := by
  have entries : entriesOf Object.config.entrySize r.count r.payload = (List.range r.count).map (entryOf .config r) :=
    entriesOf_eq _ _ _
  unfold answerWrite
  simp only [access, entries, applyEntries_config r s nonempty, List.any_map, List.flatMap_map, Function.comp_def]
  rfl

end Sys2Proof.Machine

namespace Sys2Proof.Proofs

open Sys2Proof.Safety Sys2Proof.Machine

/-- Settles O55: checks 7 and 8 choose among the three answers of `answerWrite_config`. -/
theorem configWriteAppliesOrIsLocked : Obligations.ConfigWriteAppliesOrIsLocked := by
  intro s r rest waits command object fields clear within room length s0 entry asked stored tunnelGood free allowed good c keepalive
  have code : Object.ofCode r.object = some .config := by rw [object]; rfl
  have access := (checkAccess_write .config r code).2.2.2 ⟨fields, clear⟩ within ⟨room, length⟩
  have answer := answerWrite_config fields.1 access s0
  have replied {a : Answer} {u : State} (e : answerWrite r s0 = (u, a)) :
      ∃ t, exec .writeConfig s = .next t ∧ Replied r a u t := write_replied waits command .config code e
  have locks : writeLocked .config ((List.range r.count).map (entryOf .config r)) s0 = false ↔ allowed := configLocked_iff r s0
  have judged : ((List.range r.count).any fun k => entryBad .config (entryOf .config r k)) = false ↔ good := by
    simp only [List.any_eq_false, List.mem_range, Bool.not_eq_true]
    exact forall₂_congr fun k _ => configBad_iff _
  refine ⟨fun no => ?_, fun may bad => ?_, fun may fine => ?_⟩
  · exact replied (answer.trans (if_pos (Bool.of_not_eq_false (mt locks.1 no))))
  · exact replied (answer.trans ((if_neg (by rw [locks.2 may]; decide)).trans
      (if_pos (Bool.of_not_eq_false (mt judged.1 bad)))))
  · exact replied (answer.trans ((if_neg (by rw [locks.2 may]; decide)).trans (if_neg (by rw [judged.2 fine]; decide))))

end Sys2Proof.Proofs
end

section
/-! SUPPORT. Reading what stands in a list of fields: each read passes the fields before its own, one by one. -/

-- One proof at a time: proofs that wait for earlier checks would each take a thread.
set_option Elab.async false

namespace Sys2Proof.Machine

variable {a b : List Byte} {i : Nat}

/-! ## Past what stands before, and within what stands first -/

@[simp] theorem byteAt_past (h : a.length ≤ i) : byteAt (a ++ b) i = byteAt b (i - a.length) := by
  rw [← byteAt_append a b, Nat.add_sub_cancel' h]

@[simp] theorem word16At_past (h : a.length ≤ i) : word16At (a ++ b) i = word16At b (i - a.length) := by
  rw [← word16At_append a b, Nat.add_sub_cancel' h]

@[simp] theorem word32At_past (h : a.length ≤ i) : word32At (a ++ b) i = word32At b (i - a.length) := by
  rw [← word32At_append a b, Nat.add_sub_cancel' h]

@[simp] theorem macAt_past (h : a.length ≤ i) : macAt (a ++ b) i = macAt b (i - a.length) := by
  rw [← macAt_append a b, Nat.add_sub_cancel' h]

@[simp] theorem byteAt_first (h : i < a.length) : byteAt (a ++ b) i = byteAt a i := by
  simp only [byteAt, List.getD_eq_getElem?_getD, List.getElem?_append_left h]

@[simp] theorem word16At_first (h : i + 2 ≤ a.length) : word16At (a ++ b) i = word16At a i := by
  unfold word16At
  rw [byteAt_first (by omega), byteAt_first (by omega)]

@[simp] theorem word32At_first (h : i + 4 ≤ a.length) : word32At (a ++ b) i = word32At a i := by
  unfold word32At
  rw [word16At_first (by omega), word16At_first (by omega)]

@[simp] theorem macAt_first (h : i + 6 ≤ a.length) : macAt (a ++ b) i = macAt a i := by
  unfold macAt
  rw [word16At_first (by omega), word32At_first (by omega)]

@[simp] theorem slice_past {n : Nat} (h : a.length ≤ i) : slice (a ++ b) i n = slice b (i - a.length) n := by
  simp only [slice, List.drop_append, List.drop_eq_nil_of_le h, List.nil_append]

@[simp] theorem slice_first {n : Nat} (h : i + n ≤ a.length) : slice (a ++ b) i n = slice a i n := by
  unfold slice
  rw [List.drop_append_of_le_length (by omega), List.take_append_of_le_length (by rw [List.length_drop]; omega)]

@[simp] theorem slice_whole {n : Nat} (h : a.length = n) : slice a 0 n = a := by
  subst h
  simp [slice]

/-! ## In a part -/

theorem byteAt_part {f p : List Byte} {off n : Nat} (part : slice f off n = p) (h : i < n) : byteAt f (off + i) = byteAt p i := by
  rw [← part, byteAt_slice f off h]

theorem word16At_part {f p : List Byte} {off n : Nat} (part : slice f off n = p) (h : i + 2 ≤ n) :
    word16At f (off + i) = word16At p i := by
  rw [← part, word16At_slice f off h]

theorem word32At_part {f p : List Byte} {off n : Nat} (part : slice f off n = p) (h : i + 4 ≤ n) :
    word32At f (off + i) = word32At p i := by
  rw [← part, word32At_slice f off h]

theorem slice_part {f p : List Byte} {off n m : Nat} (part : slice f off n = p) (h : i + m ≤ n) :
    slice f (off + i) m = slice p i m := by
  rw [← part]
  unfold slice
  rw [List.drop_take, List.drop_drop, List.take_take, Nat.min_eq_left (by omega)]

/-! ## Past one byte -/

@[simp] theorem byteAt_cons_zero (x : Byte) (l : List Byte) : byteAt (x :: l) 0 = x := rfl
@[simp] theorem byteAt_cons (x : Byte) (l : List Byte) (h : 0 < i) : byteAt (x :: l) i = byteAt l (i - 1) :=
  byteAt_past (a := [x]) h

@[simp] theorem word16At_cons (x : Byte) (l : List Byte) (h : 0 < i) : word16At (x :: l) i = word16At l (i - 1) :=
  word16At_past (a := [x]) h

@[simp] theorem word32At_cons (x : Byte) (l : List Byte) (h : 0 < i) : word32At (x :: l) i = word32At l (i - 1) :=
  word32At_past (a := [x]) h

@[simp] theorem macAt_cons (x : Byte) (l : List Byte) (h : 0 < i) : macAt (x :: l) i = macAt l (i - 1) :=
  macAt_past (a := [x]) h

@[simp] theorem slice_cons {n : Nat} (x : Byte) (l : List Byte) (h : 0 < i) : slice (x :: l) i n = slice l (i - 1) n :=
  slice_past (a := [x]) h

/-! ## Blocks of one size -/

/-- Block k of a list of blocks. -/
theorem slice_blocks {size n k : Nat} {f : Nat → List Byte} (len : ∀ k, (f k).length = size) (hk : k < n) :
    slice ((List.range n).flatMap f) (size * k) size = f k := by
  induction n with
  | zero => exact absurd hk (Nat.not_lt_zero k)
  | succ n ih =>
    have before : ((List.range n).flatMap f).length = size * n := by simp [List.length_flatMap, len, Nat.mul_comm]
    rw [List.range_succ, List.flatMap_append, List.flatMap_singleton]
    by_cases last : k = n
    · subst last
      rw [slice_past (le_of_eq before), before, Nat.sub_self, ← len k]
      simp [slice]
    · have earlier : k + 1 ≤ n := by omega
      rw [slice_first (before ▸ Nat.mul_le_mul_left size earlier)]
      exact ih earlier

/-! ## The fields themselves -/

@[simp] theorem bytes16_length (v : Word16) : (bytes16 v).length = 2 := by simp [bytes16]
@[simp] theorem bytes32_length (v : Word32) : (bytes32 v).length = 4 := by simp [bytes32]
@[simp] theorem bytes48_length (v : BitVec 48) : (bytes48 v).length = 6 := by simp [bytes48]
@[simp] theorem nat16_length (n : Nat) : (nat16 n).length = 2 := by simp [nat16]
@[simp] theorem nat24_length (n : Nat) : (nat24 n).length = 3 := by simp [nat24]
@[simp] theorem nat32_length (n : Nat) : (nat32 n).length = 4 := by simp [nat32]
@[simp] theorem zeros_length (n : Nat) : (zeros n).length = n := List.length_replicate

@[simp] theorem word16At_field (v : Word16) : word16At (bytes16 v) 0 = v := join16 v
@[simp] theorem word32At_field (v : Word32) : word32At (bytes32 v) 0 = v := join32 v
@[simp] theorem macAt_field (v : Mac) : macAt (bytes48 v) 0 = v := join48 v
@[simp] theorem word16At_number (n : Nat) : word16At (nat16 n) 0 = BitVec.ofNat 16 n := join16 _
@[simp] theorem word32At_number (n : Nat) : word32At (nat32 n) 0 = BitVec.ofNat 32 n := join32 _

@[simp] theorem byteAt_number24 (n : Nat) : byteAt (nat24 n) 0 = nat8 (n / 65536) := rfl
@[simp] theorem word16At_number24 (n : Nat) : word16At (nat24 n) 1 = BitVec.ofNat 16 n := join16 _

@[simp] theorem byteAt_zeros (n i : Nat) : byteAt (zeros n) i = 0#8 := by
  by_cases inside : i < n <;> simp [byteAt, zeros, List.getD_eq_getElem?_getD, inside]

@[simp] theorem toNat_nat8 (n : Nat) : (nat8 n).toNat = n % 256 := BitVec.toNat_ofNat ..

/-- The three bytes of a number, put together. -/
theorem join24 (n : Nat) : nat8 (n / 65536) ++ BitVec.ofNat 16 n = BitVec.ofNat 24 n := by
  apply BitVec.eq_of_toNat_eq
  rw [BitVec.toNat_append, ← Nat.shiftLeft_add_eq_or_of_lt (BitVec.isLt _)]
  simp only [toNat_nat8, BitVec.toNat_ofNat, Nat.shiftLeft_eq]
  omega

/-! ## Flags and numbers in a byte -/

@[simp] theorem getLsbD_flagBit (f : Bool) {k : Nat} (h : k < 8) (i : Nat) :
    (flagBit f k).getLsbD i = (f && decide (i = k)) := by
  unfold flagBit
  cases f with
  | false => simp
  | true =>
    rw [if_pos rfl, BitVec.getLsbD_ofNat, Nat.testBit_two_pow]
    by_cases same : i = k
    · simp [same, h]
    · simp [same, Ne.symm same]

@[simp] theorem getElem_flagBit (f : Bool) {k i : Nat} (h : k < 8) (hi : i < 8) : (flagBit f k)[i] = (f && decide (i = k)) := by
  rw [← BitVec.getLsbD_eq_getElem, getLsbD_flagBit f h]

end Sys2Proof.Machine
end

section
/-! SUPPORT. READs (R165, R166, R171, R172): the checks, the entries captured in their order, the counters cleared as they are
captured. -/

-- One proof at a time: proofs that wait for earlier checks would each take a thread.
set_option Elab.async false

namespace Sys2Proof.Machine

open Sys2Proof.Safety

variable {s : State} {r : Request} {rest : List Frame} {o : Object}

/-! ## The checks of a READ (R165) -/

/-- Check 3 of a READ. -/
theorem fieldsGood_read_iff (o : Object) (m : StepMode) (r : Request) (named : r.stepMode < 4)
    (circulates : m = .circulate ↔ r.stepMode = 3) :
    fieldsGood o m true r = true ↔ fieldsAllowed r ∧ (r.clear = true → o = .counters) := by
  have span : (m != .circulate || (decide (1 ≤ r.span) && decide (r.span ≤ 4))) = true ↔
      (r.stepMode = 3 → 1 ≤ r.span ∧ r.span ≤ 4) := by
    simp only [Bool.or_eq_true, bne_iff_ne, Bool.and_eq_true, decide_eq_true_eq, ne_eq, circulates, imp_iff_not_or]
  have clear : (!r.clear || (true && o == .counters)) = true ↔ (r.clear = true → o = .counters) := by
    simp only [Bool.or_eq_true, Bool.not_eq_true', Bool.true_and, beq_iff_eq, imp_iff_not_or, Bool.not_eq_true]
  unfold fieldsGood fieldsAllowed
  rw [Bool.and_eq_true, Bool.and_eq_true, span, clear, decide_eq_true_eq]
  simp only [named, true_and]

theorem StepMode.ofCode_none {n : Nat} (above : ¬ n < 4) : StepMode.ofCode n = none := by
  obtain ⟨k, rfl⟩ := Nat.exists_eq_add_of_le (Nat.le_of_not_lt above)
  rw [Nat.add_comm 4 k]
  rfl

/-- Checks 3 to 5 of a READ of an object, in order, and the places of one that meets them. -/
theorem checkAccess_read (o : Object) (r : Request) (ho : Object.ofCode r.object = some o) :
    let allowed := fieldsAllowed r ∧ (r.clear = true → o = .counters)
    (¬ allowed → checkAccess true r = .error .badCommand) ∧
    (allowed → ¬ placesWithin r o.indices → checkAccess true r = .error .badIndex) ∧
    (allowed → placesWithin r o.indices → 1408 < r.count * o.entrySize → checkAccess true r = .error .badLength) ∧
    (allowed → placesWithin r o.indices → r.count * o.entrySize ≤ 1408 →
      checkAccess true r = .ok (o, (List.range r.count).map (entryPlace r))) := by
  intro allowed
  have fits : lengthFits o true r = true ↔ r.count * o.entrySize ≤ 1408 := by
    unfold lengthFits
    rw [Bool.true_or, Bool.and_true, decide_eq_true_eq]
    rfl
  unfold checkAccess
  simp only [ho]
  by_cases named : r.stepMode < 4
  · obtain ⟨m, code, places, decrement, circulates⟩ := mode_cases r named
    have fields : fieldsGood o m true r = true ↔ allowed := fieldsGood_read_iff o m r named circulates
    obtain ⟨within, outside⟩ := visits_within o m r places decrement
    simp only [code, fits]
    refine ⟨fun no => if_pos (mt fields.1 no), fun ok out => ?_, fun ok inside long => ?_, fun ok inside short => ?_⟩
    · rw [if_neg (not_not.2 (fields.2 ok)), outside out]
    · rw [if_neg (not_not.2 (fields.2 ok)), within inside]
      exact if_neg (Nat.not_le.2 long)
    · rw [if_neg (not_not.2 (fields.2 ok)), within inside]
      exact if_pos short
  · have unnamed (ok : allowed) : False := named ok.1.2.1
    rw [StepMode.ofCode_none named]
    exact ⟨fun _ => rfl, fun ok => (unnamed ok).elim, fun ok => (unnamed ok).elim, fun ok => (unnamed ok).elim⟩

/-- A READ is taken by its row, with the clear flag on COUNTERS or without. -/
theorem read_row (w : Waiting s r rest) (command : r.command = 1) :
    r.row = if r.object = 6 ∧ r.clear = true then .readCountersClear else .read := by
  rw [waiting_row w, command]
  rfl

theorem Object.ofCode_counters {n : Nat} (named : Object.ofCode n = some .counters) : n = 6 := by
  unfold Object.ofCode at named
  split at named
  case h_6 => rfl
  all_goals cases named

/-- Both rows refuse alike. -/
theorem read_refused (w : Waiting s r rest) (command : r.command = 1) {st : Status} (check : checkAccess true r = .error st) :
    ∃ t, exec (if r.object = 6 ∧ r.clear = true then .readCountersClear else .read) s = .next t ∧
      Replied r (Answer.only st) (dequeue rest s) t := by
  have row := read_row w command
  have reads (u : State) : answerRead r u = (u, Answer.only st) := by
    unfold answerRead
    rw [check]
  have clears (u : State) : answerReadClear r u = (u, Answer.only st) := by
    unfold answerReadClear
    rw [check]
  by_cases clearing : r.object = 6 ∧ r.clear = true
  · rw [if_pos clearing] at row ⊢
    exact ⟨_, rfl, taken_replied w row answerReadClear (clears _)⟩
  · rw [if_neg clearing] at row ⊢
    exact ⟨_, rfl, taken_replied w row answerRead (reads _)⟩

/-! ## Entries captured (R42, R171) -/

/-- Captures that change nothing answer their entries in order. -/
theorem captureAll_still {c : Nat → State → State × List Byte} {f : Nat → List Byte} (is : List Nat)
    (still : ∀ i ∈ is, c i s = (s, f i)) : captureAll c is s = (s, is.flatMap f) := by
  induction is with
  | nil => rfl
  | cons i is ih =>
    rw [captureAll, still i List.mem_cons_self]
    simp only [ih fun j mem => still j (List.mem_cons_of_mem i mem), List.flatMap_cons]

/-- A capture changes nothing but at a damaged record. -/
theorem capture_still (o : Object) (i : Nat) (s : State) (intact : o = .session → recordIntact s i) :
    capture o i s = (s, entryBytes o i s) := by
  cases o with
  | session =>
    unfold capture
    simp only [checkRecord_intact (intact rfl)]
  | config | zones | timeouts | status | counters | errlog | pairing | clock => rfl

theorem answerRead_captures (access : checkAccess true r = .ok (o, (List.range r.count).map (entryPlace r)))
    (intact : o = .session → ∀ k < r.count, recordIntact s (entryPlace r k)) : answerRead r s =
      (s, { status := .ok, payload := (List.range r.count).flatMap fun k => entryBytes o (entryPlace r k) s }) := by
  have captured : captureAll (capture o) ((List.range r.count).map (entryPlace r)) s =
      (s, ((List.range r.count).map (entryPlace r)).flatMap fun i => entryBytes o i s) := by
    refine captureAll_still _ fun i mem => capture_still o i s fun session => ?_
    obtain ⟨k, below, rfl⟩ := List.mem_map.1 mem
    exact intact session k (List.mem_range.1 below)
  unfold answerRead
  simp only [access, captured, List.flatMap_map]

/-! ## Counters captured and cleared (R172) -/

/-- The counters, of which those at the places of the first n entries are 0. -/
def clearedAt (place : Nat → Nat) (n : Nat) (v : Vector Word32 64) : Vector Word32 64 :=
  Vector.ofFn fun i : Fin 64 => if ((List.range n).any fun k => place k == i.val) = true then 0#32 else v[i]

/-- The state with those counters cleared. -/
def countersCleared (place : Nat → Nat) (n : Nat) (s : State) : State :=
  { s with flt := { s.flt with counters := clearedAt place n s.flt.counters } }

theorem clearedAt_zero (place : Nat → Nat) (v : Vector Word32 64) : clearedAt place 0 v = v := by
  ext i below : 1
  simp [clearedAt]

/-- One more counter cleared. -/
theorem clearedAt_succ (place : Nat → Nat) (n : Nat) (v : Vector Word32 64) :
    (clearedAt place n v).setIfInBounds (place n) 0#32 = clearedAt place (n + 1) v := by
  ext i below : 1
  simp only [clearedAt, Vector.getElem_setIfInBounds, Vector.getElem_ofFn, List.range_succ, List.any_append, Bool.or_eq_true,
    List.any_cons, List.any_nil, Bool.or_false, beq_iff_eq]
  by_cases here : place n = i
  · simp only [here, or_true, if_true]
  · simp only [here, or_false, if_false]

theorem clearCounter_cleared (place : Nat → Nat) (n : Nat) (s : State) :
    clearCounter (place n) (countersCleared place n s) = countersCleared place (n + 1) s := by
  unfold countersCleared
  rw [← clearedAt_succ]
  rfl

theorem counterAt_cleared (place : Nat → Nat) (n i : Nat) (s : State) : counterAt (countersCleared place n s) i =
    if ((List.range n).any fun k => place k == i) = true then 0#32 else counterAt s i := by
  simp only [counterAt, countersCleared, clearedAt, List.getD_eq_getElem?_getD]
  by_cases inside : i < 64
  · simp [inside]
  · simp [inside]

theorem captureAll_append (c : Nat → State → State × List Byte) (is js : List Nat) (s : State) : captureAll c (is ++ js) s =
    ((captureAll c js (captureAll c is s).1).1, (captureAll c is s).2 ++ (captureAll c js (captureAll c is s).1).2) := by
  induction is generalizing s with
  | nil => rfl
  | cons i is ih =>
    rw [List.cons_append, captureAll, captureAll]
    simp only [ih, List.append_assoc]

/-- Each entry shows its counter, and 0 where an earlier entry cleared it. -/
theorem captureAll_clears (place : Nat → Nat) (n : Nat) (s : State) :
    captureAll captureClear ((List.range n).map place) s = (countersCleared place n s,
      (List.range n).flatMap fun k =>
        bytes32 (if ((List.range k).any fun j => place j == place k) = true then 0#32 else counterAt s (place k))) := by
  induction n with
  | zero =>
    unfold countersCleared
    rw [clearedAt_zero]
    rfl
  | succ n ih =>
    have last : captureAll captureClear [place n] (countersCleared place n s) = (countersCleared place (n + 1) s,
        bytes32 (if ((List.range n).any fun j => place j == place n) = true then 0#32 else counterAt s (place n))) := by
      rw [← counterAt_cleared, ← clearCounter_cleared]
      exact Prod.ext rfl (List.append_nil _)
    rw [List.range_succ, List.map_append, List.map_singleton, captureAll_append, ih, last, List.flatMap_append]
    simp

theorem answerReadClear_captures (access : checkAccess true r = .ok (o, (List.range r.count).map (entryPlace r))) (s : State) :
    answerReadClear r s = (countersCleared (entryPlace r) r.count s,
      { status := .ok
        payload := (List.range r.count).flatMap fun k => bytes32
          (if ((List.range k).any fun j => entryPlace r j == entryPlace r k) = true then 0#32
            else counterAt s (entryPlace r k)) }) := by
  unfold answerReadClear
  simp only [access, captureAll_clears]

end Sys2Proof.Machine
end

section
/-! SUPPORT. The entries of the objects (R188): their sizes, and each field at its place. -/

-- One proof at a time: proofs that wait for earlier checks would each take a thread.
set_option Elab.async false

namespace Sys2Proof.Machine

open Sys2Proof.Safety

/-! ## CONFIG and ZONES, read back (R4, R188) -/

theorem clamp_eq_self {lo hi n : Nat} (bounds : lo ≤ hi) : clamp lo hi n = n ↔ lo ≤ n ∧ n ≤ hi := by
  unfold clamp
  omega

theorem clampWindow_eq_self {n : Nat} : clampWindow n = n ↔ n = 0 ∨ 100 ≤ n ∧ n ≤ 60000 := by
  unfold clampWindow clamp
  split <;> omega

theorem bool8_eq_one (f : Bool) : (bool8 f == 1#8) = f := by cases f <;> rfl

theorem policy_read (p : OowPolicy) : (if nat8 p.code = 1#8 then OowPolicy.drop else .exception) = p := by cases p <;> rfl

/-- A CONFIG entry reads back as the record in range that it was written from. -/
theorem readConfig_configEntry (c : ConfigRec) (inRange : c.clamped = c) (station : c.stationId < 65536)
    (priority : c.priority < 256) : readConfig (configEntry c) = c := by
  unfold readConfig configEntry
  cases c
  simp only [ConfigRec.clamped, ConfigRec.mk.injEq, clamp_eq_self, clampWindow_eq_self, Nat.reduceLeDiff] at inRange
  simp only at station priority
  -- each number comes back modulo the room of its field
  simp [bool8_eq_one, policy_read]
  omega

theorem readZone_zoneEntry (z : Zone) (vlan : z.vlan < 65536) : readZone (zoneEntry z) = z := by
  unfold readZone zoneEntry
  simp [Nat.mod_eq_of_lt vlan]

/-! ## TIMEOUTS, COUNTERS, STATUS, CLOCK -/

theorem statusEntry_fields (f : Flt) : let b := statusEntry f
    word16At b 0 = f.flags.setWidth 16 ∧ word16At b 2 = f.mask.setWidth 16 ∧ byteAt b 4 = nat8 f.resetRecord.cause.code ∧
      byteAt b 5 = nat8 f.resetRecord.role.code ∧ word16At b 6 = BitVec.ofNat 16 f.resetRecord.count := by
  unfold statusEntry
  simp

theorem clockEntry_fields (t : Tim) : let b := clockEntry t
    byteAt b 0 = (if t.running = true then 1#8 else 0#8) ∧ word16At b 2 = BitVec.ofNat 16 t.ms ∧ word32At b 4 = t.seconds ∧
      word32At b 8 = BitVec.ofNat 32 t.increment ∧ word16At b 12 = BitVec.ofNat 16 t.cursor := by
  unfold clockEntry bool8
  simp

/-! ## ERRLOG (R177) -/

theorem errlogEntry_fields (r : ErrRecord) : let b := errlogEntry r
    (r.first = none → b = zeros 32) ∧
    (∀ e, r.first = some e →
      word16At b 0 = BitVec.ofNat 16 e.code.code ∧ byteAt b 3 = nat8 (e.info.place.getD 0) ∧
      ((byteAt b 2).getLsbD 0 = e.info.handle.isSome ∧ (byteAt b 2).getLsbD 1 = e.info.place.isSome ∧
        (byteAt b 2).getLsbD 2 = e.info.seq.isSome ∧ (byteAt b 2).getLsbD 3 = e.info.gen.isSome) ∧
      word32At b 4 = e.seconds ∧ word16At b 8 = BitVec.ofNat 16 e.ms ∧
      word16At b 10 = BitVec.ofNat 16 (e.info.handle.getD 0) ∧ word32At b 12 = BitVec.ofNat 32 (e.info.seq.getD 0) ∧
      word32At b 16 = e.info.gen.getD 0#32 ∧ word16At b 20 = BitVec.ofNat 16 r.count ∧ word32At b 24 = r.codeSet) := by
  intro b
  refine ⟨fun none => ?_, fun e first => ?_⟩
  · simp only [b, errlogEntry, none]
  · simp only [b, errlogEntry, first]
    simp

/-! ## SESSION (R42) -/

/-- What a SESSION entry shows whatever the handle's state. -/
theorem sessionEntry_anchor (r : Record) :
    byteAt (sessionEntry r) 0 = nat8 r.handleState.code ∧ word16At (sessionEntry r) 2 = r.epoch := by
  unfold sessionEntry
  split
  · unfold liveEntry
    simp
  · simp
  · simp

theorem sessionEntry_free {r : Record} (free : r.handleState = .free) : ∀ k, 4 ≤ k → byteAt (sessionEntry r) k = 0#8 := by
  intro k behind
  unfold sessionEntry
  simp only [free]
  rw [byteAt_past (by simpa using behind), byteAt_zeros]

theorem sessionEntry_retired {r : Record} (retired : r.handleState = .retired) :
    ∀ k, 6 ≤ k → byteAt (sessionEntry r) k = 0#8 := by
  intro k behind
  unfold sessionEntry
  simp only [retired]
  rw [byteAt_past (by simpa using behind), byteAt_zeros]

theorem sessionEntry_pending {r : Record} (used : r.handleState = .live ∨ r.handleState = .retired) :
    byteAt (sessionEntry r) 4 = nat8 r.pending.code ∧ byteAt (sessionEntry r) 5 = nat8 (removalCode r.removalReason) := by
  unfold sessionEntry
  rcases used with live | retired
  · simp only [live]
    unfold liveEntry
    simp
  · simp only [retired]
    simp

/-! ## Trackers and keys in an entry (R25, R50) -/

variable {a b : List Byte} {i : Nat}

/-- `trackerBytes_length` and its like, in a form that `simp` uses as an equation. -/
@[simp] theorem trackerBytes_size (d : DirTracker) : (trackerBytes d).length = 21 := by simp [trackerBytes]
@[simp] theorem keyBytes_size (k : Key) : (keyBytes k).length = 14 := by simp [keyBytes]

@[simp] theorem mirroredBytes_size (m : Option Mirrored) : (mirroredBytes m).length = 20 := by
  cases m <;> simp [mirroredBytes]

@[simp] theorem readKey_past (h : a.length ≤ i) : readKey (a ++ b) i = readKey b (i - a.length) := by
  obtain ⟨k, rfl⟩ := Nat.exists_eq_add_of_le h
  simp only [readKey, Nat.add_assoc, byteAt_append, word16At_append, word32At_append, Nat.add_sub_cancel_left]

@[simp] theorem readKey_first (h : i + 14 ≤ a.length) : readKey (a ++ b) i = readKey a i := by
  unfold readKey
  simp only [byteAt_first (a := a) (b := b) (i := i) (by omega), byteAt_first (a := a) (b := b) (i := i + 1) (by omega),
    word32At_first (a := a) (b := b) (i := i + 2) (by omega), word16At_first (a := a) (b := b) (i := i + 6) (by omega),
    word32At_first (a := a) (b := b) (i := i + 8) (by omega), word16At_first (a := a) (b := b) (i := i + 12) (by omega)]

@[simp] theorem readKey_cons (x : Byte) (l : List Byte) (h : 0 < i) : readKey (x :: l) i = readKey l (i - 1) :=
  readKey_past (a := [x]) h

@[simp] theorem readKey_field (k : Key) : readKey (keyBytes k) 0 = k := by
  unfold readKey keyBytes
  simp

@[simp] theorem readTracker_past (h : a.length ≤ i) : readTracker (a ++ b) i = readTracker b (i - a.length) := by
  obtain ⟨k, rfl⟩ := Nat.exists_eq_add_of_le h
  simp only [readTracker, Nat.add_assoc, byteAt_append, word32At_append, Nat.add_sub_cancel_left]

@[simp] theorem readTracker_first (h : i + 21 ≤ a.length) : readTracker (a ++ b) i = readTracker a i := by
  unfold readTracker
  simp only [byteAt_first (a := a) (b := b) (i := i) (by omega), word32At_first (a := a) (b := b) (i := i + 1) (by omega),
    word32At_first (a := a) (b := b) (i := i + 5) (by omega), word32At_first (a := a) (b := b) (i := i + 9) (by omega),
    word32At_first (a := a) (b := b) (i := i + 13) (by omega), word32At_first (a := a) (b := b) (i := i + 17) (by omega)]

@[simp] theorem readTracker_cons (x : Byte) (l : List Byte) (h : 0 < i) : readTracker (x :: l) i = readTracker l (i - 1) :=
  readTracker_past (a := [x]) h

/-- The shift of a tracker stands in the low half of its first byte. -/
theorem extract_shift (w : BitVec 4) (x y z v : Bool) :
    (w.setWidth 8 ||| flagBit x 4 ||| flagBit y 5 ||| flagBit z 6 ||| flagBit v 7).extractLsb' 0 4 = w := by
  apply BitVec.eq_of_getLsbD_eq
  intro k hk
  have apart : k ≠ 4 ∧ k ≠ 5 ∧ k ≠ 6 ∧ k ≠ 7 := by omega
  simp [hk, apart, show k < 8 by omega]

/-- A tracker in range reads back (R50). -/
theorem readTracker_field (d : DirTracker) (wscale : d.wscale.toNat ≤ 14) (maxWin : d.maxWin.toNat ≤ 2 ^ 30) :
    readTracker (trackerBytes d) 0 = some d := by
  have finEnd : (if d.finEnd.isSome = true then some (d.finEnd.getD 0#32) else none) = d.finEnd := by
    cases d.finEnd <;> rfl
  unfold readTracker trackerBytes
  simpa [extract_shift, finEnd, wscale] using maxWin

/-- The fields of a LIVE handle's entry. -/
theorem liveEntry_fields (r : Record) : let b := liveEntry r
    byteAt b 1 = BitVec.ofNat 8 (r.body.state.code + 16 * finOrderCode r.body.finOrder) ∧
    ((byteAt b 6).getLsbD 0 = r.body.flowClass.isSome ∧ (byteAt b 6).getLsbD 1 = r.body.mirrored.isSome ∧
      (byteAt b 6).getLsbD 2 = r.body.releaseSeq.isSome) ∧
    byteAt b 7 = nat8 (r.body.flowClass.getD 0) ∧
    (r.body.dirOrig.wscale.toNat ≤ 14 → r.body.dirOrig.maxWin.toNat ≤ 2 ^ 30 → readTracker b 8 = some r.body.dirOrig) ∧
    (r.body.dirReply.wscale.toNat ≤ 14 → r.body.dirReply.maxWin.toNat ≤ 2 ^ 30 → readTracker b 29 = some r.body.dirReply) ∧
    readKey b 50 = r.body.origKey ∧ readKey b 64 = r.body.replyKey ∧
    macAt b 78 = r.body.nextHopOrig ∧ macAt b 84 = r.body.nextHopReply ∧
    word32At b 90 = r.body.lastSeen ∧ word32At b 94 = r.body.gen ∧ word16At b 98 = r.body.releaseSeq.getD 0#16 ∧
    (∀ m, r.body.mirrored = some m → word32At b 100 = m.hiSeqOrig ∧ word32At b 104 = m.rightOrig ∧
      word32At b 108 = m.hiSeqReply ∧ word32At b 112 = m.rightReply ∧ word32At b 116 = m.seen) ∧
    byteAt b 120 ++ word16At b 121 = BitVec.ofNat 24 r.slotOrig ∧
    byteAt b 123 ++ word16At b 124 = BitVec.ofNat 24 r.slotReply := by
  intro b
  simp only [b]
  unfold liveEntry
  refine ⟨by simp [stateByte, nat8], by simp, by simp, fun wscale maxWin => ?_, fun wscale maxWin => ?_, by simp, by simp, by simp, by simp,
    by simp, by simp, by simp, fun m group => ?_, by simp [join24], by simp [join24]⟩
  · simpa using readTracker_field r.body.dirOrig wscale maxWin
  · simpa using readTracker_field r.body.dirReply wscale maxWin
  · have bytes : mirroredBytes r.body.mirrored =
        bytes32 m.hiSeqOrig ++ bytes32 m.rightOrig ++ bytes32 m.hiSeqReply ++ bytes32 m.rightReply ++ bytes32 m.seen := by
      rw [group]
      rfl
    simp [bytes]

/-! ## The sizes of the entries (R167) -/

theorem configEntry_length (c : ConfigRec) : (configEntry c).length = 128 := by
  unfold configEntry
  simp

theorem sessionEntry_length (r : Record) : (sessionEntry r).length = 128 := by
  unfold sessionEntry
  split
  · unfold liveEntry
    simp
  · simp
  · simp

theorem errlogEntry_length (r : ErrRecord) : (errlogEntry r).length = 32 := by
  unfold errlogEntry
  split
  · simp
  · simp

/-- Every entry but the PAIRING entry, whose peer record bounds its own list, is as long as its object says. -/
theorem entryBytes_length {o : Object} (other : o ≠ .pairing) (i : Nat) (s : State) :
    (entryBytes o i s).length = o.entrySize := by
  cases o with
  | config => exact configEntry_length _
  | zones => simp [entryBytes, zoneEntry, Object.entrySize]
  | timeouts => simp [entryBytes, timeoutEntry, Object.entrySize]
  | session => exact sessionEntry_length _
  | status => simp [entryBytes, statusEntry, Object.entrySize]
  | counters => simp [entryBytes, Object.entrySize]
  | errlog =>
    unfold entryBytes
    cases ErrClass.ofCode i with
    | none => exact zeros_length 32
    | some c => exact errlogEntry_length _
  | pairing => exact absurd rfl other
  | clock => simp [entryBytes, clockEntry, Object.entrySize]

end Sys2Proof.Machine
end

section
/-! SUPPORT. The PAIRING entry (R188), part by part. -/

-- One proof at a time: proofs that wait for earlier checks would each take a thread.
set_option Elab.async false

namespace Sys2Proof.Machine

open Sys2Proof.Safety

variable {s : State}

/-! ## The sizes of the parts -/

@[simp] theorem pairingHead_length (s : State) : (pairingHead s).length = 32 := by simp [pairingHead]

@[simp] theorem pairingRefresh_length (s : State) : (pairingRefresh s).length = 32 := by
  simp [pairingRefresh, List.length_flatMap]

@[simp] theorem pathEntry_length (p : PathState) (revert : Nat) : (pathEntry p revert).length = 16 := by simp [pathEntry]

@[simp] theorem compareEntry_length (c : Option Comparison) : (compareEntry c).length = 28 := by
  cases c <;> simp [compareEntry]

@[simp] theorem pairingTable_length (s : State) : (pairingTable s).length = 48 := by simp [pairingTable]

@[simp] theorem historyEntry_length (r : RoleRecord) : (historyEntry r).length = 12 := by simp [historyEntry]

@[simp] theorem pairingTimers_length (s : State) : (pairingTimers s).length = 16 := by simp [pairingTimers]

/-- Record i of the role history, zeros when it is not used. -/
def historyBlock (s : State) (i : Nat) : List Byte := (s.pai.history[i]?.map historyEntry).getD (zeros 12)

@[simp] theorem historyBlock_length (s : State) (i : Nat) : (historyBlock s i).length = 12 := by
  unfold historyBlock
  cases s.pai.history[i]? <;> simp

theorem pairingHistory_blocks (s : State) : pairingHistory s = (List.range 8).flatMap (historyBlock s) := by
  refine congrArg (fun f => (List.range 8).flatMap f) (funext fun i => ?_)
  unfold historyBlock
  cases s.pai.history[i]? <;> rfl

@[simp] theorem pairingHistory_length (s : State) : (pairingHistory s).length = 96 := by
  rw [pairingHistory_blocks]
  simp [List.length_flatMap]

theorem helloBytes_length (h : Hello) : (helloBytes h).length = 38 + 2 * h.refresh.length := by
  simp [helloBytes, List.length_flatMap]
  omega

/-- The peer record's hello leaves the room of its field. -/
def PeerFits (s : State) : Prop := ∀ pr, s.pai.peer = some pr → pr.hello.refresh.length ≤ 16

theorem peerEntry_length (fits : PeerFits s) : (peerEntry s.pai.peer).length = 80 := by
  cases peer : s.pai.peer with
  | none => simp [peerEntry]
  | some pr =>
    have list := fits pr peer
    simp [peerEntry, padTo, helloBytes_length]
    omega

/-! ## The fields -/

/-- Bytes 0 to 7: the roles and codes of the blocks. -/
theorem pairingEntry_codes (s : State) : let b := pairingEntry s
    byteAt b 0 = nat8 s.pai.role.code ∧ byteAt b 1 = nat8 s.mir.stream.code ∧ byteAt b 2 = nat8 (dataPathCode s.mir.dataPath) ∧
    byteAt b 3 = nat8 s.mir.walk.code ∧
    ((byteAt b 4).getLsbD 0 = s.mir.suspendedPrimary ∧ (byteAt b 4).getLsbD 1 = s.mir.suspendedSecondary) ∧
    byteAt b 5 = bool8 s.shd.bound ∧
    ((byteAt b 6).getLsbD 0 = s.shd.bulkWanted ∧ (byteAt b 6).getLsbD 1 = s.pai.yieldFlag ∧
      (byteAt b 6).getLsbD 2 = s.pai.peerActiveSeen) ∧
    byteAt b 7 = nat8 s.mir.replayCount := by
  unfold pairingEntry pairingHead
  simp

/-- Bytes 8 to 31: the generations, the sequences and the lengths. -/
theorem pairingEntry_counts (s : State) : let b := pairingEntry s
    word32At b 8 = s.pai.pairGen ∧ word32At b 12 = s.pai.peerGenSeen ∧ word32At b 16 = s.shd.adoptedGen ∧
    word16At b 20 = s.mir.nextSeq ∧ word16At b 22 = oldestSeq s.mir ∧ word16At b 24 = s.shd.expectedSeq ∧
    word16At b 26 = BitVec.ofNat 16 s.mir.cursor ∧ word16At b 28 = BitVec.ofNat 16 s.mir.dirty.length ∧
    byteAt b 30 = nat8 s.mir.replay.length ∧ byteAt b 31 = nat8 s.shd.refresh.length := by
  unfold pairingEntry pairingHead
  simp

theorem pairingEntry_refresh (s : State) {k : Nat} (hk : k < 16) : word16At (pairingEntry s) (32 + 2 * k) =
    (s.shd.refresh[k]?.map (BitVec.ofNat 16)).getD 0xFFFF#16 := by
  have part : slice (pairingEntry s) 32 32 = pairingRefresh s := by
    unfold pairingEntry
    simp
  have place : slice (pairingRefresh s) (2 * k) 2 = nat16 (s.shd.refresh.getD k 0xFFFF) :=
    slice_blocks (fun _ => nat16_length _) hk
  rw [word16At_part part (by omega), ← Nat.add_zero (2 * k), word16At_part place (le_refl 2), word16At_number,
    List.getD_eq_getElem?_getD]
  cases s.shd.refresh[k]? <;> rfl

/-- Bytes 64 to 95: the two paths. -/
theorem pairingEntry_paths (s : State) : let b := pairingEntry s
    let onPath := fun (k : Nat) (p : PathState) => byteAt b k = bool8 p.up ∧ byteAt b (k + 1) = nat8 p.judgment.code ∧
      byteAt b (k + 2) = bool8 p.seen ∧ word32At b (k + 4) = BitVec.ofNat 32 p.deadTimer.left
    onPath 64 s.pai.primary ∧ word32At b 72 = BitVec.ofNat 32 s.mir.revertElapsed ∧ onPath 80 s.pai.secondary := by
  unfold pairingEntry pathEntry
  simp

/-- Bytes 96 to 175: the peer record, with the hello as it came. -/
theorem pairingEntry_peer (s : State) : byteAt (pairingEntry s) 96 = bool8 s.pai.peer.isSome ∧
    ∀ pr, s.pai.peer = some pr → slice (pairingEntry s) 100 (helloBytes pr.hello).length = helloBytes pr.hello := by
  unfold pairingEntry
  cases s.pai.peer with
  | none => simp [peerEntry, bool8]
  | some pr => simp [peerEntry, padTo, bool8]

section fits

variable (fits : PeerFits s)
include fits

theorem pairingEntry_length : (pairingEntry s).length = 640 := by
  unfold pairingEntry
  simp [peerEntry_length fits]

/-- Bytes 176 to 187: the digest and the start of the bulk walk. -/
theorem pairingEntry_digest : let b := pairingEntry s
    word32At b 176 = BitVec.ofNat 32 s.tbl.liveCount ∧ word32At b 180 = s.tbl.digestSum ∧
    word16At b 184 = BitVec.ofNat 16 s.shd.bulkStart := by
  unfold pairingEntry pairingTable
  simp [peerEntry_length fits]

theorem pairingEntry_comparison : let b := pairingEntry s
    byteAt b 188 = bool8 s.shd.lastCompare.isSome ∧
    ∀ c, s.shd.lastCompare = some c → byteAt b 189 = nat8 c.kind.code ∧ byteAt b 190 = (if c.matched = true then 1#8 else 2#8) ∧
      word32At b 192 = c.gen ∧ word16At b 196 = c.seq ∧ word32At b 200 = c.receivedCount ∧ word32At b 204 = c.receivedSum ∧
      word32At b 208 = c.localCount ∧ word32At b 212 = c.localSum := by
  unfold pairingEntry pairingTable
  cases s.shd.lastCompare with
  | none => simp [peerEntry_length fits, compareEntry, bool8]
  | some c => simp [peerEntry_length fits, compareEntry, bool8]

theorem pairingEntry_takeover : let b := pairingEntry s
    word32At b 216 = BitVec.ofNat 32 s.tko.grace.left ∧ byteAt b 220 = nat8 s.tko.burst.rounds ∧
    word16At b 221 = BitVec.ofNat 16 s.pai.drainTimer.left := by
  unfold pairingEntry pairingTable
  simp [peerEntry_length fits]

/-- Bytes 224 to 319: the role history. -/
theorem pairingEntry_history {k : Nat} {h : RoleRecord} (hk : k < 8) (used : s.pai.history[k]? = some h) :
    let b := pairingEntry s
    byteAt b (224 + 12 * k) = nat8 h.fromRole.code ∧ byteAt b (225 + 12 * k) = nat8 h.toRole.code ∧
    byteAt b (226 + 12 * k) = nat8 h.cause.code ∧ word32At b (228 + 12 * k) = h.seconds ∧
    word16At b (232 + 12 * k) = BitVec.ofNat 16 h.ms := by
  intro b
  have parts : slice b 224 96 = pairingHistory s := by
    simp only [b]
    unfold pairingEntry
    simp [peerEntry_length fits]
  have block : slice b (224 + 12 * k) 12 = historyEntry h := by
    rw [slice_part parts (by omega), pairingHistory_blocks, slice_blocks (historyBlock_length s) hk, historyBlock, used]
    rfl
  have place (i : Nat) : 224 + i + 12 * k = 224 + 12 * k + i := by omega
  refine ⟨?_, ?_, ?_, ?_, ?_⟩
  · exact byteAt_part block (i := 0) (by decide)
  · rw [place 1]
    exact byteAt_part block (by decide)
  · rw [place 2]
    exact byteAt_part block (by decide)
  · rw [place 4, word32At_part block (by decide)]
    simp [historyEntry]
  · rw [place 8, word16At_part block (by decide)]
    simp [historyEntry]

theorem pairingEntry_timers : let b := pairingEntry s
    byteAt b 320 = nat8 s.shd.unacked ∧ byteAt b 321 = nat8 (pathCode s.shd.ackPath) ∧
    word16At b 322 = BitVec.ofNat 16 s.shd.ackTimer.left ∧ word32At b 324 = BitVec.ofNat 32 s.pai.listenTimer.left ∧
    word16At b 328 = BitVec.ofNat 16 s.pai.helloTimer.left ∧ word32At b 332 = BitVec.ofNat 32 s.tko.tolerance := by
  unfold pairingEntry pairingTimers
  simp [peerEntry_length fits]

end fits

end Sys2Proof.Machine
end

section
/-! SUPPORT. The obligation about READs (R165, R166, R171, R172, R188). -/

-- One proof at a time: proofs that wait for earlier checks would each take a thread.
set_option Elab.async false

namespace Sys2Proof.Proofs

open Sys2Proof.Safety Sys2Proof.Machine

/-- Settles O54: the checks in their order (`checkAccess_read`), the captures (`answerRead_captures`,
`answerReadClear_captures`), and the layouts of the entries. -/
theorem readAnswersTheEntries : Obligations.ReadAnswersTheEntries := by
  refine ⟨fun s r rest w command => ?_, fun s i => ?_⟩
  · intro s0 place refused
    have refuses {st : Status} (check : checkAccess true r = .error st) : refused st := read_refused w command check
    refine ⟨fun none => refuses (checkAccess_noObject true none), fun o object => ?_⟩
    intro visited allowed
    obtain ⟨badCommand, badIndex, badLength, access⟩ := checkAccess_read o r object
    have row := read_row w command
    refine ⟨fun no => refuses (badCommand no), fun ok out => refuses (badIndex ok out),
      fun ok inside long => refuses (badLength ok inside long), fun ok inside short unset intact => ?_,
      fun ok inside short set => ?_⟩
    · rw [if_neg (by rw [unset]; exact fun both => Bool.false_ne_true both.2)] at row
      exact ⟨_, rfl, taken_replied w row answerRead (answerRead_captures (access ok inside short) intact)⟩
    · have counters : o = .counters := ok.2 set
      subst counters
      rw [if_pos ⟨Object.ofCode_counters object, set⟩] at row
      exact ⟨_, rfl, taken_replied w row answerReadClear (answerReadClear_captures (access ok inside short) s0)⟩
  · intro entry
    refine ⟨fun o other _ => entryBytes_length other i s, fun inRange station priority => ?_, fun vlan => ?_, ?_, ?_,
      statusEntry_fields s.flt, clockEntry_fields s.tim, fun c class_ => ?_, ?_, fun fits => ?_⟩
    · exact readConfig_configEntry s.cfg inRange station priority
    · exact readZone_zoneEntry _ vlan
    · exact word32At_number _
    · exact word32At_field _
    · have bytes : entry .errlog = errlogEntry (s.flt.record c) := by
        simp only [entry, entryBytes, class_]
      rw [bytes]
      exact errlogEntry_fields _
    · obtain ⟨handleState, epoch⟩ := sessionEntry_anchor (recordOf s i)
      refine ⟨handleState, epoch, sessionEntry_free, sessionEntry_pending, sessionEntry_retired, fun live => ?_⟩
      have bytes : entry .session = liveEntry (recordOf s i) := by
        simp only [entry, entryBytes, sessionEntry, live]
      rw [bytes]
      exact liveEntry_fields _
    · obtain ⟨role, stream, path, walk, suspended, bound, wants, replays⟩ := pairingEntry_codes s
      obtain ⟨compared, comparison⟩ := pairingEntry_comparison fits
      obtain ⟨grace, burst, drain⟩ := pairingEntry_takeover fits
      obtain ⟨unacked, ackPath, timers⟩ := pairingEntry_timers fits
      refine ⟨pairingEntry_length fits, ⟨role, stream.trans ?_, path.trans ?_, walk.trans ?_, suspended, bound, wants, replays⟩,
        pairingEntry_counts s, fun k hk => pairingEntry_refresh s hk, pairingEntry_paths s, pairingEntry_peer s,
        pairingEntry_digest fits, ⟨compared, fun c used => ?_⟩, ⟨grace, burst.trans ?_, drain⟩,
        fun k h hk used => pairingEntry_history fits hk used, ⟨unacked, ackPath.trans ?_, timers⟩⟩
      · cases s.mir.stream <;> rfl
      · cases s.mir.dataPath with
        | none => rfl
        | some p => cases p <;> rfl
      · cases s.mir.walk <;> rfl
      · obtain ⟨kind, fields⟩ := comparison c used
        exact ⟨kind.trans (by cases c.kind <;> rfl), fields⟩
      · cases s.tko.burst <;> rfl
      · cases s.shd.ackPath <;> rfl

end Sys2Proof.Proofs
end

section
/-! SUPPORT. Hellos and deltas read back from the bytes that were written for them, the bytes that are no delta, and the two
obligations about them (R186, R109). -/

-- One proof at a time: proofs that wait for earlier checks would each take a thread.
set_option Elab.async false

namespace Sys2Proof.Machine

/-! ## Hellos (R186) -/

/-- Entry k of a list of two-byte fields. -/
theorem word16At_list {l : List Word16} (rest : List Byte) {k : Nat} (inside : k < l.length) :
    word16At (l.flatMap bytes16 ++ rest) (2 * k) = l[k] := by
  induction l generalizing k with
  | nil => cases inside
  | cons v l ih =>
    rw [List.flatMap_cons, List.append_assoc]
    cases k with
    | zero => exact word16At_bytes16 v _
    | succ k =>
      rw [word16At_past (by rw [bytes16_length]; omega), bytes16_length, show 2 * (k + 1) - 2 = 2 * k by omega]
      exact ih (Nat.lt_of_succ_lt_succ inside)

/-- The fixed header of a hello. -/
def helloHead (h : Hello) : List Byte :=
  [1#8, h.flags] ++ bytes16 h.stationId ++ bytes48 h.stationMac ++ [h.priority, h.role, h.revision, h.count] ++
    bytes32 h.pairGen ++ bytes32 h.adoptedGen ++ bytes32 h.handleCount ++ bytes32 h.slotCount ++ bytes32 h.zoneDigest ++
    bytes32 h.liveCount

theorem helloBytes_eq (h : Hello) : helloBytes h = helloHead h ++ h.refresh.flatMap bytes16 := rfl

@[simp] theorem helloHead_length (h : Hello) : (helloHead h).length = 38 := by simp [helloHead]

/-- Behind the fixed header stands the refresh list. -/
theorem word16At_refresh {h : Hello} (rest : List Byte) {k : Nat} (inside : k < h.refresh.length) :
    word16At (helloBytes h ++ rest) (38 + 2 * k) = h.refresh[k] := by
  rw [helloBytes_eq, List.append_assoc, ← helloHead_length h, word16At_append]
  exact word16At_list rest inside

/-- The refresh list as a hello's reader takes it, when the list has its count. -/
theorem readHello_refresh {h : Hello} (rest : List Byte) (counted : h.refresh.length = h.count.toNat)
    (short : h.refresh.length ≤ 16) : (readHello (helloBytes h ++ rest)).refresh = h.refresh := by
  have count : byteAt (helloBytes h ++ rest) 13 = h.count := by simp [helloBytes]
  simp only [readHello, count, ← counted, Nat.min_eq_left short]
  refine List.ext_getElem (by simp) fun k _ inside => ?_
  rw [List.getElem_map, List.getElem_range]
  exact word16At_refresh rest inside

/-- Each field of the fixed header stands at its place. -/
theorem readHello_head (h : Hello) (rest : List Byte) : readHello (helloBytes h ++ rest) =
    { h with refresh := (readHello (helloBytes h ++ rest)).refresh } := by
  simp [readHello, helloBytes]

theorem readHello_helloBytes {h : Hello} (rest : List Byte) (counted : h.refresh.length = h.count.toNat)
    (short : h.refresh.length ≤ 16) : readHello (helloBytes h ++ rest) = h := by
  rw [readHello_head, readHello_refresh rest counted short]

end Sys2Proof.Machine

namespace Sys2Proof.Proofs

open Sys2Proof.Machine

/-- Settles O45: the fixed header by its offsets (`readHello_head`), the refresh list by induction (`word16At_list`). -/
theorem helloReadsBack : Obligations.HelloReadsBack :=
  fun h rest counted short => ⟨readHello_helloBytes rest counted short, rfl, helloBytes_length h⟩

end Sys2Proof.Proofs

namespace Sys2Proof.Machine

/-! ## Codes of a delta (R189) -/

theorem sessionState_code_lt (st : SessionState) : st.code < 8 := by cases st <;> decide

theorem ofCode_code {st : SessionState} (named : st ≠ .none) : SessionState.ofCode st.code = some st := by
  cases st with
  | none => exact absurd rfl named
  | _ => rfl

theorem ofCode_range {n : Nat} {st : SessionState} (code : SessionState.ofCode n = some st) : 1 ≤ n ∧ n ≤ 7 := by
  unfold SessionState.ofCode at code
  split at code <;> cases code <;> decide

theorem finOrderCode_lt (fo : Option Dir) : finOrderCode fo < 3 := by
  cases fo with
  | none => decide
  | some d => cases d <;> decide

theorem readFinOrder_code (fo : Option Dir) : readFinOrder (finOrderCode fo) = some fo := by
  cases fo with
  | none => rfl
  | some d => cases d <;> rfl

theorem toNat_low4 (b : Byte) : (b.extractLsb' 0 4).toNat = b.toNat % 16 := by
  rw [BitVec.extractLsb'_toNat, Nat.shiftRight_zero]

theorem toNat_mid2 (b : Byte) : (b.extractLsb' 4 2).toNat = b.toNat / 16 % 4 := by
  rw [BitVec.extractLsb'_toNat, Nat.shiftRight_eq_div_pow]

/-- State and fin_order share a byte and stand apart in it. -/
theorem stateByte_codes (b : Body) : ((stateByte b).extractLsb' 0 4).toNat = b.state.code ∧
    ((stateByte b).extractLsb' 4 2).toNat = finOrderCode b.finOrder := by
  have state := sessionState_code_lt b.state
  have order := finOrderCode_lt b.finOrder
  rw [toNat_low4, toNat_mid2, stateByte, toNat_nat8]
  omega

/-! ## What a delta's bytes spell (R186) -/

section spelled

variable {p : List Byte}

theorem spellDelta_place (kind : (byteAt p 0).toNat = 1 ∨ (byteAt p 0).toNat = 5) :
    spellDelta p = (readHandle p).bind fun h => (readWhole p).map fun w => .place h (word16At p 4) w := by
  rcases kind with kind | kind <;> simp only [spellDelta, kind]

theorem spellDelta_update (kind : (byteAt p 0).toNat = 2) :
    spellDelta p = (readHandle p).bind fun h => (readImage p).map fun i => .update h (word16At p 4) i := by
  simp only [spellDelta, kind]

theorem spellDelta_remove (kind : (byteAt p 0).toNat = 3) : spellDelta p =
    if 1 ≤ (byteAt p 1).toNat ∧ (byteAt p 1).toNat ≤ 4 then (readHandle p).map fun h => .remove h (word16At p 4) else none := by
  simp only [spellDelta, kind]

theorem spellDelta_bulkBegin (kind : (byteAt p 0).toNat = 4) : spellDelta p = (readCount p).map .bulkBegin := by
  simp only [spellDelta, kind]

theorem spellDelta_bulkEnd (kind : (byteAt p 0).toNat = 6) :
    spellDelta p = (readCount p).map fun c => .compare .bulkEnd c (word32At p 8) := by
  simp only [spellDelta, kind]

theorem spellDelta_checkpoint (kind : (byteAt p 0).toNat = 7) :
    spellDelta p = (readCount p).map fun c => .compare .checkpoint c (word32At p 8) := by
  simp only [spellDelta, kind]

theorem readWhole_of_image {im : Image} (image : readImage p = some im) (orig : isUnicast (macAt p 80) = true)
    (reply : isUnicast (macAt p 86) = true) : readWhole p = some
      { image := im, origKey := readKey p 48, replyKey := readKey p 64, nextHopOrig := macAt p 80, nextHopReply := macAt p 86,
        flowClass := (byteAt p 92).toNat } := by
  rw [readWhole, image]
  exact if_pos ⟨orig, reply⟩

end spelled

/-- A delta is read exactly from bytes of its kind's size that spell it, whatever stands behind them. -/
theorem readDelta_eq_some_iff {bs rest : List Byte} {d : Delta} : readDelta bs = some (d, rest) ↔
    ∃ p, p ++ rest = bs ∧ deltaSize (byteAt p 0) = some p.length ∧ spellDelta p = some d := by
  constructor
  · intro read
    unfold readDelta at read
    split at read
    · cases read
    · next kind tail =>
      split at read
      · cases read
      · next n size =>
        split at read
        · cases read
        · next enough =>
          obtain ⟨_, spelled, same⟩ := Option.map_eq_some_iff.1 read
          cases same
          have length : ((kind :: tail).take n).length = n := List.length_take_of_le (Nat.le_of_not_lt enough)
          have first : byteAt ((kind :: tail).take n) 0 = kind := by
            obtain ⟨m, rfl⟩ := Nat.exists_eq_succ_of_ne_zero (deltaSize_pos size).ne'
            rfl
          exact ⟨_, List.take_append_drop n _, by rw [first, length, size], spelled⟩
  · rintro ⟨p, rfl, size, spelled⟩
    cases p with
    | nil => cases size
    | cons kind p =>
      have size : deltaSize kind = some (kind :: p).length := size
      rw [List.cons_append, readDelta, size]
      simp only
      rw [← List.cons_append, if_neg (by rw [List.length_append]; omega), List.take_left, spelled, List.drop_left]
      rfl

theorem readDelta_append {bs : List Byte} {d : Delta} (size : deltaSize (byteAt bs 0) = some bs.length)
    (spelled : spellDelta bs = some d) (rest : List Byte) : readDelta (bs ++ rest) = some (d, rest) :=
  readDelta_eq_some_iff.2 ⟨bs, rfl, size, spelled⟩

/-! ## The bytes that are written for a delta (R89, R186) -/

section written

variable {h : Nat} {r : Record}

/-- The image of a session's record that its deltas carry. -/
def imageOf (b : Body) : Image :=
  { state := b.state, finOrder := b.finOrder, dirOrig := b.dirOrig, dirReply := b.dirReply }

/-- A direction tracker that a delta can carry (R50). -/
def TrackerFits (d : DirTracker) : Prop := d.wscale.toNat ≤ 14 ∧ d.maxWin.toNat ≤ 2 ^ 30

theorem readHandle_of_number {p : List Byte} (number : word16At p 2 = BitVec.ofNat 16 h) (inside : h < 32768) :
    readHandle p = some h := by
  have value : (word16At p 2).toNat = h := by rw [number, BitVec.toNat_ofNat]; omega
  rw [readHandle, value]
  exact if_pos inside

theorem readCount_of_number {p : List Byte} {n : Nat} (number : word32At p 4 = BitVec.ofNat 32 n) (within : n ≤ 32768) :
    readCount p = some (BitVec.ofNat 32 n) := by
  have value : (word32At p 4).toNat = n := by rw [number, BitVec.toNat_ofNat]; omega
  rw [readCount, value, number]
  exact if_pos within

/-- The places of an UPDATE, which CREATE and BULK_RECORD begin with, whatever stands behind it. -/
theorem updateBytes_fields (kind : Byte) (h : Nat) (r : Record) (rest : List Byte) : let p := updateBytes kind h r ++ rest
    byteAt p 0 = kind ∧ byteAt p 1 = stateByte r.body ∧ word16At p 2 = BitVec.ofNat 16 h ∧ word16At p 4 = r.epoch ∧
      readTracker p 6 = readTracker (trackerBytes r.body.dirOrig) 0 ∧
      readTracker p 27 = readTracker (trackerBytes r.body.dirReply) 0 := by
  simp [updateBytes]

theorem readImage_updateBytes (kind : Byte) (h : Nat) (rest : List Byte) (named : r.body.state ≠ .none)
    (orig : TrackerFits r.body.dirOrig) (reply : TrackerFits r.body.dirReply) :
    readImage (updateBytes kind h r ++ rest) = some (imageOf r.body) := by
  obtain ⟨-, codes, -, -, dirOrig, dirReply⟩ := updateBytes_fields kind h r rest
  obtain ⟨state, order⟩ := stateByte_codes r.body
  rw [readImage, codes, state, order, ofCode_code named, readFinOrder_code, dirOrig, readTracker_field _ orig.1 orig.2,
    dirReply, readTracker_field _ reply.1 reply.2]
  rfl

theorem readDelta_updateBytes (inside : h < 32768) (named : r.body.state ≠ .none) (orig : TrackerFits r.body.dirOrig)
    (reply : TrackerFits r.body.dirReply) (rest : List Byte) :
    readDelta (updateBytes 2#8 h r ++ rest) = some (.update h r.epoch (imageOf r.body), rest) := by
  have fields := updateBytes_fields 2#8 h r []
  have image := readImage_updateBytes 2#8 h [] named orig reply
  rw [List.append_nil] at fields image
  obtain ⟨kind, -, handle, epoch, -⟩ := fields
  refine readDelta_append (by rw [kind, updateBytes_length]; rfl) ?_ rest
  rw [spellDelta_update (by rw [kind]; rfl), readHandle_of_number handle inside, image, epoch]
  rfl

/-- What a CREATE or BULK_RECORD carries of a record. -/
def wholeOf (b : Body) : Whole :=
  { image := imageOf b, origKey := b.origKey, replyKey := b.replyKey, nextHopOrig := b.nextHopOrig
    nextHopReply := b.nextHopReply, flowClass := b.flowClass.getD 0 }

/-- What stands behind the first 48 bytes of a CREATE or BULK_RECORD. -/
def createTail (b : Body) : List Byte :=
  keyRecord b.origKey ++ keyRecord b.replyKey ++ bytes48 b.nextHopOrig ++ bytes48 b.nextHopReply ++
    [nat8 (b.flowClass.getD 0)] ++ zeros 3

theorem createBytes_eq (kind : Byte) (h : Nat) (r : Record) :
    createBytes kind h r = updateBytes kind h r ++ createTail r.body := by
  simp [createBytes, createTail]

theorem createTail_fields (b : Body) : let p := createTail b
    readKey p 0 = b.origKey ∧ readKey p 16 = b.replyKey ∧ macAt p 32 = b.nextHopOrig ∧ macAt p 38 = b.nextHopReply ∧
      byteAt p 44 = nat8 (b.flowClass.getD 0) := by
  simp [createTail, keyRecord]

theorem readWhole_createBytes (kind : Byte) (h : Nat) (named : r.body.state ≠ .none) (orig : TrackerFits r.body.dirOrig)
    (reply : TrackerFits r.body.dirReply) (hopOrig : isUnicast r.body.nextHopOrig = true)
    (hopReply : isUnicast r.body.nextHopReply = true) (class_ : r.body.flowClass.getD 0 < 256) :
    readWhole (createBytes kind h r) = some (wholeOf r.body) := by
  have image := readImage_updateBytes kind h (createTail r.body) named orig reply
  obtain ⟨origKey, replyKey, nextHopOrig, nextHopReply, classByte⟩ := createTail_fields r.body
  have head : (updateBytes kind h r).length ≤ 48 := (updateBytes_length kind h r).le
  rw [createBytes_eq, readWhole_of_image image]
  · rw [readKey_past head, readKey_past (by omega), macAt_past (by omega), macAt_past (by omega), byteAt_past (by omega),
      updateBytes_length, origKey, replyKey, nextHopOrig, nextHopReply, classByte, toNat_nat8, Nat.mod_eq_of_lt class_]
    rfl
  · rwa [macAt_past (by omega), updateBytes_length, nextHopOrig]
  · rwa [macAt_past (by omega), updateBytes_length, nextHopReply]

theorem readDelta_createBytes {kind : Byte} (places : kind = 1#8 ∨ kind = 5#8) (inside : h < 32768)
    (whole : readWhole (createBytes kind h r) = some (wholeOf r.body)) (rest : List Byte) :
    readDelta (createBytes kind h r ++ rest) = some (.place h r.epoch (wholeOf r.body), rest) := by
  have fields := updateBytes_fields kind h r (createTail r.body)
  rw [← createBytes_eq] at fields
  obtain ⟨first, -, handle, epoch, -⟩ := fields
  refine readDelta_append ?_ ?_ rest
  · rw [first, createBytes_length]
    rcases places with rfl | rfl <;> rfl
  · rw [spellDelta_place (by rw [first]; rcases places with rfl | rfl <;> decide), readHandle_of_number handle inside, whole,
      epoch]
    rfl

theorem removalCode_carried {reason : RemovalReason}
    (carried : reason = .management ∨ reason = .expired ∨ reason = .reopen ∨ reason = .parity) :
    1 ≤ (nat8 (removalCode (some reason))).toNat ∧ (nat8 (removalCode (some reason))).toNat ≤ 4 := by
  rcases carried with rfl | rfl | rfl | rfl <;> decide

theorem removeBytes_fields (h : Nat) (r : Record) : let p := removeBytes h r
    byteAt p 0 = 3#8 ∧ byteAt p 1 = nat8 (removalCode r.removalReason) ∧ word16At p 2 = BitVec.ofNat 16 h ∧
      word16At p 4 = r.epoch := by
  simp [removeBytes]

theorem readDelta_removeBytes {reason : RemovalReason} (inside : h < 32768)
    (carried : reason = .management ∨ reason = .expired ∨ reason = .reopen ∨ reason = .parity)
    (removed : r.removalReason = some reason) (rest : List Byte) :
    readDelta (removeBytes h r ++ rest) = some (.remove h r.epoch, rest) := by
  obtain ⟨kind, code, handle, epoch⟩ := removeBytes_fields h r
  rw [removed] at code
  refine readDelta_append (by rw [kind]; rfl) ?_ rest
  rw [spellDelta_remove (by rw [kind]; rfl), code, if_pos (removalCode_carried carried), readHandle_of_number handle inside, epoch]
  rfl

theorem digestBytes_fields (kind : Byte) (s : State) : let p := digestBytes kind s
    byteAt p 0 = kind ∧ word32At p 4 = BitVec.ofNat 32 s.tbl.liveCount ∧ word32At p 8 = s.tbl.digestSum := by
  simp [digestBytes]

theorem readDelta_digestBytes {s : State} (within : s.tbl.liveCount ≤ 32768) (rest : List Byte) :
    readDelta (digestBytes 6#8 s ++ rest) =
      some (.compare .bulkEnd (BitVec.ofNat 32 s.tbl.liveCount) s.tbl.digestSum, rest) ∧
    readDelta (digestBytes 7#8 s ++ rest) =
      some (.compare .checkpoint (BitVec.ofNat 32 s.tbl.liveCount) s.tbl.digestSum, rest) := by
  constructor
  · obtain ⟨kind, count, sum⟩ := digestBytes_fields 6#8 s
    refine readDelta_append (by rw [kind]; rfl) ?_ rest
    rw [spellDelta_bulkEnd (by rw [kind]; rfl), readCount_of_number count within, sum]
    rfl
  · obtain ⟨kind, count, sum⟩ := digestBytes_fields 7#8 s
    refine readDelta_append (by rw [kind]; rfl) ?_ rest
    rw [spellDelta_checkpoint (by rw [kind]; rfl), readCount_of_number count within, sum]
    rfl

theorem readDelta_bulkBeginFrame {s : State} (within : s.tbl.liveCount ≤ 32768) (rest : List Byte) :
    readDelta ((bulkBeginFrame s).deltas ++ rest) = some (.bulkBegin (BitVec.ofNat 32 s.tbl.liveCount), rest) := by
  have count : word32At (bulkBeginFrame s).deltas 4 = BitVec.ofNat 32 s.tbl.liveCount := by simp [bulkBeginFrame]
  refine readDelta_append rfl ?_ rest
  rw [spellDelta_bulkBegin rfl, readCount_of_number count within]
  rfl

end written

/-! ## The bytes that are no delta (R109) -/

section refused

variable {p bs : List Byte} {n : Nat}

/-- Bytes are no delta when no part of them that has its kind's size spells one. -/
theorem readDelta_none (refused : ∀ p q, p ++ q = bs → byteAt p 0 = byteAt bs 0 → deltaSize (byteAt p 0) = some p.length →
    spellDelta p = none) : readDelta bs = none := by
  refine Option.eq_none_iff_forall_ne_some.2 fun ⟨d, rest⟩ read => ?_
  obtain ⟨p, parts, size, spelled⟩ := readDelta_eq_some_iff.1 read
  have first : byteAt p 0 = byteAt bs 0 := by rw [← parts, byteAt_first (deltaSize_pos size)]
  rw [refused p rest parts first size] at spelled
  cases spelled

theorem deltaSize_toNat {kind : Byte} {k : Nat} (number : kind.toNat = k) : deltaSize kind = deltaSize (BitVec.ofNat 8 k) := by
  rw [← number, BitVec.ofNat_toNat, BitVec.setWidth_eq]

theorem deltaSize_whole {kind : Byte} (whole : kind.toNat = 1 ∨ kind.toNat = 5) : deltaSize kind = some 96 :=
  whole.elim deltaSize_toNat deltaSize_toNat

theorem deltaSize_count {kind : Byte} (count : kind.toNat = 4 ∨ kind.toNat = 6 ∨ kind.toNat = 7) : deltaSize kind = some 12 :=
  count.elim deltaSize_toNat (Or.elim · deltaSize_toNat deltaSize_toNat)

/-- The seven kinds, of which the smallest is a REMOVE. -/
theorem deltaSize_range {kind : Byte} (size : deltaSize kind = some n) : 1 ≤ kind.toNat ∧ kind.toNat ≤ 7 ∧ 8 ≤ n := by
  unfold deltaSize at size
  split at size <;> cases size <;> decide

theorem readDelta_unnamed (unnamed : (byteAt bs 0).toNat = 0 ∨ 7 < (byteAt bs 0).toNat) : readDelta bs = none := by
  refine readDelta_none fun p q _ first size => ?_
  obtain ⟨least, greatest, -⟩ := deltaSize_range size
  rw [first] at least greatest
  omega

theorem readDelta_short (size : deltaSize (byteAt bs 0) = some n) (short : bs.length < n) : readDelta bs = none := by
  refine readDelta_none fun p q parts first own => ?_
  rw [first, size] at own
  cases own
  rw [← parts, List.length_append] at short
  omega

/-! ### A handle, a count, a reason -/

theorem readDelta_badHandle (kind : (byteAt bs 0).toNat = 1 ∨ (byteAt bs 0).toNat = 2 ∨ (byteAt bs 0).toNat = 3 ∨
    (byteAt bs 0).toNat = 5) (out : 32768 ≤ (word16At bs 2).toNat) : readDelta bs = none := by
  refine readDelta_none fun p q parts first size => ?_
  obtain ⟨-, -, least⟩ := deltaSize_range size
  rw [← parts, word16At_first (by omega)] at out
  have none : readHandle p = none := if_neg (Nat.not_lt.2 out)
  rw [← first] at kind
  rcases kind with create | update | remove | bulk
  · rw [spellDelta_place (.inl create), none]; rfl
  · rw [spellDelta_update update, none]; rfl
  · rw [spellDelta_remove remove, none]; exact ite_self _
  · rw [spellDelta_place (.inr bulk), none]; rfl

theorem readDelta_badCount (kind : (byteAt bs 0).toNat = 4 ∨ (byteAt bs 0).toNat = 6 ∨ (byteAt bs 0).toNat = 7)
    (out : 32768 < (word32At bs 4).toNat) : readDelta bs = none := by
  refine readDelta_none fun p q parts first size => ?_
  obtain ⟨-, -, least⟩ := deltaSize_range size
  rw [← parts, word32At_first (by omega)] at out
  have none : readCount p = none := if_neg (Nat.not_le.2 out)
  rw [← first] at kind
  rcases kind with bulkBegin | bulkEnd | checkpoint
  · rw [spellDelta_bulkBegin bulkBegin, none]; rfl
  · rw [spellDelta_bulkEnd bulkEnd, none]; rfl
  · rw [spellDelta_checkpoint checkpoint, none]; rfl

theorem readDelta_badReason (kind : (byteAt bs 0).toNat = 3) (out : (byteAt bs 1).toNat = 0 ∨ 4 < (byteAt bs 1).toNat) :
    readDelta bs = none := by
  refine readDelta_none fun p q parts first size => ?_
  obtain ⟨-, -, least⟩ := deltaSize_range size
  rw [← parts, byteAt_first (by omega)] at out
  rw [spellDelta_remove (by rw [first, kind])]
  exact if_neg (by omega)

/-! ### An image -/

/-- A tracker's scale or window out of its range (R50). -/
def TrackerOut (p : List Byte) (i : Nat) : Prop := 14 < (byteAt p i).toNat % 16 ∨ 2 ^ 30 < (word32At p (i + 13)).toNat

/-- An image with a field out of its range: the state, the fin_order, or a tracker. -/
def ImageOut (p : List Byte) : Prop :=
  (byteAt p 1).toNat % 16 = 0 ∨ 8 ≤ (byteAt p 1).toNat % 16 ∨ (byteAt p 1).toNat / 16 % 4 = 3 ∨ TrackerOut p 6 ∨ TrackerOut p 27

theorem readTracker_none {i : Nat} (out : TrackerOut p i) : readTracker p i = none := by
  unfold readTracker
  exact if_pos (by rwa [toNat_low4])

/-- An image that is read has each of its parts read. -/
theorem readImage_parts {im : Image} (read : readImage p = some im) :
    SessionState.ofCode ((byteAt p 1).toNat % 16) = some im.state ∧ readFinOrder ((byteAt p 1).toNat / 16 % 4) = some im.finOrder ∧
      readTracker p 6 = some im.dirOrig ∧ readTracker p 27 = some im.dirReply := by
  rw [readImage, toNat_low4, toNat_mid2] at read
  split at read
  · next state order orig reply =>
    cases read
    exact ⟨state, order, orig, reply⟩
  · cases read

theorem readImage_none (out : ImageOut p) : readImage p = none := by
  refine Option.eq_none_iff_forall_ne_some.2 fun im read => ?_
  obtain ⟨state, order, orig, reply⟩ := readImage_parts read
  rcases out with zero | large | three | out | out
  · have := ofCode_range state; omega
  · have := ofCode_range state; omega
  · rw [three] at order; cases order
  · rw [readTracker_none out] at orig; cases orig
  · rw [readTracker_none out] at reply; cases reply

theorem imageOut_append {q : List Byte} (long : 48 ≤ p.length) : ImageOut (p ++ q) ↔ ImageOut p := by
  unfold ImageOut TrackerOut
  rw [byteAt_first (by omega), byteAt_first (by omega), byteAt_first (by omega), word32At_first (by omega),
    word32At_first (by omega)]

theorem readDelta_badImage (kind : (byteAt bs 0).toNat = 1 ∨ (byteAt bs 0).toNat = 2 ∨ (byteAt bs 0).toNat = 5)
    (out : ImageOut bs) : readDelta bs = none := by
  refine readDelta_none fun p q parts first size => ?_
  rw [← first] at kind
  have image (long : 48 ≤ p.length) : readImage p = none := readImage_none ((imageOut_append long).1 (parts ▸ out))
  rcases show ((byteAt p 0).toNat = 1 ∨ (byteAt p 0).toNat = 5) ∨ (byteAt p 0).toNat = 2 by omega with whole | update
  · have long : p.length = 96 := Option.some.inj (size.symm.trans (deltaSize_whole whole))
    rw [spellDelta_place whole, readWhole, image (by omega)]
    exact Option.bind_fun_none _
  · have long : p.length = 48 := Option.some.inj (size.symm.trans (deltaSize_toNat update))
    rw [spellDelta_update update, image long.ge]
    exact Option.bind_fun_none _

/-! ### A next hop -/

theorem readWhole_unicast {w : Whole} (read : readWhole p = some w) :
    isUnicast (macAt p 80) = true ∧ isUnicast (macAt p 86) = true := by
  unfold readWhole at read
  split at read
  · cases read
  · split at read
    · next unicast => exact unicast
    · cases read

theorem readDelta_badHop (kind : (byteAt bs 0).toNat = 1 ∨ (byteAt bs 0).toNat = 5)
    (out : isUnicast (macAt bs 80) = false ∨ isUnicast (macAt bs 86) = false) : readDelta bs = none := by
  refine readDelta_none fun p q parts first size => ?_
  rw [← first] at kind
  have long : p.length = 96 := Option.some.inj (size.symm.trans (deltaSize_whole kind))
  rw [← parts, macAt_first (by omega), macAt_first (by omega)] at out
  have whole : readWhole p = none := by
    refine Option.eq_none_iff_forall_ne_some.2 fun w read => ?_
    obtain ⟨orig, reply⟩ := readWhole_unicast read
    rcases out with out | out
    · rw [orig] at out; cases out
    · rw [reply] at out; cases out
  rw [spellDelta_place kind, whole]
  exact Option.bind_fun_none _

end refused

end Sys2Proof.Machine

namespace Sys2Proof.Proofs

open Sys2Proof.Machine

/-- Settles O46: what each kind's bytes spell (`readDelta_append`), and which bytes spell nothing (`readDelta_none`). -/
theorem deltaReadsBack : Obligations.DeltaReadsBack := by
  refine ⟨fun h r rest inside => ⟨fun named orig reply => ?_, fun reason carried removed => ?_, fun s within => ?_⟩, fun bs => ?_⟩
  · exact ⟨readDelta_updateBytes inside named orig reply rest, fun hopOrig hopReply class_ kind places =>
      readDelta_createBytes places inside (readWhole_createBytes kind h named orig reply hopOrig hopReply class_) rest⟩
  · exact readDelta_removeBytes inside carried removed rest
  · obtain ⟨bulkEnd, checkpoint⟩ := readDelta_digestBytes within rest
    exact ⟨bulkEnd, checkpoint, readDelta_bulkBeginFrame within rest⟩
  · refine ⟨readDelta_unnamed, fun remove short => ?_, fun kind bad => ?_, fun update short => ?_, fun kind bad => ?_,
      readDelta_badHandle, readDelta_badImage, readDelta_badReason⟩
    · exact readDelta_short (deltaSize_toNat remove) short
    · rcases bad with short | out
      · exact readDelta_short (deltaSize_count kind) short
      · exact readDelta_badCount kind out
    · exact readDelta_short (deltaSize_toNat update) short
    · rcases bad with short | out
      · exact readDelta_short (deltaSize_whole kind) short
      · exact readDelta_badHop kind out

end Sys2Proof.Proofs
end

section
/-! SUPPORT. The blocks that each command can touch, one row's operation after another, and the two obligations about the whole
machine: what a step runs, and what a command leaves alone. -/

-- One proof at a time: proofs that wait for earlier checks would each take a thread.
set_option Elab.async false

namespace Sys2Proof.Machine

open Sys2Proof.Safety

variable {bs cs : List Block} {s t : State}

/-! ## Resets (R3, R174, R185) -/

/-- A reset can touch every block but the queue of commands: two states with the same queue differ within its blocks. -/
theorem touches_of_pending (same : t.pending = s.pending) : Touches (blocksOf .powerOn) s t := by
  intro b outside
  cases b with
  | pending => exact same
  | _ => exact absurd (by decide) outside

theorem pinReset_touches (s : State) : Touches (blocksOf .pinReset) s (pinReset s) :=
  touches_of_pending (sendNotice_touches _ .pending (by decide))

theorem softReset_touches (s : State) : Touches (blocksOf .softReset) s (softReset s) :=
  touches_of_pending (sendNotice_touches _ .pending (by decide))

theorem takeSoftReset_touches (s : State) : Touches (blocksOf .softReset) s (takeSoftReset s) := by
  unfold takeSoftReset
  split
  · exact Touches.refl s
  · simp only
    split
    · split
      · exact (softReset_touches s).trans (respond_touches _ _ _).mono
      · exact serve_touches _ _ _ s fun t => Touches.refl t
    · exact Touches.refl s

/-! ## Frames that arrive (R1, R6, R7, R9) -/

theorem pPortFrame_touches (f : RxFrame) (s : State) : Touches requestBlocks s (event (receive .p f classP) s) :=
  event_touches (receive_touches .p f classP s (fun g t => (classP_touches g t).mono) (hs := nofun))

theorem wPortFrame_touches (f : RxFrame) (s : State) : Touches eventBlocks s (event (receive .w f takeW) s) :=
  event_touches (receive_touches .w f takeW s (fun g t => (takeW_touches g t).mono) (hs := nofun))

/-- A bad FCS at the S-port also reaches the mirror transmitter (R1, R99). -/
theorem sPortFrame_touches (f : RxFrame) (s : State) : Touches eventBlocks s (event (receive .s f takeS) s) :=
  event_touches (receive_touches .s f takeS s (fun g t => (takeS_touches g t).mono) (hs := fun _ => by decide))

/-! ## Requests (R164) -/

/-- A management row touches the blocks of its effect beside those of a request. -/
theorem request_touches {row : Row} {h : Handler} (touches : ∀ r : Request, r.row = row → ∀ t, Touches bs t (h r t).1)
    (s : State) (within : ∀ b, b ∈ bs → b ∈ cs := by decide) (request : ∀ b, b ∈ requestBlocks → b ∈ cs := by decide) :
    Touches cs s (takeRequest row h s) :=
  takeRequest_touches row h s (fun r of t => (touches r of t).mono within) request

/-- The row of a CONTROL action likewise: a payload of another length than 8 bytes has no effect (R187). -/
theorem action_touches {row : Row} {act : Handler} (touches : ∀ r t, Touches bs t (act r t).1) (s : State)
    (within : ∀ b, b ∈ bs → b ∈ cs := by decide) (request : ∀ b, b ∈ requestBlocks → b ∈ cs := by decide) :
    Touches cs s (takeRequest row (control act) s) :=
  request_touches (fun r _ t => control_touches act r t (touches r t)) s within request

/-! ### WRITE, by the row of its object (R167) -/

/-- The row that takes the WRITE of an object. -/
def Object.writeRow : Object → Row
  | .config => .writeConfig | .zones => .writeZones | .timeouts => .writeTimeouts | .status => .writeStatus
  | .clock => .writeClock | .session | .counters | .errlog | .pairing => .write

/-- The rows of WRITE. -/
def writeRows : List Row := [.write, .writeConfig, .writeZones, .writeTimeouts, .writeStatus, .writeClock]

/-- A request that a WRITE row takes names an object of that row. -/
theorem writeRow_of_row {r : Request} {o : Object} (write : r.row ∈ writeRows) (code : Object.ofCode r.object = some o) :
    r.row = o.writeRow := by
  rw [object_of_row r _ write rfl]
  generalize r.object = n at code
  unfold Object.ofCode at code
  split at code <;> cases code <;> rfl

/-- A WRITE row touches what a WRITE of an object of its own can. -/
theorem write_touches {row : Row} (s : State) (write : row ∈ writeRows := by decide)
    (own : ∀ o : Object, o.writable = true → o.writeRow = row → ∀ b, b ∈ o.block → b ∈ cs := by intro o; cases o <;> decide)
    (request : ∀ b, b ∈ requestBlocks → b ∈ cs := by decide) : Touches cs s (takeRequest row answerWrite s) :=
  request_touches
    (fun r of t => answerWrite_touches r t fun o code writable =>
      own o writable ((writeRow_of_row (of ▸ write) code).symm.trans of))
    s (fun _ inside => inside) request

/-! ### CLOCK_HALT (R155, R156) -/

theorem clockHalt_touches (s : State) : Touches (blocksOf .clockHalt) s (clockHalt s) := by
  have halts (u : State) : Touches (blocksOf .clockHalt) u (takeRequest .clockHalt (control answerClockHalt) u) :=
    action_touches (bs := [.tim, .clock]) (fun _ _ => Touches.fields) u
  unfold clockHalt
  split
  · exact (endTick_touches s).mono.trans (halts _)
  · exact halts s

/-! ## Every command -/

/-- Each command ends in a next state, and leaves every block but its own as it was. -/
theorem exec_touches (c : Instr) (s : State) : ∃ t, exec c s = .next t ∧ Touches (blocksOf c) s t := by
  cases c with
  | powerOn => exact ⟨_, rfl, touches_of_pending rfl⟩
  | pinReset => exact ⟨_, rfl, pinReset_touches s⟩
  | softReset => exact ⟨_, rfl, takeSoftReset_touches s⟩
  | pPortFrameReceive f => exact ⟨_, rfl, pPortFrame_touches f s⟩
  | wPortFrameReceive f => exact ⟨_, rfl, wPortFrame_touches f s⟩
  | sPortFrameReceive f => exact ⟨_, rfl, sPortFrame_touches f s⟩
  | frameTransmitComplete port => exact ⟨_, rfl, transmitted_touches port s⟩
  | clockTick => exact ⟨_, rfl, clockTick_touches s⟩
  | patrolStep => exact ⟨_, rfl, patrolEvent_touches s⟩
  | holdTimeout => exact ⟨_, rfl, holdEvent_touches s⟩
  | coalesceTimerExpiry => exact ⟨_, rfl, coalesceEvent_touches s⟩
  | replayTimerExpiry => exact ⟨_, rfl, replayEvent_touches s⟩
  | revertTimerExpiry => exact ⟨_, rfl, revertEvent_touches s⟩
  | ackTimerExpiry => exact ⟨_, rfl, ackEvent_touches s⟩
  | helloTimerExpiry => exact ⟨_, rfl, helloEvent_touches s⟩
  | deadTimerExpiry path => exact ⟨_, rfl, deadEvent_touches path s⟩
  | listenTimerExpiry => exact ⟨_, rfl, listenEvent_touches s⟩
  | drainTimerExpiry => exact ⟨_, rfl, drainEvent_touches s⟩
  | graceTimerExpiry => exact ⟨_, rfl, graceEvent_touches s⟩
  | announceSpacingExpiry => exact ⟨_, rfl, spacingEvent_touches s⟩
  | keepaliveTimerExpiry => exact ⟨_, rfl, keepaliveEvent_touches s⟩
  | noticeHoldoffExpiry => exact ⟨_, rfl, holdoffEvent_touches s⟩
  | drained => exact ⟨_, rfl, event_touches (whenDue_touches _ setYieldFlag s (setYieldFlag_touches s).mono)⟩
  | deltaBuild => exact ⟨_, rfl, event_touches (buildDelta_touches s).mono⟩
  | read => exact ⟨_, rfl, request_touches (fun r _ => answerRead_touches r) s⟩
  | readCountersClear => exact ⟨_, rfl, request_touches (fun r _ => answerReadClear_touches r) s⟩
  | write | writeConfig | writeZones | writeTimeouts | writeStatus | writeClock => exact ⟨_, rfl, write_touches s⟩
  | install => exact ⟨_, rfl, request_touches (fun r _ => answerInstall_touches r) s⟩
  | find => exact ⟨_, rfl, request_touches (fun r _ => answerFind_touches r) s⟩
  | remove => exact ⟨_, rfl, request_touches (fun r _ => answerRemove_touches r) s⟩
  | keepalive => exact ⟨_, rfl, request_touches (fun r _ => answerKeepalive_touches r) s⟩
  | start => exact ⟨_, rfl, action_touches answerStart_touches s⟩
  | stop => exact ⟨_, rfl, action_touches answerStop_touches s⟩
  | take => exact ⟨_, rfl, action_touches answerTake_touches s⟩
  | yield => exact ⟨_, rfl, action_touches answerYield_touches s⟩
  | resume => exact ⟨_, rfl, action_touches answerResume_touches s⟩
  | resumePath => exact ⟨_, rfl, action_touches answerResumePath_touches s⟩
  | forceFault => exact ⟨_, rfl, action_touches answerForceFault_touches s⟩
  | clearErrors => exact ⟨_, rfl, action_touches answerClearErrors_touches s⟩
  | clearStatus => exact ⟨_, rfl, action_touches answerClearStatus_touches s⟩
  | clockRun => exact ⟨_, rfl, action_touches (bs := [.tim, .clock]) (fun _ _ => Touches.fields) s⟩
  | clockHalt => exact ⟨_, rfl, clockHalt_touches s⟩
  | clockSet => exact ⟨_, rfl, action_touches answerClockSet_touches s⟩
  | runtRequest => exact ⟨_, rfl, takeRunt_touches s⟩
  | undefinedCommand => exact ⟨_, rfl, request_touches (bs := []) (fun _ _ t => Touches.refl t) s⟩

end Sys2Proof.Machine

namespace Sys2Proof.Proofs

open Sys2Proof.Machine

/-- Settles O3: a command ends in the state of `exec_touches` and in no other. -/
theorem commandsTouchOnlyTheirBlocks : Obligations.CommandsTouchOnlyTheirBlocks := by
  intro c s t next
  obtain ⟨u, ends, touches⟩ := exec_touches c s
  obtain rfl : u = t := Host.Outcome.next.inj (ends.symm.trans next)
  exact touches

/-- Settles O1: of the step's two cases the one where a command waits. -/
theorem stepTakesFrontCommand : Obligations.StepTakesFrontCommand := by
  intro c rest s waits
  rw [step, waits]

end Sys2Proof.Proofs
end

section
/-! SUPPORT. The table's laws under its own operations: the free list, the digest, keys placed and slots emptied. -/

-- One proof at a time: proofs that wait for earlier checks would each take a thread.
set_option Elab.async false

namespace Sys2Proof.Machine

open Sys2Proof.Safety

/-! ## The free list (R28) -/

theorem runsGood_iff (f : List Run) :
    runsGood f ↔ (∀ r ∈ f, 0 < r.count) ∧ ∀ h ∈ freeHandles f, h < Config.handles := by
  constructor
  · intro good
    refine ⟨fun r hr => (good r hr).1, fun h hh => ?_⟩
    obtain ⟨r, hr, m⟩ := List.mem_flatMap.1 hh
    have := List.mem_range'_1.1 m
    have := (good r hr).2
    omega
  · rintro ⟨pos, lt⟩ r hr
    have count := pos r hr
    have last := lt (r.first + (r.count - 1))
      (List.mem_flatMap.2 ⟨r, hr, List.mem_range'_1.2 ⟨by omega, by omega⟩⟩)
    exact ⟨count, by omega⟩

theorem joinRun_runs (r : Run) {f : List Run} (hf : ∀ q ∈ f, 0 < q.count) : ∀ q ∈ joinRun r f, 0 < q.count := by
  unfold joinRun
  split
  · exact hf
  · next nz =>
    have pos : 0 < r.count := Nat.pos_of_ne_zero nz
    split
    · simpa using pos
    · next q rest =>
      have hrest : ∀ x ∈ rest, 0 < x.count := fun x hx => hf x (List.mem_cons_of_mem _ hx)
      split
      · rw [List.forall_mem_cons]
        exact ⟨Nat.add_pos_left pos _, hrest⟩
      · rw [List.forall_mem_cons]
        exact ⟨pos, hf⟩

theorem freePop_runs {f : List Run} (hf : ∀ q ∈ f, 0 < q.count) : ∀ q ∈ freePop f, 0 < q.count := by
  cases f with
  | nil => exact hf
  | cons r rest => exact joinRun_runs _ fun q hq => hf q (List.mem_cons_of_mem _ hq)

theorem freeTake_runs {f : List Run} (h : Nat) (hf : ∀ q ∈ f, 0 < q.count) : ∀ q ∈ freeTake f h, 0 < q.count := by
  induction f with
  | nil => exact hf
  | cons r rest ih =>
    have hrest : ∀ q ∈ rest, 0 < q.count := fun q hq => hf q (List.mem_cons_of_mem _ hq)
    unfold freeTake
    split
    · exact joinRun_runs _ (joinRun_runs _ hrest)
    · exact joinRun_runs _ (ih hrest)

/-- The head of the free list is its first handle, and the rest is the list without it. -/
theorem freeHandles_freePop {f : List Run} (hf : ∀ q ∈ f, 0 < q.count) {h : Nat} (e : freeHead f = some h) :
    freeHandles f = h :: freeHandles (freePop f) := by
  cases f with
  | nil => cases e
  | cons r rest =>
    obtain rfl : r.first = h := Option.some.inj e
    obtain ⟨n, hn⟩ := Nat.exists_eq_succ_of_ne_zero (Nat.ne_of_gt (hf r List.mem_cons_self))
    unfold freePop
    rw [freeHandles_joinRun]
    simp [freeHandles, hn, List.range'_succ]

/-- A handle of a run, the handles before it and those behind it. -/
theorem range'_split {a n h : Nat} (lo : a ≤ h) (hi : h < a + n) :
    List.range' a n = List.range' a (h - a) ++ h :: List.range' (h + 1) (a + n - (h + 1)) := by
  have e1 : a + (h - a) = h := by omega
  have e2 : n = (h - a) + ((a + n - (h + 1)) + 1) := by omega
  conv_lhs => rw [e2]
  rw [← List.range'_append_1, e1, List.range'_succ]

theorem freeHandles_freeTake (f : List Run) (h : Nat) : freeHandles (freeTake f h) = (freeHandles f).erase h := by
  induction f with
  | nil => rfl
  | cons r rest ih =>
    unfold freeTake
    split
    · next within =>
      rw [freeHandles_joinRun, freeHandles_joinRun]
      have before : h ∉ List.range' r.first (h - r.first) := by rw [List.mem_range'_1]; omega
      show _ = (List.range' r.first r.count ++ freeHandles rest).erase h
      rw [range'_split within.1 within.2, List.append_assoc, List.erase_append_right _ before, List.cons_append,
        List.erase_cons_head]
    · next out =>
      rw [freeHandles_joinRun, ih]
      have none : h ∉ List.range' r.first r.count := by rw [List.mem_range'_1]; exact out
      exact (List.erase_append_right _ none).symm

/-! ## The digest (R43) -/

/-- The live count and the digest sum are those of the LIVE handles. -/
abbrev Counted (t : Tbl) : Prop := t.liveCount = t.liveHandles.length ∧ t.digestSum = digestOf t

variable {t v : Tbl}

theorem liveHandles_nodup (hs : sparseSorted t.records = true) : t.liveHandles.Nodup := sparseSorted_nodup _ hs _

/-- The digest sum of handles read in another order, each with the epoch it has. -/
theorem digestSum_perm {l m : List Nat} (p : l.Perm m) {f g : Nat → Word32} (same : ∀ k ∈ l, f k = g k) :
    (l.map f).sum = (m.map g).sum := by
  rw [List.map_congr_left same]
  exact (p.map g).sum_eq

/-- The same handles are LIVE, with the same epochs. -/
theorem Counted.same (c : Counted t) (ht : sparseSorted t.records = true) (hv : sparseSorted v.records = true)
    (live : ∀ k, (v.record k).handleState = .live ↔ (t.record k).handleState = .live)
    (epoch : ∀ k, (t.record k).handleState = .live → (v.record k).epoch = (t.record k).epoch)
    (count : v.liveCount = t.liveCount) (sum : v.digestSum = t.digestSum) : Counted v := by
  have p : t.liveHandles.Perm v.liveHandles :=
    (List.perm_ext_iff_of_nodup (liveHandles_nodup ht) (liveHandles_nodup hv)).2 fun k => by
      rw [mem_liveHandles ht, mem_liveHandles hv, live]
  refine ⟨by rw [count, c.1, p.length_eq], ?_⟩
  rw [sum, c.2]
  exact digestSum_perm p fun k hk => by rw [epoch k ((mem_liveHandles ht k).1 hk)]

/-- One more handle is LIVE. -/
theorem Counted.joined (c : Counted t) (ht : sparseSorted t.records = true) (hv : sparseSorted v.records = true) (h : Nat)
    (dead : (t.record h).handleState ≠ .live) (live : (v.record h).handleState = .live)
    (others : ∀ k, k ≠ h → v.record k = t.record k) (count : v.liveCount = t.liveCount + 1)
    (sum : v.digestSum = t.digestSum + digestTerm h (v.record h).epoch) : Counted v := by
  have out : h ∉ t.liveHandles := fun m => dead ((mem_liveHandles ht h).1 m)
  have p : (h :: t.liveHandles).Perm v.liveHandles :=
    (List.perm_ext_iff_of_nodup (List.nodup_cons.2 ⟨out, liveHandles_nodup ht⟩) (liveHandles_nodup hv)).2 fun k => by
      rw [List.mem_cons, mem_liveHandles ht, mem_liveHandles hv]
      by_cases e : k = h
      · subst e; simp [live]
      · simp [e, others k e]
  refine ⟨by rw [count, c.1, ← p.length_eq, List.length_cons], ?_⟩
  rw [sum, c.2, add_comm]
  have e : digestOf v = ((h :: t.liveHandles).map fun k => digestTerm k (v.record k).epoch).sum :=
    (digestSum_perm p fun _ _ => rfl).symm
  rw [e, List.map_cons, List.sum_cons]
  congr 1
  exact digestSum_perm (List.Perm.refl _) fun k hk => by rw [others k fun x => out (x ▸ hk)]

/-- A handle that was LIVE is no longer. -/
theorem Counted.left (c : Counted t) (ht : sparseSorted t.records = true) (hv : sparseSorted v.records = true) (h : Nat)
    (live : (t.record h).handleState = .live) (dead : (v.record h).handleState ≠ .live)
    (others : ∀ k, k ≠ h → v.record k = t.record k) (count : v.liveCount = t.liveCount - 1)
    (sum : v.digestSum = t.digestSum - digestTerm h (t.record h).epoch) : Counted v := by
  have out : h ∉ v.liveHandles := fun m => dead ((mem_liveHandles hv h).1 m)
  have p : t.liveHandles.Perm (h :: v.liveHandles) :=
    (List.perm_ext_iff_of_nodup (liveHandles_nodup ht) (List.nodup_cons.2 ⟨out, liveHandles_nodup hv⟩)).2 fun k => by
      rw [List.mem_cons, mem_liveHandles ht, mem_liveHandles hv]
      by_cases e : k = h
      · subst e; simp [live]
      · simp [e, others k e]
  refine ⟨by rw [count, c.1, p.length_eq, List.length_cons]; rfl, ?_⟩
  have e : digestOf t = ((h :: v.liveHandles).map fun k => digestTerm k (t.record k).epoch).sum :=
    digestSum_perm p fun _ _ => rfl
  rw [sum, c.2, e, List.map_cons, List.sum_cons, add_sub_cancel_left]
  exact digestSum_perm (List.Perm.refl _) fun k hk => by rw [others k fun x => out (x ▸ hk)]

end Sys2Proof.Machine
end

section
/-! SUPPORT. The places that an insert gives two keys; and the obligations about an insert and about a removal. -/

-- One proof at a time: proofs that wait for earlier checks would each take a thread.
set_option Elab.async false

namespace Sys2Proof.Machine

open Sys2Proof.Safety

variable {s t u : State}

/-! ## The first empty place (R31, R32) -/

/-- The place of a key is its first empty one. -/
theorem freePosition_some {t : Tbl} {seed : Word16} {k : Key} {p : Nat} (e : t.freePosition seed k = some p) :
    ∃ pre post, keyPositions seed k = pre ++ p :: post ∧ t.slot p = none ∧ ∀ x ∈ pre, t.slot x ≠ none := by
  obtain ⟨empty, pre, post, split, full⟩ := List.find?_eq_some_iff_append.1 e
  refine ⟨pre, post, split, Option.isNone_iff_eq_none.1 empty, fun x hx none => ?_⟩
  have := full x hx
  simp [none] at this

theorem freePosition_none {t : Tbl} {seed : Word16} {k : Key} (e : t.freePosition seed k = none) :
    ∀ x ∈ keyPositions seed k, t.slot x ≠ none := fun x hx none => by
  have := List.find?_eq_none.1 e x hx
  simp [none] at this

/-- The slot of a key of handle h. -/
abbrev slotOf (k : Key) (h : Nat) (d : Dir) : Slot := { key := k, handle := h, dir := d, keyGood := true, refGood := true }

/-- What an insert that finds both places has done. -/
theorem insertKeys_some {t v : Tbl} {seed : Word16} {a b : Key} {h p q : Nat} (e : t.insertKeys seed a b h = some (v, p, q)) :
    t.freePosition seed a = some p ∧ (t.putSlot p (slotOf a h .orig)).freePosition seed b = some q ∧
      v = (t.putSlot p (slotOf a h .orig)).putSlot q (slotOf b h .reply) := by
  unfold Tbl.insertKeys at e
  split at e
  · cases e
  · next p' hp =>
    simp only at e
    split at e
    · cases e
    · next q' hq => cases e; exact ⟨hp, hq, rfl⟩

/-- An insert fails at the first key or at the second. -/
theorem insertKeys_none {t : Tbl} {seed : Word16} {a b : Key} {h : Nat} (e : t.insertKeys seed a b h = none) :
    t.freePosition seed a = none ∨ ∃ p, t.freePosition seed a = some p ∧
      (t.putSlot p (slotOf a h .orig)).freePosition seed b = none := by
  unfold Tbl.insertKeys at e
  split at e
  · next hp => exact .inl hp
  · next p hp =>
    simp only at e
    split at e
    · next hq => exact .inr ⟨p, hp, hq⟩
    · cases e

/-- A slot is empty behind a slot put when it was and is another. -/
theorem slot_putSlot_none (t : Tbl) (p : Nat) (sl : Slot) (x : Nat) : (t.putSlot p sl).slot x = none ↔ x ≠ p ∧ t.slot x = none := by
  rw [slot_putSlot]
  split <;> simp [*]

/-- The slots behind an insert. -/
theorem insertKeys_slot {t v : Tbl} {seed : Word16} {a b : Key} {h p q : Nat} (e : t.insertKeys seed a b h = some (v, p, q))
    (x : Nat) : v.slot x = if x = q then some (slotOf b h .reply) else if x = p then some (slotOf a h .orig) else t.slot x := by
  obtain ⟨-, -, rfl⟩ := insertKeys_some e
  rw [slot_putSlot, slot_putSlot]

end Sys2Proof.Machine

namespace Sys2Proof.Proofs

open Sys2Proof.Machine Sys2Proof.Safety

/-- Settles O23: the place of a key is the first empty one of its positions, and the second key's place is sought behind the
first key's slot. -/
theorem insertTakesTheFirstEmptySlots : Obligations.InsertTakesTheFirstEmptySlots := by
  intro t seed k1 k2 h
  refine ⟨fun v p q placed => ?_, fun failed => ?_⟩
  · obtain ⟨first, second, made⟩ := insertKeys_some placed
    obtain ⟨pre, post, split, empty, full⟩ := freePosition_some first
    obtain ⟨pre', post', split', empty', full'⟩ := freePosition_some second
    obtain ⟨other, empty'⟩ := (slot_putSlot_none t p _ q).1 empty'
    have slot := insertKeys_slot placed
    refine ⟨⟨pre, post, split, empty, full⟩, ⟨pre', post', split', other, empty', fun x hx => ?_⟩, ?_, ?_, ?_, ?_⟩
    · by_contra none
      obtain ⟨ne, none⟩ := not_or.1 none
      exact full' x hx ((slot_putSlot_none t p _ x).2 ⟨ne, not_not.1 none⟩)
    · rw [slot, if_neg (Ne.symm other), if_pos rfl]
    · rw [slot, if_pos rfl]
    · intro x np nq
      rw [slot, if_neg nq, if_neg np]
    · rw [made]; rfl
  · rcases insertKeys_none failed with none | ⟨p, first, none⟩
    · exact .inl (freePosition_none none)
    · obtain ⟨pre, post, split, empty, -⟩ := freePosition_some first
      refine .inr ⟨p, by rw [split]; simp, empty, fun x hx => ?_⟩
      by_contra out
      obtain ⟨ne, none'⟩ := not_or.1 out
      exact freePosition_none none x hx ((slot_putSlot_none t p _ x).2 ⟨ne, not_not.1 none'⟩)

/-- Settles O27: `removeSession_removed`. -/
theorem removalEmptiesBothSlots : Obligations.RemovalEmptiesBothSlots :=
  fun _ reason bodyFailed _ records slots live => removeSession_removed records slots live reason bodyFailed

end Sys2Proof.Proofs
end

section
/-! SUPPORT. The laws of the table that a clearing leaves, and the obligation about the state after power-on. -/

-- One proof at a time: proofs that wait for earlier checks would each take a thread.
set_option Elab.async false

namespace Sys2Proof.Machine

open Sys2Proof.Safety

theorem freeHandles_cleared : freeHandles Tbl.cleared.free = List.range' 0 Config.handles := by
  simp [freeHandles, Tbl.cleared]

/-- A cleared table meets the law of the handles: all are FREE, in ascending order (R27). -/
theorem tableLaw_cleared : TableLaw Tbl.cleared where
  sorted := rfl
  runs := fun r hr => by
    rw [List.mem_singleton.1 hr]
    exact ⟨by decide, Nat.le_of_eq (Nat.zero_add _)⟩
  free_iff := fun h lt => by
    rw [freeHandles_cleared, List.mem_range'_1]
    exact ⟨fun _ => rfl, fun _ => ⟨Nat.zero_le h, by omega⟩⟩
  used := fun _ _ => rfl
  nodup := by rw [freeHandles_cleared]; exact List.nodup_range'
  count := rfl
  digest := rfl

theorem slotLaw_cleared : SlotLaw Tbl.cleared where
  sorted := rfl
  range := nofun
  names := nofun
  orig := nofun
  reply := nofun

/-- A state whose table is cleared meets the law of the keys. -/
theorem keyLaw_cleared {s : State} (e : s.tbl = Tbl.cleared) : KeyLaw s := by
  have none (pos : Nat) : s.tbl.slot pos = .none := by rw [e]; rfl
  exact {
    placed := fun pos sl h => by rw [none] at h; cases h
    once := fun p q a b h => by rw [none] at h; cases h
    detached := fun _ => none }

theorem queueLaw_reset : QueueLaw State.reset := queueLaw_of_idle rfl rfl rfl fun _ => ⟨rfl, nofun⟩

/-- Power-on is within every bound, and nothing runs in DETACHED. -/
theorem safe_reset : Safe State.reset where
  queues := ⟨by decide, Nat.zero_le _, Nat.zero_le _, Nat.zero_le _⟩
  tolerance := fun _ => ⟨rfl, rfl⟩
  quiet := fun _ => ⟨rfl, rfl, rfl, rfl, rfl⟩
  stream := nofun
  replay := ⟨Nat.zero_le _, fun c => absurd rfl c⟩
  hold := Nat.zero_le _
  refresh := ⟨Nat.zero_le _, List.nodup_nil, fun _ => ⟨rfl, rfl⟩⟩
  yielding := fun _ => ⟨rfl, rfl⟩
  burst := fun _ => rfl
  keepalive := fun _ => rfl
  history := Nat.zero_le _

end Sys2Proof.Machine

namespace Sys2Proof.Proofs

open Sys2Proof.Machine Sys2Proof.Safety

/-- Settles O4: the table is cleared, nothing waits for the peer, and every item confined to a role is at rest. -/
theorem resetMeetsEveryLaw : Obligations.ResetMeetsEveryLaw :=
  ⟨tableLaw_cleared, slotLaw_cleared, keyLaw_cleared rfl, queueLaw_reset, safe_reset⟩

end Sys2Proof.Proofs
end

section
/-! SUPPORT. The laws of the table and of the keys, kept by the operations: the relations in which it is said, and the steps of a
table that only lose sessions. -/

-- One proof at a time: proofs that wait for earlier checks would each take a thread.
set_option Elab.async false

namespace Sys2Proof.Machine

open Sys2Proof.Safety

/-! ## Tables that only lose sessions -/

/-- From t to u the two laws of the table are kept, no handle becomes LIVE, and no slot becomes occupied. -/
structure Thins (t u : Tbl) : Prop where
  table : TableLaw t → TableLaw u
  live  : TableLaw t → ∀ k, (u.record k).handleState = .live → (t.record k).handleState = .live
  slots : TableLaw t → SlotLaw t → SlotLaw u
  kept  : TableLaw t → SlotLaw t → ∀ pos sl, u.slot pos = some sl → t.slot pos = some sl

variable {t u v : Tbl}

theorem Thins.refl (t : Tbl) : Thins t t := ⟨id, fun _ _ => id, fun _ => id, fun _ _ _ _ => id⟩

theorem Thins.trans (a : Thins t u) (b : Thins u v) : Thins t v where
  table law := b.table (a.table law)
  live law k l := a.live law k (b.live (a.table law) k l)
  slots law slots := b.slots (a.table law) (a.slots law slots)
  kept law slots pos sl h := a.kept law slots pos sl (b.kept (a.table law) (a.slots law slots) pos sl h)

theorem Thins.foldl {α : Type} {f : Tbl → α → Tbl} (h : ∀ t a, Thins t (f t a)) (l : List α) (t : Tbl) : Thins t (l.foldl f t) := by
  induction l generalizing t with
  | nil => exact Thins.refl t
  | cons a l ih => exact (h t a).trans (ih (f t a))

theorem Thins.cleared (t : Tbl) : Thins t Tbl.cleared where
  table _ := tableLaw_cleared
  live _ := nofun
  slots _ _ := slotLaw_cleared
  kept _ _ := nofun

/-! ## Records rewritten -/

/-- What the laws read of a record. -/
structure SameIndex (r r' : Record) : Prop where
  state : r'.handleState = r.handleState
  epoch : r'.epoch = r.epoch
  orig  : r'.slotOrig = r.slotOrig ∧ r'.body.origKey = r.body.origKey
  reply : r'.slotReply = r.slotReply ∧ r'.body.replyKey = r.body.replyKey

theorem SameIndex.refl (r : Record) : SameIndex r r := ⟨rfl, rfl, ⟨rfl, rfl⟩, rfl, rfl⟩

/-- The slot law reads of the records no more than those of the LIVE handles. -/
theorem slotLaw_of_live (law : SlotLaw t) (slots : u.slots = t.slots)
    (live : ∀ k, (u.record k).handleState = .live ↔ (t.record k).handleState = .live)
    (same : ∀ k, (t.record k).handleState = .live → SameIndex (t.record k) (u.record k)) : SlotLaw u := by
  have slot (pos : Nat) : u.slot pos = t.slot pos := congrArg (sparseFind · pos) slots
  constructor
  case sorted => rw [slots]; exact law.sorted
  case range => exact fun pos sl h => law.range pos sl (slot pos ▸ h)
  case names =>
    intro pos sl h
    obtain ⟨l, e⟩ := law.names pos sl (slot pos ▸ h)
    refine ⟨(live _).2 l, ?_⟩
    rw [(same _ l).orig.1, (same _ l).reply.1]
    exact e
  case orig =>
    intro k l
    have l := (live k).1 l
    rw [(same k l).orig.1, (same k l).orig.2, slot]
    exact law.orig k l
  case reply =>
    intro k l
    have l := (live k).1 l
    rw [(same k l).reply.1, (same k l).reply.2, slot]
    exact law.reply k l

/-- Records rewritten with what the laws read as it was. -/
theorem Thins.rewritten (slots : u.slots = t.slots) (free : u.free = t.free) (count : u.liveCount = t.liveCount)
    (sum : u.digestSum = t.digestSum)
    (records : sparseSorted t.records = true → sparseSorted u.records = true ∧ ∀ k, SameIndex (t.record k) (u.record k)) :
    Thins t u where
  table law := by
    obtain ⟨sorted, same⟩ := records law.sorted
    have counted : Counted u := Counted.same ⟨law.count, law.digest⟩ law.sorted sorted (fun k => by rw [(same k).state])
      (fun k _ => (same k).epoch) count sum
    exact {
      sorted := sorted
      runs := by rw [free]; exact law.runs
      free_iff := fun h lt => by rw [free, (same h).state]; exact law.free_iff h lt
      used := fun h ge => by rw [(same h).state]; exact law.used h ge
      nodup := by rw [free]; exact law.nodup
      count := counted.1
      digest := counted.2 }
  live law k l := by rwa [((records law.sorted).2 k).state] at l
  slots law slotLaw := by
    obtain ⟨-, same⟩ := records law.sorted
    exact slotLaw_of_live slotLaw slots (fun k => by rw [(same k).state]) fun k _ => same k
  kept _ _ pos sl h := by rwa [Tbl.slot, slots] at h

/-- One record rewritten. -/
theorem Thins.setRecord (h : Nat) {r : Record} (same : SameIndex (t.record h) r) : Thins t (t.setRecord h r) :=
  Thins.rewritten rfl rfl rfl rfl fun sorted => ⟨putRecord_sorted sorted h r, fun k => by
    rw [record_setRecord sorted]
    split
    · next e => rw [e]; exact same
    · exact SameIndex.refl _⟩

/-- Every record rewritten. -/
theorem Thins.mapRecords (f : Record → Record) (keep : f Record.fresh = Record.fresh) (same : ∀ r, SameIndex r (f r)) :
    Thins t { t with records := mapRecords f t.records } :=
  Thins.rewritten rfl rfl rfl rfl fun sorted => ⟨mapRecords_sorted f sorted, fun k => by
    have reads : Tbl.record { t with records := Machine.mapRecords f t.records } k = f (t.record k) :=
      sparse_mapRecords f keep sorted k
    rw [reads]
    exact same _⟩

/-! ## Handles released -/

theorem freePush_good {f : List Run} (good : runsGood f) {h : Nat} (lt : h < Config.handles) : runsGood (freePush f h) := by
  obtain ⟨pos, below⟩ := (runsGood_iff f).1 good
  refine (runsGood_iff _).2 ⟨freePush_runs pos h, fun k hk => ?_⟩
  rw [freeHandles_freePush, List.mem_append, List.mem_singleton] at hk
  rcases hk with hk | rfl
  · exact below k hk
  · exact lt

/-- A handle in use is one of the part's. -/
theorem handle_in_range (law : TableLaw t) {h : Nat} (used : (t.record h).handleState ≠ .free) : h < Config.handles :=
  Nat.lt_of_not_le fun ge => used (law.used h ge)

/-- The free list with a handle that becomes FREE, the others as they were. -/
theorem tableLaw_freed (law : TableLaw t) {h : Nat} (used : (t.record h).handleState ≠ .free) (sorted : sparseSorted u.records = true)
    (free : u.free = freePush t.free h) (now : (u.record h).handleState = .free)
    (others : ∀ k, k ≠ h → u.record k = t.record k) (counted : Counted u) : TableLaw u := by
  have lt := handle_in_range law used
  have out : h ∉ freeHandles t.free := fun m => used ((law.free_iff h lt).1 m)
  have list : freeHandles u.free = freeHandles t.free ++ [h] := by rw [free, freeHandles_freePush]
  constructor
  case sorted => exact sorted
  case runs => rw [free]; exact freePush_good law.runs lt
  case free_iff =>
    intro k ltk
    rw [list, List.mem_append, List.mem_singleton]
    by_cases e : k = h
    · subst e; simp [now]
    · rw [others k e, law.free_iff k ltk]; simp [e]
  case used =>
    intro k ge
    by_cases e : k = h
    · exact e ▸ now
    · rw [others k e]; exact law.used k ge
  case nodup =>
    rw [list]
    exact law.nodup.append (List.nodup_singleton h) (by simpa using out)
  case count => exact counted.1
  case digest => exact counted.2

/-- A RETIRED handle released (R39). -/
theorem Thins.releaseRetired (t : Tbl) (h : Nat) : Thins t (t.releaseRetired h) := by
  by_cases retired : (t.record h).handleState = .retired
  swap
  · unfold Tbl.releaseRetired
    rw [if_neg retired]
    exact Thins.refl t
  have free : (t.releaseRetired h).free = freePush t.free h := by
    unfold Tbl.releaseRetired
    rw [if_pos retired]
    rfl
  have slots := releaseAll_slots [h] t
  have others (law : TableLaw t) (k : Nat) (ne : k ≠ h) : (t.releaseRetired h).record k = t.record k := by
    rw [record_releaseRetired law.sorted, if_neg fun c => ne c.1]
  have now (law : TableLaw t) : (t.releaseRetired h).record h = freedRecord (t.record h).epoch := by
    rw [record_releaseRetired law.sorted, if_pos ⟨rfl, retired⟩]
  have live (law : TableLaw t) (k : Nat) :
      ((t.releaseRetired h).record k).handleState = .live ↔ (t.record k).handleState = .live := by
    by_cases e : k = h
    · subst e; rw [now law, retired]; exact ⟨nofun, nofun⟩
    · rw [others law k e]
  have same (law : TableLaw t) (k : Nat) (l : (t.record k).handleState = .live) : (t.releaseRetired h).record k = t.record k :=
    others law k fun e => by rw [e, retired] at l; cases l
  constructor
  case table =>
    intro law
    have sorted := releaseRetired_sorted law.sorted h
    exact tableLaw_freed law (by rw [retired]; nofun) sorted free (by rw [now law]; rfl) (others law)
      (Counted.same ⟨law.count, law.digest⟩ law.sorted sorted (live law) (fun k l => by rw [same law k l]) slots.2.1 slots.2.2)
  case live => exact fun law k => (live law k).1
  case slots => exact fun law slotLaw => slotLaw_of_live slotLaw slots.1 (live law) fun k l => by rw [same law k l]; exact SameIndex.refl _
  case kept =>
    intro _ _ pos sl h
    have same : (t.releaseRetired _).slots = t.slots := slots.1
    rwa [Tbl.slot, same] at h

/-! ## A session removed (R37, R38) -/

/-- A LIVE handle's session taken out of the table: its slots are empty, its digest term is gone, and its record is one of a
handle that is FREE and on the free list, or RETIRED. -/
theorem Thins.removed (h : Nat) (live : (t.record h).handleState = .live) (r : Record)
    (records : u.records = putRecord t.records h r) (slots : u.slots = (t.unplaced h).slots)
    (count : u.liveCount = t.liveCount - 1) (sum : u.digestSum = t.digestSum - digestTerm h (t.record h).epoch)
    (free : (u.free = freePush t.free h ∧ r.handleState = .free) ∨ (u.free = t.free ∧ r.handleState = .retired)) :
    Thins t u := by
  have reads (law : TableLaw t) (k : Nat) : u.record k = if k = h then r else t.record k := by
    have := record_setRecord law.sorted h r k
    simp only [Tbl.record, Tbl.setRecord, records] at this ⊢
    exact this
  have now (law : TableLaw t) : u.record h = r := by rw [reads law, if_pos rfl]
  have others (law : TableLaw t) (k : Nat) (ne : k ≠ h) : u.record k = t.record k := by rw [reads law, if_neg ne]
  have dead : r.handleState ≠ .live := by rcases free with ⟨-, e⟩ | ⟨-, e⟩ <;> rw [e] <;> nofun
  have gone (law : TableLaw t) (k : Nat) (l : (u.record k).handleState = .live) : k ≠ h := fun e => by
    rw [e, now law] at l; exact dead l
  have slot (law : SlotLaw t) (q : Nat) :
      u.slot q = if q = (t.record h).slotOrig ∨ q = (t.record h).slotReply then none else t.slot q :=
    (congrArg (sparseFind · q) slots).trans (slot_unplaced law.sorted h q)
  have kept (law : SlotLaw t) (pos : Nat) (sl : Slot) (e : u.slot pos = some sl) :
      t.slot pos = some sl ∧ pos ≠ (t.record h).slotOrig ∧ pos ≠ (t.record h).slotReply := by
    rw [slot law] at e
    split at e
    · cases e
    · next c => exact ⟨e, not_or.1 c⟩
  constructor
  case table =>
    intro law
    have sorted : sparseSorted u.records = true := by rw [records]; exact putRecord_sorted law.sorted h r
    have counted : Counted u := Counted.left ⟨law.count, law.digest⟩ law.sorted sorted h live (by rw [now law]; exact dead)
      (others law) count sum
    rcases free with ⟨e, state⟩ | ⟨e, state⟩
    · exact tableLaw_freed law (by rw [live]; nofun) sorted e (by rw [now law]; exact state) (others law) counted
    · have lt := handle_in_range law (h := h) (by rw [live]; nofun)
      have same (k : Nat) : (u.record k).handleState = .free ↔ (t.record k).handleState = .free := by
        by_cases eq : k = h
        · subst eq; rw [now law, state, live]; exact ⟨nofun, nofun⟩
        · rw [others law k eq]
      exact {
        sorted := sorted
        runs := by rw [e]; exact law.runs
        free_iff := fun k ltk => by rw [e, same]; exact law.free_iff k ltk
        used := fun k ge => (same k).2 (law.used k ge)
        nodup := by rw [e]; exact law.nodup
        count := counted.1
        digest := counted.2 }
  case live => exact fun law k l => others law k (gone law k l) ▸ l
  case slots =>
    intro law slotLaw
    -- a slot that another LIVE record names is not one of the two that are emptied
    have stays (k : Nat) (ne : k ≠ h) (pos : Nat) (sl : Slot) (e : t.slot pos = some sl) (owner : sl.handle = k) :
        u.slot pos = some sl := by
      rw [slot slotLaw, if_neg, e]
      rintro (c | c)
      · obtain ⟨sl', e', owner', -⟩ := slotLaw.orig h live
        rw [← c, e, Option.some.injEq] at e'
        exact ne (by rw [← owner, e', owner'])
      · obtain ⟨sl', e', owner', -⟩ := slotLaw.reply h live
        rw [← c, e, Option.some.injEq] at e'
        exact ne (by rw [← owner, e', owner'])
    constructor
    case sorted => rw [slots]; exact sparseDrop_sorted (sparseDrop_sorted slotLaw.sorted _) _
    case range => exact fun pos sl e => slotLaw.range pos sl (kept slotLaw pos sl e).1
    case names =>
      intro pos sl e
      obtain ⟨e, no, nr⟩ := kept slotLaw pos sl e
      obtain ⟨l, at_⟩ := slotLaw.names pos sl e
      have ne : sl.handle ≠ h := fun c => by
        rw [c] at at_
        cases d : sl.dir <;> rw [d] at at_
        · exact no at_
        · exact nr at_
      rw [others law _ ne]
      exact ⟨l, at_⟩
    case orig =>
      intro k l
      have ne := gone law k l
      rw [others law k ne] at l ⊢
      obtain ⟨sl, e, owner, rest⟩ := slotLaw.orig k l
      exact ⟨sl, stays k ne _ sl e owner, owner, rest⟩
    case reply =>
      intro k l
      have ne := gone law k l
      rw [others law k ne] at l ⊢
      obtain ⟨sl, e, owner, rest⟩ := slotLaw.reply k l
      exact ⟨sl, stays k ne _ sl e owner, owner, rest⟩
  case kept => exact fun _ slotLaw pos sl e => (kept slotLaw pos sl e).1

theorem Thins.removeSession (h : Nat) (q : RemovalReason) (g : Bool) (s : State) : Thins s.tbl (removeSession h q g s).tbl := by
  rcases removeSession_tbl h q g s with e | ⟨live, e | e⟩ <;> rw [e]
  · exact Thins.refl _
  · exact Thins.removed h live (freedRecord ((s.tbl.unplaced h).record h).epoch) rfl rfl rfl rfl (.inl ⟨rfl, rfl⟩)
  · exact Thins.removed h live (retiredRecord (recordOf s h).epoch q) rfl rfl rfl rfl (.inr ⟨rfl, rfl⟩)

end Sys2Proof.Machine
end

section
/-! SUPPORT. The laws of the table, kept by the work of the mirror transmitter and by a role change: one lemma an operation,
`<operation>_thins` of the table and `<operation>_narrows` of the whole state. -/

-- One proof at a time: proofs that wait for earlier checks would each take a thread.
set_option Elab.async false

namespace Sys2Proof.Machine

open Sys2Proof.Safety

variable {s t u : State} {bs : List Block}

/-! ## States that only lose sessions -/

theorem Thins.of_eq {a b : Tbl} (e : b = a) : Thins a b := e ▸ Thins.refl a

/-- A step that leaves the table. -/
theorem Thins.apart (h : Touches bs s t) (hb : Block.tbl ∉ bs := by decide) : Thins s.tbl t.tbl := Thins.of_eq (h .tbl hb)

theorem Thins.steps {α : Type} {f : State → α → State} (h : ∀ s a, Thins s.tbl (f s a).tbl) (l : List α) (s : State) :
    Thins s.tbl (l.foldl f s).tbl := by
  induction l generalizing s with
  | nil => exact Thins.refl _
  | cons a l ih => exact (h s a).trans (ih (f s a))

/-- From s to t the table only loses sessions, the hash seed stands, and the part does not become DETACHED. -/
structure Narrows (s t : State) : Prop where
  thins : Thins s.tbl t.tbl
  seed  : t.cfg.hashSeed = s.cfg.hashSeed
  role  : t.pai.role = .detached → s.pai.role = .detached

theorem Narrows.refl (s : State) : Narrows s s := ⟨Thins.refl _, rfl, id⟩

theorem Narrows.trans (a : Narrows s t) (b : Narrows t u) : Narrows s u :=
  ⟨a.thins.trans b.thins, b.seed.trans a.seed, a.role ∘ b.role⟩

theorem Narrows.foldl {α : Type} {f : State → α → State} (h : ∀ s a, Narrows s (f s a)) (l : List α) (s : State) :
    Narrows s (l.foldl f s) := by
  induction l generalizing s with
  | nil => exact Narrows.refl s
  | cons a l ih => exact (h s a).trans (ih (f s a))

/-- A step whose fields show that it leaves the table, the role and the configuration. -/
theorem Narrows.of_fields (tbl : t.tbl = s.tbl := by rfl) (role : t.pai.role = s.pai.role := by rfl)
    (cfg : t.cfg = s.cfg := by rfl) : Narrows s t :=
  ⟨Thins.of_eq tbl, by rw [cfg], fun d => by rwa [role] at d⟩

/-- A step that leaves the pairing controller and the configuration, with what it does to the table. -/
theorem Narrows.unpaired (h : Touches bs s t) (thins : Thins s.tbl t.tbl) (hp : Block.pai ∉ bs := by decide)
    (hc : Block.cfg ∉ bs := by decide) : Narrows s t where
  thins := thins
  seed := by rw [h .cfg hc]
  role d := by rwa [h .pai hp] at d

/-- A step that leaves the table, the pairing controller and the configuration. -/
theorem Narrows.apart (h : Touches bs s t) (ht : Block.tbl ∉ bs := by decide) (hp : Block.pai ∉ bs := by decide)
    (hc : Block.cfg ∉ bs := by decide) : Narrows s t := Narrows.unpaired h (Thins.apart h ht) hp hc

theorem report_narrows (c : ErrCode) (i : ErrInfo) (s : State) : Narrows s (report c i s) := Narrows.apart (report_touches c i s)

theorem bump_narrows (c : Ctr) (s : State) : Narrows s (bump c s) := Narrows.of_fields

theorem raise_narrows (f : Flag) (s : State) : Narrows s (raise f s) := Narrows.of_fields

theorem handToPort_narrows (port : Port) (f : Frame) (s : State) : Narrows s (handToPort port f s) :=
  Narrows.apart (handToPort_touches port f s)

/-! ## Records and held frames -/

theorem clearReleaseSeq_thins (e : HoldEntry) (s : State) : Thins s.tbl (clearReleaseSeq e s).tbl := by
  unfold clearReleaseSeq
  simp only
  split
  · exact Thins.setRecord _ ⟨rfl, rfl, ⟨rfl, rfl⟩, rfl, rfl⟩
  · exact Thins.refl _

theorem releaseHeld_thins (c : Ctr) (s : State) (e : HoldEntry) : Thins s.tbl (releaseHeld c s e).tbl := by
  rw [releaseHeld_tbl]
  exact clearReleaseSeq_thins e s

theorem releaseWhere_thins (pick : HoldEntry → Bool) (c : Ctr) (s : State) : Thins s.tbl (releaseWhere pick c s).tbl :=
  Thins.steps (releaseHeld_thins c) _ { s with hold := s.hold.filter fun e => !pick e }

theorem flushHold_thins (s : State) : Thins s.tbl (flushHold s).tbl := by
  unfold flushHold
  split
  · exact Thins.refl _
  · rw [report_tbl]
    exact releaseWhere_thins _ _ s

theorem disposeHold_thins (r : Role) (s : State) : Thins s.tbl (disposeHold r s).tbl := by
  unfold disposeHold
  split
  · exact Thins.refl _
  · split
    · exact releaseWhere_thins _ _ s
    · have cleared := Thins.steps (f := fun t e => clearReleaseSeq e t) (fun t e => clearReleaseSeq_thins e t) s.hold
        { s with hold := [] }
      simp only
      split <;> exact cleared

theorem setPending_thins (h : Nat) (p : Pending) (s : State) : Thins s.tbl (setPending h p s).tbl :=
  Thins.setRecord h ⟨rfl, rfl, ⟨rfl, rfl⟩, rfl, rfl⟩

theorem markDirty_thins (k : Pending) (h : Nat) (s : State) : Thins s.tbl (markDirty k h s).tbl := by
  unfold markDirty
  split
  · exact Thins.refl _
  · split
    · exact setPending_thins h _ s
    · exact setPending_thins h _ s
    · exact Thins.refl _
    · exact Thins.refl _
    · exact Thins.refl _

/-! ## The stream's opening, restart and close -/

theorem clearDirty_thins (s : State) : Thins s.tbl (clearDirty s).tbl :=
  Thins.mapRecords _ rfl fun _ => ⟨rfl, rfl, ⟨rfl, rfl⟩, rfl, rfl⟩

theorem dropMirrored_thins (s : State) : Thins s.tbl (dropMirrored s).tbl :=
  Thins.mapRecords _ rfl fun r => by split <;> exact ⟨rfl, rfl, ⟨rfl, rfl⟩, rfl, rfl⟩

theorem freeAllRetired_thins (s : State) : Thins s.tbl (freeAllRetired s).tbl := Thins.foldl Thins.releaseRetired _ _

theorem settleOldStream_thins (s : State) : Thins s.tbl (settleOldStream s).tbl :=
  (((clearDirty_thins (clearReplay s)).trans (freeAllRetired_thins _)).trans (flushHold_thins _)).trans (dropMirrored_thins _)

theorem closeStream_thins (r : Role) (s : State) : Thins s.tbl (closeStream r s).tbl := by
  by_cases closed : s.mir.stream = .closed
  · unfold closeStream
    rw [if_pos closed]
    exact Thins.refl _
  · obtain ⟨w, e, -, table⟩ := closeStream_eq r s closed
    rw [e]
    have freed : Thins s.tbl w.tbl := by rw [table]; exact (clearDirty_thins s).trans (freeAllRetired_thins _)
    exact freed.trans (disposeHold_thins r w)

theorem closeStream_narrows (r : Role) (s : State) : Narrows s (closeStream r s) :=
  Narrows.unpaired (closeStream_touches r s) (closeStream_thins r s)

theorem rechoose_narrows (s : State) : Narrows s (rechoose s) := Narrows.apart (rechoose_touches s)

theorem beginStream_narrows (g : Word32) (s : State) : Narrows s (beginStream g s) := by
  have settled : Narrows s (settleOldStream { s with pai := { s.pai with pairGen := g } }) :=
    Narrows.trans (t := { s with pai := { s.pai with pairGen := g } }) Narrows.of_fields
      (Narrows.unpaired (settleOldStream_touches _) (settleOldStream_thins _))
  have ended := settled.trans (Narrows.apart (endSuspensions_touches _))
  unfold beginStream
  simp only
  split
  · exact ended.trans Narrows.of_fields
  · exact (ended.trans (rechoose_narrows _)).trans Narrows.of_fields

/-! ## Frames closed, deltas placed -/

theorem writeReleaseSeq_thins (q : Word16) (s : State) (c : Nat × Word16) : Thins s.tbl (writeReleaseSeq q s c).tbl := by
  unfold writeReleaseSeq
  split
  · simp only
    split
    · exact Thins.setRecord _ ⟨rfl, rfl, ⟨rfl, rfl⟩, rfl, rfl⟩
    · exact Thins.refl _
  · exact Thins.refl _

theorem closeFrame_thins (s : State) : Thins s.tbl (closeFrame s).tbl := by
  unfold closeFrame
  split
  · exact Thins.refl _
  · next fr _ =>
    simp only
    generalize hv : ({ s with mir := _ } : State) = v
    have same : v.tbl = s.tbl := by rw [← hv]
    have given := Thins.steps (writeReleaseSeq_thins s.mir.nextSeq) fr.creates v
    rw [same] at given
    split
    · exact given
    · exact given.trans ((Thins.apart (sendMirror_touches _ _ _)).trans (Thins.apart (bump_touches _ _)))

theorem writeMirrored_thins (h : Nat) (s : State) : Thins s.tbl (writeMirrored h s).tbl :=
  Thins.setRecord h ⟨rfl, rfl, ⟨rfl, rfl⟩, rfl, rfl⟩

theorem groupBuilt_thins (h : Nat) (s : State) : Thins s.tbl (groupBuilt h s).tbl := by
  unfold groupBuilt
  split
  · exact writeMirrored_thins h s
  · exact writeMirrored_thins h s
  · exact Thins.refl _
  · exact Thins.refl _

theorem builtEffect_thins (c : Choice) (s : State) : Thins s.tbl (builtEffect c s).tbl := by
  cases c with
  | live h => exact (groupBuilt_thins h s).trans (setPending_thins h .none _)
  | bulkRecord h => exact writeMirrored_thins h s
  | bulkEnd => exact Thins.refl _
  | checkpoint => exact Thins.refl _

theorem buildChoice_thins (c : Choice) (s : State) : Thins s.tbl (buildChoice c s).tbl := by
  have placed : Thins s.tbl (placeChoice c s).tbl := builtEffect_thins c s
  unfold buildChoice
  simp only
  split
  · exact placed.trans (closeFrame_thins _)
  · exact placed

theorem buildOverflow_thins (c : Choice) (s : State) : Thins s.tbl (buildOverflow c s).tbl := by
  have closed := (Thins.apart (commitChoice_touches c s)).trans (closeFrame_thins _)
  unfold buildOverflow
  simp only
  split
  · exact closed.trans (buildChoice_thins c _)
  · exact closed

theorem buildNext_thins (s : State) : Thins s.tbl (buildNext s).tbl := by
  unfold buildNext
  split
  · split
    · exact closeFrame_thins s
    · exact Thins.refl _
  · split
    · exact buildChoice_thins _ s
    · exact buildOverflow_thins _ s

theorem buildDelta_thins (s : State) : Thins s.tbl (buildDelta s).tbl := by
  unfold buildDelta
  split
  · exact Thins.refl _
  · split
    · exact Thins.refl _
    · exact (Thins.apart (advanceWalk_touches s)).trans (buildNext_thins _)

/-! ## Retransmissions and acknowledgements -/

theorem atReplayLimit_narrows (s : State) : Narrows s (atReplayLimit s) := by
  unfold atReplayLimit
  split
  · have moved (v : State) : Narrows v (rechoose (clearReplayCount (suspendDataPath v))) :=
      ((Narrows.apart (suspendDataPath_touches v)).trans (Narrows.apart (clearReplayCount_touches _))).trans (rechoose_narrows _)
    have path (i : ErrInfo) := (report_narrows .mir2 i s).trans (moved (report .mir2 i s))
    simp only
    split
    · exact ((path _).trans (report_narrows _ _ _)).trans (beginStream_narrows _ _)
    · exact path _
  · exact Narrows.refl s

theorem resend_narrows (p : Option PathId) (g : Option Word16) (s : State) : Narrows s (atReplayLimit (restartReplayTimer
    { retransmitOn p s with mir := { (retransmitOn p s).mir with
      replayCount := (retransmitOn p s).mir.replayCount + 1, gapLatch := g } })) :=
  ((Narrows.apart (retransmitOn_touches p s)).trans Narrows.of_fields).trans (atReplayLimit_narrows _)

theorem takeAck_narrows (k : Nat) (s : State) : Narrows s (takeAck k s) := by
  refine Narrows.unpaired (takeAck_touches k s) ?_
  unfold takeAck
  simp only
  generalize hv : ({ s with mir := _, tbl := _ } : State) = v
  have freed : Thins s.tbl v.tbl := by rw [← hv]; exact Thins.foldl Thins.releaseRetired _ s.tbl
  exact freed.trans (releaseWhere_thins _ _ v)

theorem receiveAck_narrows (g : Word32) (n : Word16) (gap : Bool) (s : State) : Narrows s (receiveAck g n gap s) := by
  unfold receiveAck
  split
  · exact bump_narrows _ s
  · split
    · exact bump_narrows _ s
    · simp only
      split
      · split
        · exact resend_narrows _ _ s
        · exact bump_narrows _ s
      · split
        · split
          · exact (takeAck_narrows _ s).trans (resend_narrows _ _ _)
          · exact takeAck_narrows _ s
        · exact (report_narrows _ _ s).trans (bump_narrows _ _)

/-! ## A role change (R139) -/

theorem dropStandbyFields_thins (s : State) : Thins s.tbl (dropStandbyFields s).tbl :=
  Thins.mapRecords _ rfl fun r => by split <;> exact ⟨rfl, rfl, ⟨rfl, rfl⟩, rfl, rfl⟩

theorem standbyAtChange_thins (a b : Role) (c : Cause) (s : State) : Thins s.tbl (standbyAtChange a b c s).tbl := by
  unfold standbyAtChange
  split
  · exact Thins.refl _
  · split
    · exact dropStandbyFields_thins s
    · exact Thins.refl _

theorem streamAtChange_thins (r : Role) (s : State) : Thins s.tbl (streamAtChange r s).tbl := by
  unfold streamAtChange
  split
  · exact Thins.refl _
  · exact closeStream_thins r s

theorem changeRole_thins (to_ : Role) (cause : Cause) (s : State) : Thins s.tbl (changeRole to_ cause s).tbl := by
  unfold changeRole
  simp only
  generalize hv : raise .role (addHistory s.pai.role to_ cause { s with pai := { s.pai with role := to_ } }) = v
  have same : v.tbl = s.tbl := by rw [← hv]; rfl
  have settled := (standbyAtChange_thins s.pai.role to_ cause v).trans (streamAtChange_thins to_ _)
  rw [same] at settled
  have rest (w : State) : Touches [.prt, .flt, .pai, .tko, .tim] w _ :=
    (listenAtChange_touches to_ w).mono.trans <| (yieldAtChange_touches to_ _).mono.trans <|
    (takeoverAtChange_touches s.pai.role to_ _).mono.trans <| (burstAtChange_touches s.pai.role to_ _).mono.trans <|
    (keepaliveAtChange_touches to_ _).mono.trans <| (patrolAtChange_touches to_ _).mono.trans <|
    (detachAtChange_touches to_ _).mono.trans (sendHello_touches _).mono
  exact settled.trans (Thins.apart (rest _))

/-- A role change, but not to DETACHED. -/
theorem changeRole_narrows {to_ : Role} (other : to_ ≠ .detached) (cause : Cause) (s : State) : Narrows s (changeRole to_ cause s) where
  thins := changeRole_thins to_ cause s
  seed := by rw [changeRole_touches to_ cause s .cfg (by decide)]
  role d := absurd ((changeRole_role to_ cause s).symm.trans d) other

theorem raiseFault_narrows (c : ErrCode) (i : ErrInfo) (s : State) : Narrows s (raiseFault c i s) := by
  unfold raiseFault
  simp only
  split
  · exact report_narrows c i s
  · exact (report_narrows c i s).trans (changeRole_narrows (by decide) _ _)

theorem clearTable_narrows (s : State) : Narrows s (clearTable s) :=
  Narrows.unpaired (clearTable_touches s) (Thins.cleared _)

theorem tableFault_narrows (i : ErrInfo) (c : Ctr) (s : State) : Narrows s (tableFault i c s) :=
  ((bump_narrows c s).trans (raiseFault_narrows _ _ _)).trans (clearTable_narrows _)

end Sys2Proof.Machine
end

section
/-! SUPPORT. The laws of the table and of the keys: lookups, the key that a lookup has missed, and a session placed. -/

-- One proof at a time: proofs that wait for earlier checks would each take a thread.
set_option Elab.async false

namespace Sys2Proof.Machine

open Sys2Proof.Safety

variable {s t u : State} {bs : List Block}

/-! ## Hellos and the refresh list -/

/-- A step that leaves the table and the configuration, and the role. -/
theorem Narrows.paired (h : Touches bs s t) (role : t.pai.role = s.pai.role) (ht : Block.tbl ∉ bs := by decide)
    (hc : Block.cfg ∉ bs := by decide) : Narrows s t where
  thins := Thins.apart h ht
  seed := by rw [h .cfg hc]
  role d := by rwa [role] at d

theorem sendHello_narrows (s : State) : Narrows s (sendHello s) := Narrows.paired (sendHello_touches s) (sendHello_steady s).role

theorem setBulkWanted_narrows (s : State) : Narrows s (setBulkWanted s) := by
  unfold setBulkWanted
  split
  · exact Narrows.refl s
  · exact Narrows.trans (t := { s with shd := { s.shd with bulkWanted := true } }) Narrows.of_fields (sendHello_narrows _)

theorem joinRefresh_narrows (h : Nat) (s : State) : Narrows s (joinRefresh h s) := by
  unfold joinRefresh
  split
  · exact Narrows.refl s
  · split
    · exact Narrows.of_fields
    · exact (report_narrows _ _ s).trans (setBulkWanted_narrows _)

/-! ## Removals, parity checks and lookups -/

theorem removeSession_narrows (h : Nat) (q : RemovalReason) (g : Bool) (s : State) : Narrows s (removeSession h q g s) :=
  Narrows.unpaired (removeSession_touches h q g s) (Thins.removeSession h q g s)

theorem removeParity_narrows (h : Nat) (g : Bool) (s : State) : Narrows s (removeParity h g s) := by
  unfold removeParity
  simp only
  split
  · exact (removeSession_narrows h _ g s).trans (joinRefresh_narrows h _)
  · exact removeSession_narrows h _ g s

theorem checkSlot_narrows (pos : Nat) (s : State) : Narrows s (checkSlot pos s).1 := by
  unfold checkSlot
  split
  · exact Narrows.refl s
  · split
    · exact Narrows.refl s
    · split
      · exact ((report_narrows _ _ s).trans (bump_narrows _ _)).trans (removeParity_narrows _ _ _)
      · exact tableFault_narrows _ _ s

theorem checkRecord_narrows (h : Nat) (s : State) : Narrows s (checkRecord h s).1 := by
  unfold checkRecord
  simp only
  split
  · exact tableFault_narrows _ _ s
  · split
    · exact ((report_narrows _ _ s).trans (bump_narrows _ _)).trans (removeParity_narrows _ _ _)
    · exact Narrows.refl s

theorem checkSlots_narrows (ps : List Nat) (s : State) : Narrows s (checkSlots ps s).1 := by
  induction ps generalizing s with
  | nil => exact Narrows.refl s
  | cons p ps ih =>
    have first := checkSlot_narrows p s
    unfold checkSlots
    split
    · next e => rw [e] at first; exact first
    · next e => rw [e] at first; exact first.trans (ih _)

theorem lookup_narrows (k : Key) (s : State) : Narrows s (lookup k s).1 := by
  have slots := checkSlots_narrows (keyPositions s.cfg.hashSeed k) s
  unfold lookup
  split
  · next e => rw [e] at slots; exact slots
  · next e =>
    rw [e] at slots
    split
    · exact slots
    · next v _ sl _ =>
      have record := checkRecord_narrows sl.handle v
      split
      · next good => rw [good] at record; exact slots.trans record
      · next bad => rw [bad] at record; exact slots.trans record

/-! ## A key that stands nowhere -/

/-- The state meets the laws of the table and of the keys. -/
structure Ordered (s : State) : Prop where
  table : TableLaw s.tbl
  slots : SlotLaw s.tbl
  keys  : KeyLaw s

/-- A state that only loses sessions keeps the law of the keys. -/
theorem Narrows.ordered (n : Narrows s t) (o : Ordered s) : Ordered t where
  table := n.thins.table o.table
  slots := n.thins.slots o.table o.slots
  keys := by
    have kept := n.thins.kept o.table o.slots
    refine ⟨fun pos sl h => ?_, fun p q a b ha hb => o.keys.once p q a b (kept p a ha) (kept q b hb), fun d pos => ?_⟩
    · rw [n.seed]
      exact o.keys.placed pos sl (kept pos sl h)
    · by_contra some
      obtain ⟨sl, e⟩ := Option.ne_none_iff_exists'.1 some
      have none := o.keys.detached (n.role d) pos
      rw [kept pos sl e] at none
      cases none

/-- No slot holds the key. -/
def Absent (k : Key) (t : Tbl) : Prop := ∀ pos sl, t.slot pos = some sl → sl.key ≠ k

theorem Absent.narrows {k : Key} (a : Absent k s.tbl) (n : Narrows s t) (o : Ordered s) : Absent k t.tbl :=
  fun pos sl h => a pos sl (n.thins.kept o.table o.slots pos sl h)

theorem absent_cleared (k : Key) : Absent k Tbl.cleared := nofun

/-- A key that its positions do not hold stands nowhere. -/
theorem absent_of_findKey {k : Key} (o : Ordered s) (none : s.tbl.findKey s.cfg.hashSeed k = none) : Absent k s.tbl := by
  intro pos sl h e
  have miss := List.findSome?_eq_none_iff.1 none pos (e ▸ o.keys.placed pos sl h)
  simp [h, e] at miss

/-- With the session that holds it removed, a key stands nowhere. -/
theorem removeSession_absent {pos : Nat} {sl : Slot} (o : Ordered s) (at_ : s.tbl.slot pos = some sl) (q : RemovalReason) (g : Bool) :
    Absent sl.key (removeSession sl.handle q g s).tbl := by
  obtain ⟨live, place⟩ := o.slots.names pos sl at_
  have removed := removeSession_removed o.table.sorted o.slots.sorted (h := sl.handle) live q g
  intro pos' sl' at' e
  rw [removed.slots] at at'
  split at at'
  · cases at'
  · next other =>
    obtain rfl := o.keys.once pos' pos sl' sl at' at_ e
    refine other ?_
    cases d : sl.dir <;> rw [d] at place
    · exact .inl place
    · exact .inr place

/-- A slot that clears the table leaves it cleared. -/
theorem checkSlot_cleared {pos : Nat} (e : checkSlot pos s = (t, .cleared)) : t.tbl = Tbl.cleared := by
  unfold checkSlot at e
  split at e
  · cases e
  · split at e
    · cases e
    · split at e
      · cases e
      · cases e; rfl

theorem checkSlots_cleared {ps : List Nat} (e : checkSlots ps s = (t, true)) : t.tbl = Tbl.cleared := by
  induction ps generalizing s with
  | nil => cases e
  | cons p ps ih =>
    unfold checkSlots at e
    split at e
    · next first => cases e; exact checkSlot_cleared first
    · exact ih e

/-- What the check of a record can do: nothing, a session lost with a damaged body, or the table cleared. -/
theorem checkRecord_cases (h : Nat) (s : State) : checkRecord h s = (s, .good) ∨
    ((recordOf s h).handleState = .live ∧ checkRecord h s =
      (removeParity h true (bump .parityRecord (report .tbl2 (ErrInfo.ofHandle h) s)), .removed)) ∨
    checkRecord h s = (tableFault (ErrInfo.ofHandle h) .parityRecord s, .cleared) := by
  unfold checkRecord
  simp only
  split
  · exact .inr (.inr rfl)
  · split
    · next damaged => exact .inr (.inl ⟨damaged.1, rfl⟩)
    · exact .inl rfl

theorem removeParity_tbl (h : Nat) (g : Bool) (s : State) : (removeParity h g s).tbl = (removeSession h .parity g s).tbl := by
  unfold removeParity
  simp only
  split
  · exact joinRefresh_touches h _ .tbl (by decide)
  · rfl

/-- The slot that a lookup finds holds the key. -/
theorem findKey_some {tb : Tbl} {seed : Word16} {k : Key} {sl : Slot} (e : tb.findKey seed k = some sl) :
    ∃ pos ∈ keyPositions seed k, tb.slot pos = some sl ∧ sl.key = k := by
  obtain ⟨pos, mem, e⟩ := List.exists_of_findSome?_eq_some e
  obtain ⟨at_, key⟩ := Option.filter_eq_some_iff.1 e
  exact ⟨pos, mem, at_, beq_iff_eq.1 key⟩

/-- Behind a lookup that misses, the key stands nowhere: it was not found, or its session was damaged and is gone. -/
theorem lookup_absent {k : Key} (o : Ordered s) (miss : (lookup k s).2 = none) : Absent k (lookup k s).1.tbl := by
  have slots := checkSlots_narrows (keyPositions s.cfg.hashSeed k) s
  unfold lookup at miss ⊢
  split
  · next e => rw [checkSlots_cleared e]; exact absent_cleared k
  · next v e =>
    rw [e] at slots miss
    have ov := slots.ordered o
    split
    · next none => exact absent_of_findKey ov none
    · next sl found =>
      simp only [found] at miss
      obtain ⟨pos, -, at_, key⟩ := findKey_some found
      rcases checkRecord_cases sl.handle v with c | ⟨-, c⟩ | c <;> rw [c] at miss ⊢
      · cases miss
      · have lost := (report_narrows .tbl2 (ErrInfo.ofHandle sl.handle) v).trans (bump_narrows .parityRecord _)
        simp only [removeParity_tbl]
        rw [← key]
        exact removeSession_absent (pos := pos) (lost.ordered ov) at_ _ _
      · exact absent_cleared k

/-- Behind a lookup that hits, a slot holds the key for the handle found. -/
theorem lookup_hit {k : Key} {h : Nat} {d : Dir} (hit : (lookup k s).2 = some (h, d)) :
    ∃ pos sl, (lookup k s).1.tbl.slot pos = some sl ∧ sl.key = k ∧ sl.handle = h := by
  unfold lookup at hit ⊢
  split
  · next e => simp only [e] at hit; cases hit
  · next v e =>
    simp only [e] at hit
    split
    · next none => simp only [none] at hit; cases hit
    · next sl found =>
      simp only [found] at hit
      obtain ⟨pos, -, at_, key⟩ := findKey_some found
      rcases checkRecord_cases sl.handle v with c | ⟨-, c⟩ | c <;> simp only [c] at hit ⊢
      · cases hit; exact ⟨pos, sl, at_, key, rfl⟩
      · cases hit
      · cases hit

/-! ## A session placed -/

/-- The table t, which holds a session's keys, with the record of its handle and the free list without it. -/
def Tbl.placed (t : Tbl) (h : Nat) (r : Record) (f : List Run) : Tbl := ({ (t.setRecord h r) with free := f }).digestAdd h r.epoch

/-- The keys of a session placed, and what the insert leaves. -/
structure Inserted (seed : Word16) (a b : Key) (h p q : Nat) (t v : Tbl) : Prop where
  keys  : v = (t.putSlot p (slotOf a h .orig)).putSlot q (slotOf b h .reply)
  orig  : p ∈ keyPositions seed a ∧ t.slot p = none
  reply : q ∈ keyPositions seed b ∧ t.slot q = none
  apart : q ≠ p

theorem insertKeys_inserted {t v : Tbl} {seed : Word16} {a b : Key} {h p q : Nat} (e : t.insertKeys seed a b h = some (v, p, q)) :
    Inserted seed a b h p q t v := by
  obtain ⟨first, second, made⟩ := insertKeys_some e
  obtain ⟨pre, post, split, empty, -⟩ := freePosition_some first
  obtain ⟨pre', post', split', empty', -⟩ := freePosition_some second
  obtain ⟨other, empty'⟩ := (slot_putSlot_none t p _ q).1 empty'
  exact ⟨made, ⟨by rw [split]; simp, empty⟩, ⟨by rw [split']; simp, empty'⟩, other⟩

section placed

variable {a b : Key} {h p q : Nat} {seed : Word16} {tb v : Tbl} {r : Record} {f : List Run}

theorem Inserted.slot (i : Inserted seed a b h p q tb v) (x : Nat) :
    v.slot x = if x = q then some (slotOf b h .reply) else if x = p then some (slotOf a h .orig) else tb.slot x := by
  rw [i.keys, slot_putSlot, slot_putSlot]

theorem keyPositions_lt {k : Key} {x : Nat} (mem : x ∈ keyPositions seed k) : x < Config.keySlots := by
  have bucket : bucketOf seed k < 16384 := Nat.mod_lt _ (by decide)
  simp only [keyPositions, List.mem_append, List.mem_map, List.mem_range, Config.stashSlots, Config.bucketSlots] at mem
  rw [Config.keySlots]
  rcases mem with ⟨i, lt, rfl⟩ | ⟨i, lt, rfl⟩ <;> omega

theorem Inserted.reads (i : Inserted seed a b h p q tb v) (law : TableLaw tb) (k : Nat) :
    (v.placed h r f).record k = if k = h then r else tb.record k := by
  have records : v.records = tb.records := by rw [i.keys]; rfl
  have reads := record_setRecord (t := v) (records ▸ law.sorted) h r k
  have same : v.record k = tb.record k := congrArg (fun m => (sparseFind m k).getD Record.fresh) records
  rw [same] at reads
  exact reads

/-- The law of the handles with a session placed: its handle was not LIVE, and leaves the free list if it was there. -/
theorem Inserted.tableLaw (i : Inserted seed a b h p q tb v) (law : TableLaw tb) (lt : h < Config.handles)
    (dead : (tb.record h).handleState ≠ .live) (live : r.handleState = .live) (runs : ∀ x ∈ f, 0 < x.count)
    (list : freeHandles f = (freeHandles tb.free).erase h) : TableLaw (v.placed h r f) := by
  have reads := i.reads (r := r) (f := f) law
  have sorted : sparseSorted (v.placed h r f).records = true := by
    refine putRecord_sorted ?_ h r
    rw [i.keys]
    exact law.sorted
  have now : (v.placed h r f).record h = r := by rw [reads, if_pos rfl]
  have others (k : Nat) (ne : k ≠ h) : (v.placed h r f).record k = tb.record k := by rw [reads, if_neg ne]
  have counted : Counted (v.placed h r f) :=
    Counted.joined ⟨law.count, law.digest⟩ law.sorted sorted h dead (by rw [now]; exact live) others (by rw [i.keys]; rfl)
      (by rw [now, i.keys]; rfl)
  have mem (k : Nat) : k ∈ freeHandles (v.placed h r f).free ↔ k ≠ h ∧ k ∈ freeHandles tb.free := by
    show k ∈ freeHandles f ↔ _
    rw [list, law.nodup.mem_erase_iff]
  constructor
  case sorted => exact sorted
  case runs =>
    refine (runsGood_iff _).2 ⟨runs, fun k hk => ?_⟩
    exact ((runsGood_iff _).1 law.runs).2 k ((mem k).1 hk).2
  case free_iff =>
    intro k ltk
    rw [mem]
    by_cases e : k = h
    · subst e; rw [now, live]; simp
    · rw [others k e, law.free_iff k ltk]; simp [e]
  case used =>
    intro k ge
    rw [others k (by omega)]
    exact law.used k ge
  case nodup =>
    show (freeHandles f).Nodup
    rw [list]
    exact law.nodup.erase h
  case count => exact counted.1
  case digest => exact counted.2

/-- The law of the slots with a session placed: its record names the two slots that hold its keys. -/
theorem Inserted.slotLaw (i : Inserted seed a b h p q tb v) (law : TableLaw tb) (slots : SlotLaw tb)
    (dead : (tb.record h).handleState ≠ .live) (live : r.handleState = .live) (orig : r.slotOrig = p ∧ r.body.origKey = a)
    (reply : r.slotReply = q ∧ r.body.replyKey = b) : SlotLaw (v.placed h r f) := by
  have reads := i.reads (r := r) (f := f) law
  have now : (v.placed h r f).record h = r := by rw [reads, if_pos rfl]
  have others (k : Nat) (ne : k ≠ h) : (v.placed h r f).record k = tb.record k := by rw [reads, if_neg ne]
  have slot : ∀ x, (v.placed h r f).slot x =
      if x = q then some (slotOf b h .reply) else if x = p then some (slotOf a h .orig) else tb.slot x := i.slot
  -- the slots of the other sessions stand: p and q were empty
  have stands (x : Nat) (sl : Slot) (e : tb.slot x = some sl) : (v.placed h r f).slot x = some sl := by
    rw [slot, if_neg, if_neg, e]
    · rintro rfl; rw [i.orig.2] at e; cases e
    · rintro rfl; rw [i.reply.2] at e; cases e
  constructor
  case sorted =>
    show sparseSorted v.slots = true
    rw [i.keys]
    exact sparsePut_sorted (sparsePut_sorted slots.sorted _ _) _ _
  case range =>
    intro pos sl e
    rw [slot] at e
    split at e
    · next c => rw [c]; exact keyPositions_lt i.reply.1
    · split at e
      · next c => rw [c]; exact keyPositions_lt i.orig.1
      · exact slots.range pos sl e
  case names =>
    intro pos sl e
    rw [slot] at e
    split at e
    · next c => cases e; rw [now]; exact ⟨live, c.trans reply.1.symm⟩
    · split at e
      · next c => cases e; rw [now]; exact ⟨live, c.trans orig.1.symm⟩
      · obtain ⟨l, place⟩ := slots.names pos sl e
        rw [others _ fun c => dead (c ▸ l)]
        exact ⟨l, place⟩
  case orig =>
    intro k l
    by_cases e : k = h
    · subst e
      rw [now, orig.1, orig.2, slot, if_neg (Ne.symm i.apart), if_pos rfl]
      exact ⟨_, rfl, rfl, rfl, rfl⟩
    · rw [others k e] at l ⊢
      obtain ⟨sl, at_, rest⟩ := slots.orig k l
      exact ⟨sl, stands _ sl at_, rest⟩
  case reply =>
    intro k l
    by_cases e : k = h
    · subst e
      rw [now, reply.1, reply.2, slot, if_pos rfl]
      exact ⟨_, rfl, rfl, rfl, rfl⟩
    · rw [others k e] at l ⊢
      obtain ⟨sl, at_, rest⟩ := slots.reply k l
      exact ⟨sl, stands _ sl at_, rest⟩

/-- The law of the keys with a session placed whose keys stood nowhere. -/
theorem Inserted.keyLaw (i : Inserted s.cfg.hashSeed a b h p q s.tbl v) (keys : KeyLaw s) (orig : Absent a s.tbl)
    (reply : Absent b s.tbl) (ne : a ≠ b) (slots : t.tbl.slots = v.slots) (seed : t.cfg.hashSeed = s.cfg.hashSeed)
    (role : t.pai.role ≠ .detached) : KeyLaw t := by
  have slot (x : Nat) : t.tbl.slot x =
      if x = q then some (slotOf b h .reply) else if x = p then some (slotOf a h .orig) else s.tbl.slot x :=
    (congrArg (sparseFind · x) slots).trans (i.slot x)
  -- what a slot holds, by its place
  have holds (x : Nat) (sl : Slot) (e : t.tbl.slot x = some sl) :
      (x = q ∧ sl.key = b) ∨ (x = p ∧ sl.key = a) ∨ (s.tbl.slot x = some sl ∧ sl.key ≠ a ∧ sl.key ≠ b) := by
    rw [slot] at e
    split at e
    · next c => cases e; exact .inl ⟨c, rfl⟩
    · split at e
      · next c => cases e; exact .inr (.inl ⟨c, rfl⟩)
      · exact .inr (.inr ⟨e, orig x sl e, reply x sl e⟩)
  refine ⟨fun x sl e => ?_, fun x y sl sl' e e' same => ?_, fun d => absurd d role⟩
  · rw [seed]
    rcases holds x sl e with ⟨rfl, key⟩ | ⟨rfl, key⟩ | ⟨old, -⟩
    · rw [key]; exact i.reply.1
    · rw [key]; exact i.orig.1
    · exact keys.placed x sl old
  · rcases holds x sl e with ⟨rfl, key⟩ | ⟨rfl, key⟩ | ⟨old, na, nb⟩ <;>
      rcases holds y sl' e' with ⟨rfl, key'⟩ | ⟨rfl, key'⟩ | ⟨old', na', nb'⟩
    · rfl
    · exact absurd (key'.symm.trans (same.symm.trans key)) ne
    · exact absurd (same.symm.trans key) nb'
    · exact absurd (key.symm.trans (same.trans key')) ne
    · rfl
    · exact absurd (same.symm.trans key) na'
    · exact absurd (same.trans key') nb
    · exact absurd (same.trans key') na
    · exact keys.once x y sl sl' old old' same

end placed

end Sys2Proof.Machine
end

section
/-! SUPPORT. The laws of the table and of the keys, kept by the fast path, the pairing controller, the shadow receiver and the
patrol. -/

-- One proof at a time: proofs that wait for earlier checks would each take a thread.
set_option Elab.async false

namespace Sys2Proof.Machine

open Sys2Proof.Safety

variable {s t u : State} {bs : List Block}

/-! ## The tracker keeps the keys -/

/-- The body has the keys it had. -/
structure SameKeys (b b' : Body) : Prop where
  orig  : b'.origKey = b.origKey
  reply : b'.replyKey = b.replyKey

theorem SameKeys.refl (b : Body) : SameKeys b b := ⟨rfl, rfl⟩

theorem SameKeys.trans {a b c : Body} (h : SameKeys a b) (k : SameKeys b c) : SameKeys a c :=
  ⟨k.orig.trans h.orig, k.reply.trans h.reply⟩

theorem setDir_keys (b : Body) (d : Dir) (tr : DirTracker) : SameKeys b (b.setDir d tr) := by cases d <;> exact ⟨rfl, rfl⟩

theorem account_keys (b : Body) (d : Dir) (total : Nat) (now : Word32) : SameKeys b (account b d total now) := by
  cases d <;> exact ⟨rfl, rfl⟩

theorem finFromOpen_keys (b : Body) (d : Dir) (g : Segment) : SameKeys b (finFromOpen b d g) := by
  unfold finFromOpen
  split
  · exact SameKeys.trans (b := { b with state := .drainOne, finOrder := some d }) ⟨rfl, rfl⟩ (setDir_keys _ _ _)
  · exact SameKeys.refl b

theorem decideScaling_keys (b : Body) : SameKeys b (decideScaling b) := by
  unfold decideScaling
  split <;> exact ⟨rfl, rfl⟩

theorem transition_keys (b : Body) (d : Dir) (g : Segment) : SameKeys b (transition b d g).1 := by
  unfold transition
  split
  · have scaled := setDir_keys b d (scaleDir (b.dir d) g).1
    cases d
    · exact scaled
    · exact (scaled.trans (decideScaling_keys _)).trans ⟨rfl, rfl⟩
  · simp only
    split
    · exact SameKeys.trans (b := { b with state := .opened }) ⟨rfl, rfl⟩ (finFromOpen_keys _ d g)
    · exact SameKeys.refl b
  · exact finFromOpen_keys b d g
  · simp only
    split
    · exact SameKeys.trans (b := { b with state := .drainBoth }) ⟨rfl, rfl⟩ (setDir_keys _ _ _)
    · exact SameKeys.refl b
  · simp only
    split <;> exact ⟨rfl, rfl⟩
  · exact SameKeys.refl b
  · exact SameKeys.refl b
  · exact SameKeys.refl b

theorem judgeTcp_keys {b b' : Body} {d : Dir} {g : Segment} {tol total : Nat} {now : Word32} {ns : List ErrCode}
    (a : judgeTcp b d g tol total now = .accept b' ns) : SameKeys b b' := by
  have learns (tr : DirTracker) : SameKeys b (account (transition (b.setDir d tr) d g).1 d total now) :=
    ((setDir_keys b d tr).trans (transition_keys _ d g)).trans (account_keys _ d total now)
  unfold judgeTcp at a
  split at a
  · split at a
    · cases a
    · cases a
      exact SameKeys.trans (b := { b with state := .linger }) ⟨rfl, rfl⟩ (account_keys _ d total now)
  · split at a
    · cases a
    · split at a
      · cases a
      · simp only at a
        split at a
        · cases a; exact learns _
        · split at a
          · cases a
          · cases a; exact learns _

/-- An accepted frame leaves the session's keys. -/
theorem judge_keys {b b' : Body} {d : Dir} {f : Frame} {ip tol : Nat} {now : Word32} {ns : List ErrCode}
    (a : judge b d f ip tol now = .accept b' ns) : SameKeys b b' := by
  unfold judge at a
  split at a
  · cases a; exact account_keys b d _ now
  · exact judgeTcp_keys a

theorem writeBack_narrows (h : Nat) {old new : Body} (ns : List ErrCode) (keys : SameKeys (recordOf s h).body new) :
    Narrows s (writeBack h old new ns s) := by
  refine Narrows.unpaired (writeBack_touches h old new ns s) ?_
  have written : Thins s.tbl (setRecord h { recordOf s h with body := new } s).tbl :=
    Thins.setRecord h ⟨rfl, rfl, ⟨rfl, keys.orig⟩, rfl, keys.reply⟩
  have reported := written.trans (Thins.steps (f := fun s c => report c (ErrInfo.ofHandle h) s)
    (fun s c => Thins.apart (report_touches c _ s)) ns _)
  unfold writeBack markAfter
  simp only
  split
  · exact (reported.trans (markDirty_thins _ _ _)).trans (Thins.apart (bump_touches _ _))
  · exact reported

/-! ## The fast path -/

theorem trackHit_narrows (z h : Nat) (d : Dir) (f : Frame) (s : State) : Narrows s (trackHit z h d f s) := by
  unfold trackHit
  simp only
  split
  · next a => exact ((writeBack_narrows h _ (judge_keys a)).trans (handToPort_narrows _ _ _)).trans (bump_narrows _ _)
  · exact Narrows.apart (refuseFrame_touches _ _ _ _ s)
  · exact (removeSession_narrows h _ _ s).trans (handToPort_narrows _ _ _)

theorem fastPath_narrows (f : Frame) (s : State) : Narrows s (fastPath f s) := by
  unfold fastPath
  split
  · exact Narrows.apart (sendException_touches _ _ _ _ s)
  · next k _ =>
    have looked := lookup_narrows k s
    split
    · next e => rw [e] at looked; exact looked.trans (Narrows.apart (sendException_touches _ _ _ _ _))
    · next e =>
      rw [e] at looked
      split
      · exact looked.trans (bump_narrows _ _)
      · exact looked.trans (trackHit_narrows _ _ _ _ _)

/-! ## The pairing controller -/

theorem watchPeer_narrows (before s : State) : Narrows s (watchPeer before s) := Narrows.apart (watchPeer_touches before s)

theorem setPath_narrows (p : PathId) (st : PathState) (s : State) : Narrows s { s with pai := s.pai.setPath p st } := by
  cases p <;> exact Narrows.of_fields

theorem helloOnPath_narrows (p : PathId) (s : State) : Narrows s (helloOnPath p s) := by
  refine Narrows.paired (helloOnPath_touches p s) ?_
  rw [helloOnPath_pai]
  cases p <;> rfl

theorem takeRefresh_narrows (h : Hello) (s : State) : Narrows s (takeRefresh h s) := by
  have mark (v : State) (k : Word16) : Thins v.tbl (markRefresh v k).tbl := by
    unfold markRefresh
    split
    · exact markDirty_thins _ _ v
    · exact Thins.refl _
  refine Narrows.unpaired (takeRefresh_touches h s) ?_
  unfold takeRefresh
  split
  · exact Thins.steps mark _ s
  · exact Thins.refl _

theorem mirrorHello_narrows (r : Role) (h : Hello) (s : State) : Narrows s (mirrorHello r h s) := by
  have opens : Narrows s (openStream h s) := by
    unfold openStream
    simp only
    split
    · exact beginStream_narrows _ s
    · exact (report_narrows _ _ s).trans (beginStream_narrows _ _)
  unfold mirrorHello
  split
  · exact closeStream_narrows r s
  · split
    · exact opens.trans (takeRefresh_narrows h _)
    · exact takeRefresh_narrows h s

theorem latchActive_narrows (h : Hello) (s : State) : Narrows s (latchActive h s) :=
  Narrows.paired (latchActive_touches h s) (latchActive_steady h s).role

/-- No hello takes the part to DETACHED. -/
theorem helloRule_attached {h : Hello} {r q : Role} {c : Cause} (rule : helloRule s h r = some (q, c)) : q ≠ .detached := by
  rintro rfl
  unfold helloRule ruleListen ruleSolo ruleYielding ruleActive ruleDual ruleStandby ruleTakeover at rule
  repeat' split at rule
  all_goals cases rule

theorem governHello_narrows (p : PathId) (h : Hello) (s : State) : Narrows s (governHello p h s) := by
  unfold governHello
  split
  · exact (mirrorHello_narrows _ h s).trans (latchActive_narrows h _)
  · next r c rule =>
    obtain ⟨shown, -, rule⟩ := Option.bind_eq_some_iff.1 rule
    exact (((mirrorHello_narrows r h s).trans (latchActive_narrows h _)).trans (Narrows.apart (reportRule_touches p c _))).trans
      (changeRole_narrows (helloRule_attached rule) c _)

theorem receiveHello_narrows (p : PathId) (bs : List Byte) (s : State) : Narrows s (receiveHello p bs s) := by
  have taken (h : Hello) (v : State) : Narrows v (takeHello p h v) := by
    have on : Narrows v (helloOnPath p (noteHello h v)) :=
      Narrows.trans (t := noteHello h v) Narrows.of_fields (helloOnPath_narrows p _)
    unfold takeHello
    simp only
    split
    · exact ((on.trans Narrows.of_fields).trans (watchPeer_narrows v _)).trans (governHello_narrows p h _)
    · exact on.trans (watchPeer_narrows v _)
  have latched (j : Judgment) : Narrows s (latchJudgment p j s) :=
    Narrows.paired (latchJudgment_touches p j s) (latchJudgment_steady p j s).role
  unfold receiveHello
  simp only
  split
  · exact (latched _).trans (taken _ _)
  · exact latched _

theorem losePeer_narrows (s : State) : Narrows s (losePeer s) := by
  unfold losePeer
  split
  · exact closeStream_narrows _ s
  · next r c rule =>
    have attached : r ≠ .detached := by
      rintro rfl
      unfold lossRule at rule
      split at rule <;> cases rule
    exact (closeStream_narrows r s).trans (changeRole_narrows attached c _)

theorem pathDown_narrows (p : PathId) (s : State) : Narrows s (pathDown p s) := by
  have down (v : State) (n : Narrows s v) :
      Narrows s (watchPeer s (rechoose (raise .path (report .pai4 (ErrInfo.ofPlace (pathPlace p)) v)))) :=
    (((n.trans (report_narrows _ _ v)).trans (raise_narrows _ _)).trans (rechoose_narrows _)).trans (watchPeer_narrows s _)
  unfold pathDown
  simp only
  split
  · exact (down _ (setPath_narrows p _ s)).trans (losePeer_narrows _)
  · exact down _ (setPath_narrows p _ s)

/-! ## The patrol (R161), and what else a tick makes due -/

theorem visitSlot_narrows (pos : Nat) {go : State → State} (h : ∀ v, Narrows v (go v)) (s : State) : Narrows s (visitSlot pos go s) := by
  have checked := checkSlot_narrows pos s
  unfold visitSlot
  split
  · next e => rw [e] at checked; exact checked.trans (h _)
  · next e => rw [e] at checked; exact checked

theorem visitExpiry_narrows (h : Nat) (s : State) : Narrows s (visitExpiry h s) := by
  unfold visitExpiry
  split
  · exact removeSession_narrows h _ _ s
  · exact Narrows.refl s

theorem visitHandle_narrows (s : State) (h : Nat) : Narrows s (visitHandle s h) := by
  have checked := checkRecord_narrows h s
  unfold visitHandle
  split
  · next e =>
    rw [e] at checked
    simp only
    split
    · exact checked.trans (visitSlot_narrows _ (fun v => visitSlot_narrows _ (visitExpiry_narrows h) v) _)
    · exact checked
  · next e => rw [e] at checked; exact checked

theorem patrolStep_narrows (s : State) : Narrows s (patrolStep s) := by
  have visited := Narrows.foldl visitHandle_narrows (patrolHandles s.tim.cursor s.cfg.patrolRate) s
  unfold patrolStep
  simp only
  split
  · exact (visited.trans Narrows.of_fields).trans (bump_narrows _ _)
  · exact visited.trans Narrows.of_fields

theorem event_narrows {f : State → State} (n : Narrows s (f s)) : Narrows s (event f s) :=
  n.trans (Narrows.apart (settle_touches _ _))

theorem whenDue_narrows {due : Bool} {f : State → State} (n : Narrows s (f s)) : Narrows s (whenDue due f s) := by
  unfold whenDue
  split
  · exact n
  · exact Narrows.refl s

theorem atTick_narrows {due : State → Bool} {f : State → State} (n : Narrows s (f s)) : Narrows s (atTick due f s) :=
  event_narrows (whenDue_narrows n)

theorem holdExpired_narrows (s : State) : Narrows s (holdExpired s) := by
  refine Narrows.unpaired (holdExpired_touches s) ?_
  unfold holdExpired
  split
  · exact Thins.refl _
  · next e es _ =>
    rw [report_tbl]
    exact releaseHeld_thins .holdRelTimeout { s with hold := es } e

theorem keepaliveExpired_narrows (s : State) : Narrows s (keepaliveExpired s) :=
  Narrows.trans (t := { s with flt := { s.flt with keepalive := .stopped } }) Narrows.of_fields (raiseFault_narrows _ _ _)

theorem graceExpired_narrows (s : State) : Narrows s (graceExpired s) := by
  unfold graceExpired
  split <;> exact changeRole_narrows (by decide) _ s

theorem setYieldFlag_narrows (s : State) : Narrows s (setYieldFlag s) :=
  Narrows.trans (t := { s with pai := { s.pai with yieldFlag := true, drainTimer := .stopped } }) Narrows.of_fields
    (sendHello_narrows _)

theorem tickEvents_narrow {e : State → State} (mem : e ∈ tickEvents) (s : State) : Narrows s (e s) := by
  simp only [tickEvents, List.mem_cons, List.not_mem_nil, or_false] at mem
  rcases mem with rfl | rfl | rfl | rfl | rfl | rfl | rfl | rfl | rfl | rfl | rfl | rfl | rfl | rfl | rfl
  · exact atTick_narrows (patrolStep_narrows s)
  · exact Narrows.foldl (f := fun t _ => holdEvent t) (fun t _ => atTick_narrows (holdExpired_narrows t)) s.hold s
  · exact atTick_narrows (Narrows.unpaired (closeFrame_touches s) (closeFrame_thins s))
  · exact atTick_narrows (resend_narrows _ _ s)
  · exact atTick_narrows (Narrows.apart (revertExpired_touches s))
  · exact atTick_narrows (Narrows.apart (sendAck_touches _ _ s))
  · exact atTick_narrows (sendHello_narrows s)
  · exact atTick_narrows (pathDown_narrows _ s)
  · exact atTick_narrows (pathDown_narrows _ s)
  · exact atTick_narrows (changeRole_narrows (by decide) _ s)
  · exact atTick_narrows ((report_narrows _ _ s).trans (setYieldFlag_narrows _))
  · exact atTick_narrows (graceExpired_narrows s)
  · exact atTick_narrows (Narrows.apart (nextRound_touches s))
  · exact atTick_narrows (keepaliveExpired_narrows s)
  · exact atTick_narrows (Narrows.apart (holdoffExpired_touches s))

theorem endTick_narrows (s : State) : Narrows s (endTick s) :=
  endTick_induct (R := Narrows) Narrows.refl Narrows.trans (fun _ mem t => tickEvents_narrow mem t) s

theorem tick_narrows (s : State) : Narrows s (tick s) := Narrows.of_fields

theorem referenceCycle_narrows (s : State) : Narrows s (referenceCycle s) := by
  unfold referenceCycle addIncrement
  split
  · simp only
    split
    · exact (endTick_narrows s).trans Narrows.of_fields
    · exact ((endTick_narrows s).trans Narrows.of_fields).trans (tick_narrows _)
  · exact Narrows.refl s

theorem clockTick_narrows (s : State) : Narrows s (clockTick s) := by
  unfold clockTick nextTick
  split
  · exact ((endTick_narrows s).trans Narrows.of_fields).trans (tick_narrows _)
  · exact Narrows.refl s

end Sys2Proof.Machine
end

section
/-! SUPPORT. The laws of the table and of the keys, kept where sessions are placed: the shadow receiver's deltas and INSTALL. -/

-- One proof at a time: proofs that wait for earlier checks would each take a thread.
set_option Elab.async false

namespace Sys2Proof.Machine

open Sys2Proof.Safety

variable {s t u : State} {bs : List Block}

/-! ## Steps that keep the laws -/

/-- From s to t the laws of the table and of the keys are kept. -/
structure Lawful (s t : State) : Prop where
  table : TableLaw s.tbl → TableLaw t.tbl
  slots : TableLaw s.tbl → SlotLaw s.tbl → SlotLaw t.tbl
  keys  : Ordered s → KeyLaw t

theorem Narrows.lawful (n : Narrows s t) : Lawful s t :=
  ⟨n.thins.table, n.thins.slots, fun o => (n.ordered o).keys⟩

theorem Lawful.refl (s : State) : Lawful s s := (Narrows.refl s).lawful

theorem Lawful.ordered (l : Lawful s t) (o : Ordered s) : Ordered t := ⟨l.table o.table, l.slots o.table o.slots, l.keys o⟩

theorem Lawful.trans (a : Lawful s t) (b : Lawful t u) : Lawful s u where
  table := b.table ∘ a.table
  slots law slots := b.slots (a.table law) (a.slots law slots)
  keys o := b.keys (a.ordered o)

/-- A lawful step, and one that only loses sessions. -/
theorem Lawful.narrows (a : Lawful s t) (b : Narrows t u) : Lawful s u := a.trans b.lawful

theorem Narrows.then (a : Narrows s t) (b : Lawful t u) : Lawful s u := a.lawful.trans b

/-- A state whose table is cleared meets the laws. -/
theorem lawful_cleared (e : t.tbl = Tbl.cleared) : Lawful s t :=
  ⟨fun _ => e ▸ tableLaw_cleared, fun _ _ => e ▸ slotLaw_cleared, fun _ => keyLaw_cleared e⟩

/-- From s on the sessions that a step lost, then a session placed whose keys stood nowhere: the laws are kept. -/
theorem lawful_placed {a b : Key} {h p q : Nat} {v : Tbl} {r : Record} {f : List Run} (n : Narrows s t)
    (ins : t.tbl.insertKeys t.cfg.hashSeed a b h = some (v, p, q)) (made : u.tbl = v.placed h r f)
    (lt : TableLaw t.tbl → h < Config.handles) (dead : TableLaw s.tbl → (recordOf t h).handleState ≠ .live)
    (live : r.handleState = .live) (runs : TableLaw t.tbl → ∀ x ∈ f, 0 < x.count)
    (list : TableLaw t.tbl → freeHandles f = (freeHandles t.tbl.free).erase h) (orig : r.slotOrig = p ∧ r.body.origKey = a)
    (reply : r.slotReply = q ∧ r.body.replyKey = b) (absent : Ordered s → Absent a t.tbl ∧ Absent b t.tbl) (ne : a ≠ b)
    (seed : u.cfg.hashSeed = t.cfg.hashSeed) (role : u.pai.role ≠ .detached) : Lawful s u := by
  have i := insertKeys_inserted ins
  have table (law : TableLaw s.tbl) : TableLaw u.tbl := by
    have lawT := n.thins.table law
    rw [made]
    exact i.tableLaw lawT (lt lawT) (dead law) live (runs lawT) (list lawT)
  refine ⟨table, fun law slots => ?_, fun o => ?_⟩
  · rw [made]
    exact i.slotLaw (n.thins.table law) (n.thins.slots law slots) (dead law) live orig reply
  · obtain ⟨noOrig, noReply⟩ := absent o
    exact i.keyLaw (n.ordered o).keys noOrig noReply ne (by rw [made]; rfl) seed role

/-! ## Placements (R47, R110) -/

theorem whileStandby_narrows {f : State → State} (n : Narrows s (f s)) : Narrows s (whileStandby f s) := by
  unfold whileStandby
  split
  · exact n
  · exact Narrows.refl s

theorem leaveRefresh_narrows (h : Nat) (s : State) : Narrows s (leaveRefresh h s) := Narrows.of_fields

/-- A handle whose session is removed is not LIVE. -/
theorem removeSession_dead (sorted : sparseSorted s.tbl.records = true) (h : Nat) (q : RemovalReason) (g : Bool) :
    (recordOf (removeSession h q g s) h).handleState ≠ .live := by
  by_cases live : (recordOf s h).handleState = .live
  · rw [removeSession_live live, settleHandle_record (by rw [(unlinked_keeps h q s).1]; exact sorted), if_pos rfl]
    split <;> nofun
  · unfold removeSession
    simp only
    rw [if_neg live]
    exact live

theorem removeCollision_narrows (h : Nat) (k : Key) (s : State) : Narrows s (removeCollision h k s) := by
  have looked := lookup_narrows k s
  unfold removeCollision
  split
  · next e =>
    rw [e] at looked
    split
    · exact looked
    · exact looked.trans (removeSession_narrows _ _ _ _)
  · next e => rw [e] at looked; exact looked

/-- Behind the collision's removal the key stands nowhere: the handle placed holds no session of its own. -/
theorem removeCollision_absent {h : Nat} {k : Key} (o : Ordered s) (dead : (recordOf s h).handleState ≠ .live) :
    Absent k (removeCollision h k s).tbl := by
  have looked := lookup_narrows k s
  have missed := lookup_absent (k := k) o
  have hit (h' : Nat) (d : Dir) := lookup_hit (s := s) (k := k) (h := h') (d := d)
  unfold removeCollision
  split
  · next v h' d e =>
    rw [e] at looked hit
    have ov := looked.ordered o
    obtain ⟨pos, sl, at_, key, owner⟩ := hit h' d rfl
    split
    · next same =>
      have live := (ov.slots.names pos sl at_).1
      rw [owner, same] at live
      exact absurd (looked.thins.live o.table h live) dead
    · rw [← key, ← owner]
      exact removeSession_absent ov at_ _ _
  · next e => rw [e] at missed; exact missed rfl

theorem placeRecord_lawful {h : Nat} (e : Word16) {w : Whole} (n : Narrows s t) (lt : h < Config.handles)
    (dead : TableLaw s.tbl → (recordOf t h).handleState ≠ .live)
    (absent : Ordered s → Absent w.origKey t.tbl ∧ Absent w.replyKey t.tbl) (ne : w.origKey ≠ w.replyKey)
    (role : t.pai.role ≠ .detached) : Lawful s (placeRecord h e w t) := by
  unfold placeRecord
  split
  · exact ((n.trans (report_narrows _ _ t)).trans (joinRefresh_narrows h _)).lawful
  · next v p q ins =>
    have free : v.free = t.tbl.free := (insertKeys_leaves ins).2
    exact lawful_placed n ins rfl (fun _ => lt) dead rfl
      (fun law => by rw [free]; exact freeTake_runs h ((runsGood_iff _).1 law.runs).1)
      (fun _ => by rw [free]; exact freeHandles_freeTake _ h) ⟨rfl, rfl⟩ ⟨rfl, rfl⟩ absent ne rfl role

/-- A placement keeps the laws: it overwrites the very session, or places a new one where nothing stands in its way. -/
theorem placeDelta_lawful {h : Nat} (e : Word16) {w : Whole} (s : State) (lt : h < Config.handles)
    (ne : w.origKey ≠ w.replyKey) : Lawful s (placeDelta h e w s) := by
  unfold placeDelta
  refine (checkRecord_narrows h s).then ?_
  generalize (checkRecord h s).1 = v
  unfold whileStandby
  split
  swap
  · exact Lawful.refl v
  simp only
  split
  · next same =>
    simp only [sameSession, Bool.and_eq_true, beq_iff_eq] at same
    obtain ⟨⟨-, orig⟩, reply⟩ := same
    have written : Narrows v (setRecord h
        { recordOf v h with body := (recordOf v h).body.withWhole w v.shd.adoptedGen v.tim.seconds } v) :=
      Narrows.unpaired (setRecord_touches h _ v) (Thins.setRecord h ⟨rfl, rfl, ⟨rfl, orig.symm⟩, rfl, reply.symm⟩)
    exact (written.trans (leaveRefresh_narrows h _)).lawful
  · have removed := removeSession_narrows h .stale false v
    have first := removed.trans (removeCollision_narrows h w.origKey _)
    have gone (law : TableLaw v.tbl) := removeSession_dead law.sorted h .stale false
    split
    · next standby =>
      split
      · -- the part is standby behind both lookups: both keys have been looked up
        next standby' =>
        have second := removeCollision_narrows h w.replyKey (removeCollision h w.origKey (removeSession h .stale false v))
        refine placeRecord_lawful e (first.trans second) lt (fun law => ?_) (fun o => ?_) ne ?_
        · exact fun live => gone law ((removeCollision_narrows h w.origKey _).trans second |>.thins.live (removed.thins.table law)
            h live)
        · have o1 := removed.ordered o
          have o2 := first.ordered o
          have noOrig := removeCollision_absent (k := w.origKey) o1 (gone o.table)
          refine ⟨noOrig.narrows second o2, removeCollision_absent o2 fun live => ?_⟩
          exact gone o.table ((removeCollision_narrows h w.origKey _).thins.live o1.table h live)
        · intro d
          rw [d] at standby'
          cases standby'
      · exact (first.trans (removeCollision_narrows h w.replyKey _)).lawful
    · exact first.lawful

/-! ## The other deltas -/

theorem checkNamed_narrows (h : Nat) (e : Word16) (s : State) : Narrows s (checkNamed h e s) := by
  unfold checkNamed
  split
  · exact checkRecord_narrows h s
  · exact Narrows.refl s

theorem updateRecord_narrows (h : Nat) (e : Word16) (i : Image) (s : State) : Narrows s (updateRecord h e i s) := by
  unfold updateRecord
  split
  · exact Narrows.unpaired (setRecord_touches h _ s) (Thins.setRecord h ⟨rfl, rfl, ⟨rfl, rfl⟩, rfl, rfl⟩)
  · exact (bump_narrows _ s).trans (joinRefresh_narrows h _)

theorem removeRecord_narrows (h : Nat) (e : Word16) (s : State) : Narrows s (removeRecord h e s) := by
  unfold removeRecord
  split
  · exact (removeSession_narrows h _ _ s).trans (leaveRefresh_narrows h _)
  · exact (bump_narrows _ s).trans (leaveRefresh_narrows h _)

theorem beginBulk_narrows (n : Word32) (s : State) : Narrows s (beginBulk n s) := by
  have begun : Narrows s (raise .bulk { s with shd := { s.shd with bulkWanted := false, refresh := [], bulkStart := n.toNat } }) :=
    Narrows.of_fields
  unfold beginBulk
  simp only
  split
  · exact begun.trans (changeRole_narrows (by decide) _ _)
  · exact begun

theorem purgeOne_narrows (s : State) (h : Nat) : Narrows s (purgeOne s h) := by
  unfold purgeOne
  refine whileStandby_narrows ((checkRecord_narrows h s).trans (whileStandby_narrows ?_))
  split
  · exact removeSession_narrows h _ _ _
  · exact Narrows.refl _

theorem compareDigest_narrows (k : CompareKind) (g : Word32) (q : Word16) (n m : Word32) (s : State) :
    Narrows s (compareDigest k g q n m s) := by
  unfold compareDigest
  simp only
  split
  · exact Narrows.of_fields
  · refine Narrows.trans ?_ (setBulkWanted_narrows _)
    refine Narrows.trans ?_ (report_narrows _ _ _)
    exact Narrows.of_fields

theorem endBulk_narrows (g : Word32) (q : Word16) (n m : Word32) (s : State) : Narrows s (endBulk g q n m s) := by
  have purged : Narrows s (purge s) := Narrows.foldl purgeOne_narrows s.tbl.liveHandles s
  unfold endBulk
  refine purged.trans (whileStandby_narrows ?_)
  have compared := (compareDigest_narrows .bulkEnd g q n m (purge s)).trans (raise_narrows .bulk _)
  simp only
  split
  · exact compared.trans (changeRole_narrows (by decide) _ _)
  · exact compared

/-! ## A DATA frame -/

/-- A delta names one of the part's handles. -/
theorem readHandle_lt {p : List Byte} {h : Nat} (e : readHandle p = some h) : h < Config.handles := by
  unfold readHandle at e
  split at e
  · next lt => cases e; exact lt
  · cases e

theorem spellDelta_place_lt {p : List Byte} {h : Nat} {e : Word16} {w : Whole} (read : spellDelta p = some (.place h e w)) :
    h < Config.handles := by
  by_cases kind : (byteAt p 0).toNat = 1 ∨ (byteAt p 0).toNat = 5
  · rw [spellDelta_place kind] at read
    obtain ⟨h', named, read⟩ := Option.bind_eq_some_iff.1 read
    obtain ⟨_, -, read⟩ := Option.map_eq_some_iff.1 read
    cases read
    exact readHandle_lt named
  · -- the deltas of no other kind place a record
    unfold spellDelta at read
    split at read <;> simp_all [Option.bind_eq_some_iff, Option.map_eq_some_iff]

theorem readDelta_place_lt {bs rest : List Byte} {h : Nat} {e : Word16} {w : Whole}
    (read : readDelta bs = some (.place h e w, rest)) : h < Config.handles := by
  unfold readDelta at read
  split at read
  · cases read
  · split at read
    · cases read
    · split at read
      · cases read
      · obtain ⟨d, spelt, read⟩ := Option.map_eq_some_iff.1 read
        cases read
        exact spellDelta_place_lt spelt

/-- The keys of a well-formed record are two. -/
theorem wholeFits_keys {zs : Vector Zone 8} {w : Whole} (fit : wholeFits zs w = true) : w.origKey ≠ w.replyKey := by
  simp only [wholeFits, Bool.and_eq_true, bne_iff_ne] at fit
  exact fit.1.1.1.2

theorem applyDelta_lawful {id : FrameId} {first : Bool} {d : Delta} {bs rest : List Byte} (read : readDelta bs = some (d, rest))
    (applied : applyDelta id first d s = some t) : Lawful s t := by
  unfold applyDelta at applied
  split at applied
  · split at applied
    · next fit => cases applied; exact placeDelta_lawful _ s (readDelta_place_lt read) (wholeFits_keys fit)
    · cases applied
  · simp only at applied
    split at applied
    · cases applied
    · cases applied
      exact ((checkNamed_narrows _ _ s).trans (whileStandby_narrows (updateRecord_narrows _ _ _ _))).lawful
  · cases applied
    exact ((checkNamed_narrows _ _ s).trans (whileStandby_narrows (removeRecord_narrows _ _ _))).lawful
  · split at applied
    · cases applied; exact (beginBulk_narrows _ s).lawful
    · cases applied
  · cases applied; exact (endBulk_narrows _ _ _ _ s).lawful
  · cases applied; exact (compareDigest_narrows _ _ _ _ _ s).lawful

theorem malformed_narrows (id : FrameId) (s : State) : Narrows s (malformed id s) :=
  (report_narrows _ _ s).trans (setBulkWanted_narrows _)

theorem applyDeltas_lawful (id : FrameId) (fuel : Nat) (first : Bool) (bs : List Byte) (s : State) :
    Lawful s (applyDeltas id fuel first bs s) := by
  induction fuel generalizing first bs s with
  | zero => exact Lawful.refl s
  | succ fuel ih =>
    cases bs with
    | nil => exact Lawful.refl s
    | cons b bs =>
      unfold applyDeltas
      split
      · exact (malformed_narrows id s).lawful
      · next read =>
        split
        · exact (malformed_narrows id s).lawful
        · next applied =>
          have one := applyDelta_lawful read applied
          split
          · exact one.trans (ih _ _ _)
          · exact one

theorem acceptFrame_lawful (p : PathId) (id : FrameId) (ds : List Byte) (s : State) : Lawful s (acceptFrame p id ds s) := by
  have taken : Narrows s (bump .shdAccept { s with shd := { s.shd with expectedSeq := id.seq + 1#16, ackPath := p } }) :=
    Narrows.of_fields
  unfold acceptFrame
  exact ((taken.then (applyDeltas_lawful id ds.length true ds _)).narrows
    (whileStandby_narrows (Narrows.apart (countAccepted_touches _))))

theorem receiveData_lawful (p : PathId) (bs : List Byte) (s : State) : Lawful s (receiveData p bs s) := by
  have acked (gap : Bool) (v : State) : Narrows v (sendAck p gap v) := Narrows.apart (sendAck_touches p gap v)
  unfold receiveData
  simp only
  split
  · exact (bump_narrows _ s).lawful
  · split
    · split
      · exact Narrows.then (t := adoptGen _ s) Narrows.of_fields (acceptFrame_lawful p _ _ _)
      · exact (bump_narrows _ s).lawful
    · split
      · unfold takeCurrent
        simp only
        split
        · exact acceptFrame_lawful p _ _ s
        · split
          · exact ((bump_narrows _ s).trans (acked _ _)).lawful
          · exact ((bump_narrows _ s).trans (acked _ _)).lawful
      · exact (bump_narrows _ s).lawful

/-! ## The ports -/

theorem mirrorDispatch_lawful (p : PathId) (bs : List Byte) (s : State) : Lawful s (mirrorDispatch p bs s) := by
  unfold mirrorDispatch
  split
  · exact (receiveHello_narrows p bs s).lawful
  · exact receiveData_lawful p bs s
  · exact (receiveAck_narrows _ _ _ s).lawful
  · exact ((bump_narrows _ s).trans (report_narrows _ _ _)).lawful

theorem takeW_lawful (f : Frame) (s : State) : Lawful s (takeW f s) := by
  unfold takeW classedW throughGate
  split
  · exact (handToPort_narrows _ _ s).lawful
  · split
    · exact mirrorDispatch_lawful _ _ s
    · split
      · exact (fastPath_narrows f s).lawful
      · exact (bump_narrows _ s).lawful
    · split
      · exact (handToPort_narrows _ _ s).lawful
      · exact (bump_narrows _ s).lawful
    · exact (handToPort_narrows _ _ s).lawful

theorem takeS_lawful (f : Frame) (s : State) : Lawful s (takeS f s) := by
  unfold takeS
  split
  · exact (bump_narrows _ s).lawful
  · split
    · exact mirrorDispatch_lawful _ _ s
    · exact ((bump_narrows _ s).trans (report_narrows _ _ _)).lawful

/-- A received frame keeps what its consumer keeps (R1). -/
theorem receive_lawful (port : Port) (f : RxFrame) {go : Frame → State → State} (s : State) (h : ∀ g v, Lawful v (go g v)) :
    Lawful s (receive port f go s) := by
  have counted := bump_narrows (rxCounter port) s
  unfold receive
  split
  · simp only
    split
    · exact ((bump_narrows _ s).trans (Narrows.apart (countFcs_touches _))).lawful
    · exact (bump_narrows _ s).lawful
  · split
    · exact (bump_narrows _ s).lawful
    · exact counted.then (h _ _)

theorem event_lawful {f : State → State} (l : Lawful s (f s)) : Lawful s (event f s) :=
  l.narrows (Narrows.apart (settle_touches _ _))

/-! ## INSTALL (R33 to R35) -/

theorem passEnclosed_narrows (i : Install) (h : Nat) (f : Frame) (s : State) : Narrows s (passEnclosed i h f s) := by
  have offered (out : Frame) (v : State) : Narrows v (offerHold i.hold h out v) := Narrows.apart (offerHold_touches _ _ _ v)
  unfold passEnclosed
  simp only
  split
  · exact offered _ s
  · split
    · next a => exact (writeBack_narrows h _ (judge_keys a)).trans (offered _ _)
    · exact Narrows.apart (refuseFrame_touches _ _ _ _ s)
    · exact Narrows.refl s

theorem newBody_keys (s : State) (i : Install) : (newBody s i).1.origKey = i.origKey ∧ (newBody s i).1.replyKey = i.replyKey := by
  unfold newBody
  split
  · have counted := account_keys
      { (installBody s i .new) with dirOrig := (seedNew (segmentOf s ‹Frame›)).1 } .orig
      (ipTotal ‹Frame› (headerOf s ‹Frame›).off) s.tim.seconds
    exact ⟨counted.orig, counted.reply⟩
  · exact ⟨rfl, rfl⟩

/-- Checks 5 and 6 and the effect, behind lookups that have missed both keys. -/
theorem installFree_lawful {i : Install} (n : Narrows s t) (absent : Ordered s → Absent i.origKey t.tbl ∧ Absent i.replyKey t.tbl)
    (ne : i.origKey ≠ i.replyKey) (role : t.pai.role ≠ .detached) : Lawful s (installFree i t).1 := by
  have refused (st : Status) (p : List Byte) : Lawful s (refuseInstall st p t).1 := (n.trans (bump_narrows _ t)).lawful
  unfold installFree
  split
  · exact refused _ _
  · next h head =>
    split
    · exact refused _ _
    · next v p q ins =>
      have free : v.free = t.tbl.free := (insertKeys_leaves ins).2
      have positive (law : TableLaw t.tbl) := ((runsGood_iff _).1 law.runs).1
      have list (law : TableLaw t.tbl) := freeHandles_freePop (positive law) head
      have lt (law : TableLaw t.tbl) : h < Config.handles :=
        ((runsGood_iff _).1 law.runs).2 h (by rw [list law]; exact List.mem_cons_self)
      have placed : Lawful s { t with tbl := v.placed h (installRecord t i h p q) (freePop v.free) } := by
        obtain ⟨orig, reply⟩ := newBody_keys t i
        refine lawful_placed n ins rfl lt (fun law => ?_) rfl (fun law => by rw [free]; exact freePop_runs (positive law))
          (fun law => by rw [free, list law, List.erase_cons_head]) ⟨rfl, orig⟩ ⟨rfl, reply⟩ absent ne rfl role
        have law := n.thins.table law
        have isFree := (law.free_iff h (lt law)).1 (by rw [list law]; exact List.mem_cons_self)
        exact fun live => by cases isFree.symm.trans live
      have made : Lawful s (makeSession i h v p q t) := by
        unfold makeSession
        refine placed.narrows ?_
        refine Narrows.trans ?_ (Narrows.unpaired (markDirty_touches .create h _) (markDirty_thins .create h _))
        refine Narrows.trans ?_ (Narrows.foldl (f := fun s c => report c (ErrInfo.ofHandle h) s)
          (fun s c => report_narrows c _ s) (newBody t i).2 _)
        exact Narrows.of_fields
      simp only
      split
      · exact made
      · exact made.narrows (passEnclosed_narrows i h _ _)

/-- Check 4 for one key: it refuses, or goes on with the key standing nowhere. -/
theorem installUnlessFound_lawful {k : Key} {go : State → State × Answer} (n : Narrows s t)
    (goes : ∀ v, Narrows t v → (Ordered t → Absent k v.tbl) → Lawful s (go v).1) :
    Lawful s (installUnlessFound k go t).1 := by
  have looked := lookup_narrows k t
  unfold installUnlessFound
  simp only
  split
  · exact ((n.trans looked).trans (bump_narrows _ _)).lawful
  · next miss => exact goes _ looked fun o => lookup_absent o miss

theorem install_lawful (i : Install) (s : State) : Lawful s (install i s).1 := by
  unfold install
  split
  · exact (bump_narrows _ s).lawful
  · next active =>
    split
    · exact (bump_narrows _ s).lawful
    · next good =>
      simp only [Bool.and_eq_true, not_not, installGood, bne_iff_ne] at good
      have ne : i.origKey ≠ i.replyKey := by obtain ⟨⟨⟨⟨⟨⟨⟨-, ne⟩, -⟩, -⟩, -⟩, -⟩, -⟩, -⟩ := good; exact ne
      have role : s.pai.role ≠ .detached := fun d => active (by rw [d]; decide)
      refine installUnlessFound_lawful (Narrows.refl s) fun v n noOrig => ?_
      refine installUnlessFound_lawful n fun w n' noReply => ?_
      refine installFree_lawful (n.trans n') (fun o => ?_) ne fun d => role (n.role (n'.role d))
      exact ⟨(noOrig o).narrows n' (n.ordered o), noReply (n.ordered o)⟩

end Sys2Proof.Machine
end

section
/-! SUPPORT. The laws of the table and of the keys over a step: the agent's rows, the resets, every command; and the obligations
about them. -/

-- One proof at a time: proofs that wait for earlier checks would each take a thread.
set_option Elab.async false

namespace Sys2Proof.Machine

open Sys2Proof.Safety

variable {s t : State} {bs : List Block}

/-! ## WRITE (R168, R169) -/

/-- A state with another configuration: the seed stays, or the part is DETACHED and no key stands. -/
theorem lawful_configured (tbl : t.tbl = s.tbl) (role : t.pai.role = s.pai.role)
    (seed : s.pai.role ≠ .detached → t.cfg.hashSeed = s.cfg.hashSeed) : Lawful s t := by
  refine ⟨fun law => tbl ▸ law, fun _ slots => tbl ▸ slots, fun o => ?_⟩
  by_cases detached : s.pai.role = .detached
  · have empty (pos : Nat) : t.tbl.slot pos = none := tbl ▸ o.keys.detached detached pos
    exact ⟨fun pos sl h => (Option.some_ne_none sl (h.symm.trans (empty pos))).elim,
      fun p _ a _ h => (Option.some_ne_none a (h.symm.trans (empty p))).elim, fun _ => empty⟩
  · exact ((Narrows.mk (Thins.of_eq tbl) (seed detached) fun d => role ▸ d).ordered o).keys

/-- Entries that all name the seed in force leave it. -/
theorem applyEntry_seed (o : Object) (l : List (Nat × List Byte)) (s : State)
    (same : o = .config → ∀ e ∈ l, (readConfig e.2).clamped.hashSeed = s.cfg.hashSeed) :
    (l.foldl (applyEntry o) s).cfg.hashSeed = s.cfg.hashSeed := by
  induction l generalizing s with
  | nil => rfl
  | cons e l ih =>
    have first : (applyEntry o s e).cfg.hashSeed = s.cfg.hashSeed := by
      by_cases config : o = .config
      · subst config
        exact same rfl e List.mem_cons_self
      · rw [applyEntry_cfg o config]
    exact (ih _ fun config f mem => (same config f (List.mem_cons_of_mem e mem)).trans first.symm).trans first

/-- Outside DETACHED check 7 lets no entry change the seed (R169). -/
theorem unlocked_seed {es : List (List Byte)} (allowed : ¬ writeLocked .config es s) (attached : s.pai.role ≠ .detached) :
    ∀ p ∈ es, (readConfig p).clamped.hashSeed = s.cfg.hashSeed := by
  intro p mem
  have free : (readConfig p).clamped.withFree s.cfg = s.cfg := by
    simp only [writeLocked, bne_iff_ne.2 attached, Bool.true_and, List.any_eq_true, not_exists, not_and, Bool.or_eq_true, not_or,
      bne_iff_ne, not_not] at allowed
    exact (allowed p mem).2
  change ((readConfig p).clamped.withFree s.cfg).hashSeed = s.cfg.hashSeed
  rw [free]

theorem applyEntries_lawful {o : Object} (is : List Nat) {es : List (List Byte)} (allowed : ¬ writeLocked o es s) :
    Lawful s (applyEntries o is es s) := by
  have touched := applyEntries_touches o is es s
  refine lawful_configured (touched .tbl (by cases o <;> decide)) ?_ fun attached => ?_
  · rw [touched .pai (by cases o <;> decide)]
  · unfold applyEntries
    rw [keepaliveAfterWrite_eq]
    refine applyEntry_seed o _ s fun config e mem => ?_
    subst config
    exact unlocked_seed allowed attached e.2 (List.of_mem_zip mem).2

theorem answerWrite_lawful (r : Request) (s : State) : Lawful s (answerWrite r s).1 := by
  unfold answerWrite
  split
  · exact Lawful.refl s
  · simp only
    split
    · exact Lawful.refl s
    · split
      · exact Lawful.refl s
      · next allowed =>
        split
        · exact Lawful.refl s
        · exact applyEntries_lawful _ allowed

/-! ## The agent's other handlers -/

theorem captureAll_narrows {c : Nat → State → State × List Byte} (h : ∀ i v, Narrows v (c i v).1) (is : List Nat) (s : State) :
    Narrows s (captureAll c is s).1 := by
  induction is generalizing s with
  | nil => exact Narrows.refl s
  | cons i is ih => exact (h i s).trans (ih _)

theorem capture_narrows (o : Object) (i : Nat) (s : State) : Narrows s (capture o i s).1 := by
  cases o with
  | session => exact checkRecord_narrows i s
  | config | zones | timeouts | status | counters | errlog | pairing | clock => exact Narrows.refl s

theorem answerRead_narrows (r : Request) (s : State) : Narrows s (answerRead r s).1 := by
  unfold answerRead
  split
  · exact Narrows.refl s
  · exact captureAll_narrows (capture_narrows _) _ s

theorem answerInstall_lawful (r : Request) (s : State) : Lawful s (answerInstall r s).1 := by
  unfold answerInstall
  split
  · exact install_lawful _ s
  · exact Lawful.refl s

theorem answerFind_narrows (r : Request) (s : State) : Narrows s (answerFind r s).1 := by
  unfold answerFind
  split
  · exact Narrows.refl s
  · exact lookup_narrows _ s

theorem removeByHandle_narrows (p : List Byte) (s : State) : Narrows s (removeByHandle p s).1 := by
  unfold removeByHandle
  simp only
  split
  · exact Narrows.refl s
  · split
    · exact removeSession_narrows _ _ _ s
    · exact Narrows.refl s

theorem removeByKey_narrows (p : List Byte) (s : State) : Narrows s (removeByKey p s).1 := by
  have looked := lookup_narrows (readKey p 4) s
  unfold removeByKey
  simp only
  split
  · exact looked
  · exact looked.trans (removeSession_narrows _ _ _ _)

theorem answerRemove_narrows (r : Request) (s : State) : Narrows s (answerRemove r s).1 := by
  unfold answerRemove
  split
  · exact Narrows.refl s
  · split
    · exact Narrows.refl s
    · split
      · exact removeByHandle_narrows _ s
      · split
        · exact removeByKey_narrows _ s
        · exact Narrows.refl s

/-! ## The CONTROL actions -/

theorem startKeepalive_narrows (s : State) : Narrows s (startKeepalive s) := by
  unfold startKeepalive
  split
  · exact Narrows.refl s
  · exact Narrows.of_fields

theorem clearPairing_narrows (s : State) : Narrows s (clearPairing s) := by
  unfold clearPairing
  simp only
  split
  · exact Narrows.of_fields
  · exact Narrows.of_fields

theorem answerStart_narrows (r : Request) (s : State) : Narrows s (answerStart r s).1 := by
  unfold answerStart
  split
  · exact Narrows.refl s
  · split
    · exact Narrows.refl s
    · exact ((clearPairing_narrows s).trans (startKeepalive_narrows _)).trans (changeRole_narrows (by decide) _ _)

/-- STOP clears the table behind the change to DETACHED. -/
theorem answerStop_lawful (r : Request) (s : State) : Lawful s (answerStop r s).1 := by
  unfold answerStop
  split
  · exact Lawful.refl s
  · exact lawful_cleared rfl

theorem answerTake_narrows (r : Request) (s : State) : Narrows s (answerTake r s).1 := by
  unfold answerTake
  split
  · exact changeRole_narrows (by decide) _ s
  · exact Narrows.refl s

theorem answerYield_narrows (r : Request) (s : State) : Narrows s (answerYield r s).1 := by
  unfold answerYield
  split
  · exact changeRole_narrows (by decide) _ s
  · exact Narrows.refl s

theorem answerResume_narrows (r : Request) (s : State) : Narrows s (answerResume r s).1 := by
  unfold answerResume
  split
  · exact ((clearTable_narrows s).trans (startKeepalive_narrows _)).trans (changeRole_narrows (by decide) _ _)
  · exact Narrows.refl s

theorem answerForceFault_narrows (r : Request) (s : State) : Narrows s (answerForceFault r s).1 := by
  unfold answerForceFault
  split
  · exact Narrows.refl s
  · exact raiseFault_narrows _ _ s

theorem answerClearStatus_narrows (r : Request) (s : State) : Narrows s (answerClearStatus r s).1 := by
  unfold answerClearStatus
  split
  · exact Narrows.refl s
  · exact Narrows.of_fields

theorem control_lawful {act : Handler} (l : ∀ r v, Lawful v (act r v).1) (r : Request) (s : State) :
    Lawful s (control act r s).1 := by
  unfold control
  split
  · exact l r s
  · exact Lawful.refl s

/-! ## Requests (R163, R164) -/

theorem serve_lawful {hd : Handler} (l : ∀ r v, Lawful v (hd r v).1) (r : Request) (rest : List Frame) (s : State) :
    Lawful s (serve hd r rest s) :=
  (Narrows.then (t := dequeue rest s) Narrows.of_fields (l r _)).narrows
    (((Narrows.apart (settle_touches _ _)).trans (Narrows.apart (respond_touches r _ _))).trans (Narrows.apart (settle_touches _ _)))

theorem takeRequest_lawful (row : Row) {hd : Handler} (l : ∀ r v, Lawful v (hd r v).1) (s : State) :
    Lawful s (takeRequest row hd s) := by
  unfold takeRequest
  split
  · exact Lawful.refl s
  · split
    · exact serve_lawful l _ _ s
    · exact Lawful.refl s

theorem clockHalt_lawful (s : State) : Lawful s (clockHalt s) := by
  have halts (v : State) : Lawful v (takeRequest .clockHalt (control answerClockHalt) v) :=
    takeRequest_lawful _ (control_lawful fun _ _ => (Narrows.of_fields).lawful) v
  unfold clockHalt
  split
  · exact (endTick_narrows s).then (halts _)
  · exact halts s

/-! ## Resets (R3) -/

theorem softReset_tbl (s : State) : (softReset s).tbl = Tbl.cleared := sendNotice_touches _ .tbl (by decide)

theorem takeSoftReset_lawful (s : State) : Lawful s (takeSoftReset s) := by
  unfold takeSoftReset
  split
  · exact Lawful.refl s
  · simp only
    split
    · split
      · exact lawful_cleared ((respond_touches _ _ _ .tbl (by decide)).trans (softReset_tbl s))
      · exact serve_lawful (fun _ v => Lawful.refl v) _ _ s
    · exact Lawful.refl s

/-! ## The step -/

/-- A command with none of the laws' blocks among its own. -/
theorem exec_apart {c : Instr} (h : exec c s = .next t) (tbl : Block.tbl ∉ blocksOf c := by decide)
    (pai : Block.pai ∉ blocksOf c := by decide) (cfg : Block.cfg ∉ blocksOf c := by decide) : Lawful s t := by
  obtain ⟨u, e, touched⟩ := exec_touches c s
  cases h.symm.trans e
  exact (Narrows.apart touched tbl pai cfg).lawful

/-- Every command keeps the laws of the table and of the keys. -/
theorem exec_lawful (c : Instr) (h : exec c s = .next t) : Lawful s t := by
  have acts {u : State} (e : exec c s = .next u) (l : Lawful s u) : Lawful s t := by cases h.symm.trans e; exact l
  have row (k : Row) {hd : Handler} (e : exec c s = .next (takeRequest k hd s)) (l : ∀ r v, Lawful v (hd r v).1) : Lawful s t :=
    acts e (takeRequest_lawful k l s)
  have action (k : Row) {act : Handler} (e : exec c s = .next (takeRequest k (control act) s)) (l : ∀ r v, Narrows v (act r v).1) :
      Lawful s t := row k e (control_lawful fun r v => (l r v).lawful)
  have due {f : State → State} (e : exec c s = .next (f s)) (mem : f ∈ tickEvents) : Lawful s t :=
    acts e (tickEvents_narrow mem s).lawful
  cases c with
  | powerOn => exact acts rfl (lawful_cleared rfl)
  | pinReset => exact acts rfl (lawful_cleared (sendNotice_touches _ .tbl (by decide)))
  | softReset => exact acts rfl (takeSoftReset_lawful s)
  | wPortFrameReceive f => exact acts rfl (event_lawful (receive_lawful .w f s takeW_lawful))
  | sPortFrameReceive f => exact acts rfl (event_lawful (receive_lawful .s f s takeS_lawful))
  | clockTick => exact acts rfl (clockTick_narrows s).lawful
  | patrolStep => exact due (f := patrolEvent) rfl (by simp [tickEvents])
  | holdTimeout => exact acts rfl (atTick_narrows (holdExpired_narrows s)).lawful
  | coalesceTimerExpiry => exact due (f := coalesceEvent) rfl (by simp [tickEvents])
  | replayTimerExpiry => exact due (f := replayEvent) rfl (by simp [tickEvents])
  | helloTimerExpiry => exact due (f := helloEvent) rfl (by simp [tickEvents])
  | deadTimerExpiry p => exact acts rfl (atTick_narrows (pathDown_narrows p s)).lawful
  | listenTimerExpiry => exact due (f := listenEvent) rfl (by simp [tickEvents])
  | drainTimerExpiry => exact due (f := drainEvent) rfl (by simp [tickEvents])
  | graceTimerExpiry => exact due (f := graceEvent) rfl (by simp [tickEvents])
  | keepaliveTimerExpiry => exact due (f := keepaliveEvent) rfl (by simp [tickEvents])
  | drained => exact acts rfl (event_narrows (whenDue_narrows (setYieldFlag_narrows s))).lawful
  | deltaBuild => exact acts rfl (event_narrows (Narrows.unpaired (buildDelta_touches s) (buildDelta_thins s))).lawful
  | read => exact row .read rfl fun r v => (answerRead_narrows r v).lawful
  | writeConfig => exact row .writeConfig rfl answerWrite_lawful
  | install => exact row .install rfl answerInstall_lawful
  | find => exact row .find rfl fun r v => (answerFind_narrows r v).lawful
  | remove => exact row .remove rfl fun r v => (answerRemove_narrows r v).lawful
  | start => exact action .start rfl answerStart_narrows
  | stop => exact row .stop rfl (control_lawful answerStop_lawful)
  | take => exact action .take rfl answerTake_narrows
  | yield => exact action .yield rfl answerYield_narrows
  | resume => exact action .resume rfl answerResume_narrows
  | forceFault => exact action .forceFault rfl answerForceFault_narrows
  | clearStatus => exact action .clearStatus rfl answerClearStatus_narrows
  | clockHalt => exact acts rfl (clockHalt_lawful s)
  | pPortFrameReceive f => exact acts rfl (Narrows.apart (pPortFrame_touches f s)).lawful
  | frameTransmitComplete port => exact acts rfl (Narrows.apart (transmitted_touches port s)).lawful
  | revertTimerExpiry | ackTimerExpiry | announceSpacingExpiry
  | noticeHoldoffExpiry | readCountersClear | write | writeZones | writeTimeouts | writeStatus | writeClock | keepalive
  | resumePath | clearErrors | clockRun | clockSet | runtRequest | undefinedCommand => exact exec_apart h

theorem step_lawful (h : step s = .next t) : Lawful s t := by
  unfold step at h
  split at h
  · cases h
    exact (referenceCycle_narrows s).lawful
  · next c rest _ => exact Narrows.then (t := { s with pending := rest }) Narrows.of_fields (exec_lawful c h)

end Sys2Proof.Machine

namespace Sys2Proof.Proofs

open Sys2Proof.Machine Sys2Proof.Safety

/-- Settles O5: each operation only loses sessions, places one on a FREE handle, or clears the table (`exec_lawful`). -/
theorem stepKeepsTableLaw : Obligations.StepKeepsTableLaw :=
  fun _ _ law next => (step_lawful next).table law

/-- Settles O6: by the same walk; a key is placed only where a lookup has missed it. -/
theorem stepKeepsSlotLaw : Obligations.StepKeepsSlotLaw := by
  intro s t law slots next
  have kept := step_lawful next
  exact ⟨kept.slots law slots, fun keys => kept.keys ⟨law, slots, keys⟩⟩

end Sys2Proof.Proofs
end

section
/-! SUPPORT. The session commands (R33 to R35, R40, R41): the answer of FIND, REMOVE and INSTALL by the first check that fails, the
session that an INSTALL makes; and the obligations about them. -/

-- One proof at a time: proofs that wait for earlier checks would each take a thread.
set_option Elab.async false

namespace Sys2Proof.Machine

open Sys2Proof.Safety

variable {s : State} {r : Request} {rest : List Frame} {i : Install}

/-! ## FIND (R41) -/

theorem find_row (w : Waiting s r rest) (command : r.command = 4) : r.row = .find :=
  (waiting_row w).trans (by simp only [command])

theorem answerFind_misfit (length : r.length ≠ 16) (s : State) : answerFind r s = (s, Answer.only .badLength) := if_pos length

theorem answerFind_hit (length : r.length = 16) {h : Nat} {d : Dir} (finds : Finds s (readKey r.payload 0) h d) :
    answerFind r s = (s, { status := .ok, payload := findPayload h d (recordOf s h) }) := by
  unfold answerFind
  rw [if_neg (not_not.2 length), lookup_finds finds]

theorem answerFind_miss (length : r.length = 16) (misses : Misses s (readKey r.payload 0)) :
    answerFind r s = (s, { status := .ok, payload := findMiss }) := by
  unfold answerFind
  rw [if_neg (not_not.2 length), lookup_misses misses]

/-! ## REMOVE (R40) -/

theorem remove_row (w : Waiting s r rest) (command : r.command = 5) : r.row = .remove :=
  (waiting_row w).trans (by simp only [command])

theorem liveAs_iff (s : State) (h : Nat) (e : Word16) :
    liveAs s h e = true ↔ (recordOf s h).handleState = .live ∧ (recordOf s h).epoch = e := by
  unfold liveAs
  rw [Bool.and_eq_true, beq_iff_eq, beq_iff_eq]

/-- A REMOVE of the right length in an active role, by its form selector. -/
theorem answerRemove_form (length : r.length = 20) (active : s.pai.role.isActive = true) : answerRemove r s =
    if byteAt r.payload 0 = 1#8 then removeByHandle r.payload s
    else if byteAt r.payload 0 = 2#8 then removeByKey r.payload s
    else (s, Answer.only .badRecord) := by
  unfold answerRemove
  rw [if_neg (not_not.2 length), if_neg (not_not.2 active)]

section forms

variable {p : List Byte}

theorem removeByHandle_above (above : 32768 ≤ (word16At p 2).toNat) (s : State) :
    removeByHandle p s = (s, Answer.only .badIndex) := if_pos above

theorem removeByHandle_stale (within : (word16At p 2).toNat < 32768) (other : liveAs s (word16At p 2).toNat (word16At p 4) = false) :
    removeByHandle p s = (s, {
      status := .stale
      payload := nat16 (word16At p 2).toNat ++ bytes16 (recordOf s (word16At p 2).toNat).epoch ++
        [nat8 (recordOf s (word16At p 2).toNat).handleState.code] }) := by
  unfold removeByHandle
  simp only
  rw [if_neg (show ¬ Config.handles ≤ _ from Nat.not_le.2 within), other]
  rfl

theorem removeByHandle_live (within : (word16At p 2).toNat < 32768) (named : liveAs s (word16At p 2).toNat (word16At p 4) = true) :
    removeByHandle p s = (removeSession (word16At p 2).toNat .management false s,
      { status := .ok, payload := sessionPayload (word16At p 2).toNat (word16At p 4) none }) := by
  unfold removeByHandle
  simp only
  rw [if_neg (show ¬ Config.handles ≤ _ from Nat.not_le.2 within), if_pos named]

theorem removeByKey_hit {h : Nat} {d : Dir} (finds : Finds s (readKey p 4) h d) : removeByKey p s =
    (removeSession h .management false s, { status := .ok, payload := sessionPayload h (recordOf s h).epoch (some d) }) := by
  unfold removeByKey
  rw [lookup_finds finds]

theorem removeByKey_miss (misses : Misses s (readKey p 4)) : removeByKey p s =
    (s, { status := .stale, payload := stalePayload 0xFFFF Config.staleMissEpoch Config.staleMissState }) := by
  unfold removeByKey
  rw [lookup_misses misses]

end forms

/-! ## The checks of INSTALL (R33, R34) -/

theorem install_row (w : Waiting s r rest) (command : r.command = 3) : r.row = .install :=
  (waiting_row w).trans (by simp only [command])

theorem install_outside (role : s.pai.role.isActive = false) : install i s = refuseInstall .notActive noSession s := by
  unfold install
  rw [if_pos (by rw [role]; decide)]

theorem install_badRecord (role : s.pai.role.isActive = true) (bad : (installGood s.zones i && enclosedGood s i) = false) :
    install i s = refuseInstall .badRecord noSession s := by
  unfold install
  rw [if_neg (not_not.2 role), if_pos (by rw [bad]; decide)]

/-- Checks 1 to 3 passed: check 4 is made for each key. -/
theorem install_checked (role : s.pai.role.isActive = true) (good : installGood s.zones i = true)
    (enclosed : enclosedGood s i = true) :
    install i s = installUnlessFound i.origKey (installUnlessFound i.replyKey (installFree i)) s := by
  unfold install
  rw [if_neg (not_not.2 role), if_neg (by rw [good, enclosed]; decide)]

theorem installUnlessFound_hit {k : Key} {h : Nat} {d : Dir} (finds : Finds s k h d) (go : State → State × Answer) :
    installUnlessFound k go s = refuseInstall .duplicate (sessionPayload h (recordOf s h).epoch (some d)) s := by
  unfold installUnlessFound
  rw [lookup_finds finds]

theorem installUnlessFound_miss {k : Key} (misses : Misses s k) (go : State → State × Answer) :
    installUnlessFound k go s = go s := by
  unfold installUnlessFound
  rw [lookup_misses misses]

/-- Checks 1 to 4 passed: a handle and the two places are wanted. -/
theorem install_unknown (role : s.pai.role.isActive = true) (good : installGood s.zones i = true)
    (enclosed : enclosedGood s i = true) (noOrig : Misses s i.origKey) (noReply : Misses s i.replyKey) :
    install i s = installFree i s := by
  rw [install_checked role good enclosed, installUnlessFound_miss noOrig, installUnlessFound_miss noReply]

theorem installFree_tableFull (empty : freeHead s.tbl.free = none) : installFree i s = refuseInstall .tableFull noSession s := by
  unfold installFree
  rw [empty]

theorem installFree_bucketFull {h : Nat} (head : freeHead s.tbl.free = some h)
    (full : s.tbl.insertKeys s.cfg.hashSeed i.origKey i.replyKey h = none) :
    installFree i s = refuseInstall .bucketFull noSession s := by
  unfold installFree
  simp only [head, full]

section free

variable {h p q : Nat} {t : Tbl} (head : freeHead s.tbl.free = some h)
  (ins : s.tbl.insertKeys s.cfg.hashSeed i.origKey i.replyKey h = some (t, p, q))

include head ins

theorem installFree_bare (none : i.frame = .none) : installFree i s =
    (makeSession i h t p q s, { status := .ok, payload := sessionPayload h ((recordOf s h).epoch + 1#16) .none }) := by
  unfold installFree
  simp only [head, ins, none]

theorem installFree_enclosing {f : Frame} (some : i.frame = .some f) : installFree i s =
    (passEnclosed i h f (makeSession i h t p q s),
      { status := .ok, payload := sessionPayload h ((recordOf s h).epoch + 1#16) none }) := by
  unfold installFree
  simp only [head, ins, some]

end free

/-! ## The session made (R35, R55, R87) -/

/-- CREATE is marked on a handle with nothing pending: the record is written once with its mark. -/
theorem markDirty_written {x : Record} (listed : x.handleState ≠ .free) (idle : x.pending = .none) (h : Nat) (s : State) :
    markDirty .create h (setRecord h x s) =
      { setRecord h { x with pending := if s.mir.stream = .closed then .none else .create } s with
        mir := { s.mir with dirty := if s.mir.stream = .closed then s.mir.dirty else s.mir.dirty ++ [h] } } := by
  have fresh (y : Record) (e : y.handleState = x.handleState) : y ≠ Record.fresh := fun f => listed (by rw [← e, f]; rfl)
  have reads : recordOf (setRecord h x s) h = x := by
    simp only [recordOf, setRecord, Tbl.record, Tbl.setRecord, putRecord, if_neg (fresh x rfl), sparseFind_put, if_true]
    rfl
  unfold markDirty
  by_cases closed : s.mir.stream = .closed
  · rw [if_pos closed, if_pos (show (setRecord h x s).mir.stream = .closed from closed), if_pos closed]
    rw [show ({ x with pending := .none } : Record) = x by rw [← idle]]
    rfl
  · rw [if_neg closed, if_neg (show (setRecord h x s).mir.stream ≠ .closed from closed), if_neg closed, reads, idle]
    simp only [setPending, reads]
    rw [setRecord_twice (fresh x rfl) (fresh { x with pending := .create } rfl)]
    rfl

theorem report_markDirty (c : ErrCode) (e : ErrInfo) (h : Nat) (s : State) :
    markDirty .create h (report c e s) = report c e (markDirty .create h s) := by
  unfold markDirty
  by_cases closed : s.mir.stream = .closed
  · rw [if_pos closed, if_pos (show (report c e s).mir.stream = .closed from closed)]
  · rw [if_neg closed, if_neg (show (report c e s).mir.stream ≠ .closed from closed)]
    rw [show recordOf (report c e s) h = recordOf s h from rfl]
    cases (recordOf s h).pending <;> rfl

theorem reports_markDirty (cs : List ErrCode) (e : ErrInfo) (h : Nat) (s : State) :
    markDirty .create h (cs.foldl (fun u c => report c e u) s) = cs.foldl (fun u c => report c e u) (markDirty .create h s) := by
  induction cs generalizing s with
  | nil => rfl
  | cons c cs ih => rw [List.foldl_cons, List.foldl_cons, ih, report_markDirty]

/-- A session made: its record stands with its CREATE marked, and the errors that its options log are filed. -/
theorem makeSession_eq {h p q : Nat} {t : Tbl} (ins : s.tbl.insertKeys s.cfg.hashSeed i.origKey i.replyKey h = some (t, p, q)) :
    makeSession i h t p q s =
      (newBody s i).2.foldl (fun u c => report c (ErrInfo.ofHandle h) u) (sessionMade h p q t (newBody s i).1 s) := by
  have made : markDirty .create h (bump .installOk (bumpBy .stashInsert (stashCount p q)
      { s with tbl := t.placed h (installRecord s i h p q) (freePop t.free) })) = sessionMade h p q t (newBody s i).1 s := by
    have written := markDirty_written (x := installRecord s i h p q) (fun f => by cases f) rfl h (bump .installOk
      (bumpBy .stashInsert (stashCount p q) { s with tbl := { t with
        free := freePop t.free, liveCount := t.liveCount + 1
        digestSum := t.digestSum + digestTerm h (installRecord s i h p q).epoch } }))
    refine Eq.trans written ?_
    have leaves : t = { s.tbl with slots := t.slots } := by rw [(insertKeys_inserted ins).keys]; rfl
    rw [leaves]
    rfl
  unfold makeSession
  rw [reports_markDirty]
  exact congrArg (fun v => (newBody s i).2.foldl (fun u c => report c (ErrInfo.ofHandle h) u) v) made

theorem synFrame_empty (none : i.frame = .none) (s : State) : synFrame s i = .none := by
  unfold synFrame
  rw [none]
  split <;> rfl

/-- The session of an INSTALL without an enclosed SYN: the body is as given, and no error is filed. -/
theorem newBody_plain (noSyn : synFrame s i = none) : newBody s i = (installedBody i s, []) := by
  unfold newBody
  rw [noSyn]
  rfl

end Sys2Proof.Machine

namespace Sys2Proof.Proofs

open Sys2Proof.Machine Sys2Proof.Safety

/-- Settles O26: FIND's answer by its length and by what the lookup gives. -/
theorem findAnswersWithTheRecord : Obligations.FindAnswersWithTheRecord := by
  intro s r rest waits command
  have replied {a : Answer} {u : State} (e : answerFind r (dequeue rest s) = (u, a)) : ∃ t, exec .find s = .next t ∧ Replied r a u t :=
    ⟨_, rfl, taken_replied waits (find_row waits command) _ e⟩
  refine ⟨fun length => replied (answerFind_misfit length _), fun length h d finds => ?_, fun length misses => ?_⟩
  · exact replied (answerFind_hit (s := dequeue rest s) length finds)
  · exact replied (answerFind_miss (s := dequeue rest s) length misses)

/-- Settles O28: REMOVE's answer by the checks in their order; the removal itself is `removeSession_removed`. -/
theorem removeByHandleAndEpoch : Obligations.RemoveByHandleAndEpoch := by
  intro s r rest waits command s0 answered removes
  have replied {a : Answer} {u : State} (e : answerRemove r s0 = (u, a)) : ∃ t, exec .remove s = .next t ∧ Replied r a u t :=
    ⟨_, rfl, taken_replied waits (remove_row waits command) _ e⟩
  have removed {h : Nat} {d : Nat} (records : sparseSorted s.tbl.records = true) (slots : sparseSorted s.tbl.slots = true)
      (live : (recordOf s h).handleState = .live) (e : answerRemove r s0 = (removeSession h .management false s0,
        { status := .ok, payload := nat16 h ++ bytes16 (recordOf s h).epoch ++ [nat8 d, 0#8, 0#8, 0#8] })) : removes h d := by
    obtain ⟨t, next, reply⟩ := replied e
    exact ⟨_, t, next, removeSession_removed (s := s0) records slots live .management false, reply⟩
  refine ⟨fun length => replied (if_pos length), fun length role => ?_, fun length role => ⟨fun not1 not2 => ?_, fun first => ?_,
    fun second => ?_⟩⟩
  · exact replied ((if_neg (not_not.2 length)).trans (if_pos (by rw [show s0.pai.role.isActive = false from role]; decide)))
  · exact replied ((answerRemove_form (s := s0) length role).trans ((if_neg not1).trans (if_neg not2)))
  · have form : answerRemove r s0 = removeByHandle r.payload s0 := (answerRemove_form (s := s0) length role).trans (if_pos first)
    intro h named
    have iff := liveAs_iff s0 h (word16At r.payload 4)
    refine ⟨fun above => ?_, fun within other => ?_, fun within this records slots => ?_⟩
    · exact replied (form.trans (removeByHandle_above above s0))
    · exact replied (form.trans (removeByHandle_stale within (Bool.eq_false_iff.2 (mt iff.1 other))))
    · refine removed records slots this.1 (form.trans ((removeByHandle_live within (iff.2 this)).trans ?_))
      rw [this.2]
      rfl
  · have form : answerRemove r s0 = removeByKey r.payload s0 :=
      (answerRemove_form (s := s0) length role).trans ((if_neg (by rw [second]; decide)).trans (if_pos second))
    intro k
    refine ⟨fun h d finds live records slots => ?_, fun misses => ⟨Config.staleMissEpoch, Config.staleMissState, ?_⟩⟩
    · exact removed records slots live (form.trans (removeByKey_hit (s := s0) finds))
    · exact replied (form.trans (removeByKey_miss (s := s0) misses))

/-- Settles O25: INSTALL's refusals by the checks in their order. -/
theorem installIsRefusedByTheFirstCheck : Obligations.InstallIsRefusedByTheFirstCheck := by
  intro s r rest waits command i refused nothing
  have replied {a : Answer} {u : State} (e : answerInstall r (dequeue rest s) = (u, a)) :
      ∃ t, exec .install s = .next t ∧ Replied r a u t := ⟨_, rfl, taken_replied waits (install_row waits command) _ e⟩
  refine ⟨fun length => replied (if_neg (by rw [length]; decide)), fun length => ?_⟩
  have checked {st : Status} {p : List Byte} (e : install i (dequeue rest s) = refuseInstall st p (dequeue rest s)) : refused st p :=
    replied ((if_pos length).trans e)
  refine ⟨fun role => ?_, fun role bad => ?_, fun role good enclosed => ⟨fun h d found => ?_, fun noOrig noReply => ?_⟩⟩
  · exact checked (install_outside (s := dequeue rest s) role)
  · refine checked (install_badRecord (s := dequeue rest s) role ?_)
    rcases bad with bad | bad
    · exact Bool.and_eq_false_iff.2 (.inl bad)
    · exact Bool.and_eq_false_iff.2 (.inr bad)
  · refine checked ((install_checked (s := dequeue rest s) role good enclosed).trans ?_)
    rcases found with finds | ⟨misses, finds⟩
    · exact installUnlessFound_hit (s := dequeue rest s) finds _
    · rw [installUnlessFound_miss (s := dequeue rest s) misses]
      exact installUnlessFound_hit (s := dequeue rest s) finds _
  · have unknown := install_unknown (s := dequeue rest s) role good enclosed noOrig noReply
    exact ⟨fun empty => checked (unknown.trans (installFree_tableFull (s := dequeue rest s) empty)),
      fun h head full => checked (unknown.trans (installFree_bucketFull (s := dequeue rest s) head full))⟩

/-- Settles O24: the checks passed, the session is `sessionMade` with the body as given. -/
theorem installMakesASession : Obligations.InstallMakesASession := by
  intro s r rest h p q t waits command length empty i role good noOrig noReply head ins
  have fits : installLengthGood r = true := by
    unfold installLengthGood
    rw [length, empty]
    decide
  have none : i.frame = .none := if_pos empty
  have enclosed : enclosedGood (dequeue rest s) i = true := by
    unfold enclosedGood
    rw [none]
  have answer : answerInstall r (dequeue rest s) = (sessionMade h p q t (installedBody i s) (dequeue rest s),
      { status := .ok, payload := nat16 h ++ bytes16 ((recordOf s h).epoch + 1#16) ++ [0#8, 0#8, 0#8, 0#8] }) := by
    refine ((if_pos fits).trans (install_unknown (s := dequeue rest s) role good enclosed noOrig noReply)).trans ?_
    rw [installFree_bare (s := dequeue rest s) head ins none, makeSession_eq (s := dequeue rest s) ins, newBody_plain (synFrame_empty none _)]
    rfl
  exact ⟨_, rfl, taken_replied waits (install_row waits command) _ answer⟩

end Sys2Proof.Proofs
end

section
/-! SUPPORT. STOP, TAKE, YIELD and RESUME (R131, R134, R136, R138): the answer in a command's own roles and out of them; and the
obligation about them. -/

-- One proof at a time: proofs that wait for earlier checks would each take a thread.
set_option Elab.async false

namespace Sys2Proof.Machine

open Sys2Proof.Safety

/-- A role change from a role that is known. -/
theorem changeRole_from {from_ : Role} {v : State} (role : v.pai.role = from_) (to_ : Role) (cause : Cause) :
    RoleChanged from_ to_ cause v (changeRole to_ cause v) := role ▸ changeRole_changed to_ cause v

/-- YIELD may be taken: an ACTIVE part with a path UP shows a peer in STANDBY_READY (R134). -/
theorem mayYield_iff (s : State) : mayYield s = true ↔ s.pai.role = .active ∧
    (s.pai.primary.up = true ∨ s.pai.secondary.up = true) ∧
      ∃ pr, s.pai.peer = some pr ∧ pr.hello.shownRole = some .standbyReady := by
  unfold mayYield
  rw [Bool.and_eq_true, Bool.and_eq_true, beq_iff_eq, beq_iff_eq, peerUsable_iff, peerRole, and_assoc, Option.bind_eq_some_iff]
  constructor
  · rintro ⟨role, ⟨up, -⟩, shown⟩
    exact ⟨role, up, shown⟩
  · rintro ⟨role, up, pr, peer, shown⟩
    exact ⟨role, ⟨up, pr, .standbyReady, peer, shown, nofun⟩, pr, peer, shown⟩

end Sys2Proof.Machine

namespace Sys2Proof.Proofs

open Sys2Proof.Machine Sys2Proof.Safety

/-- Settles O51: a command in its own role is one role change, STOP with the clearing behind it and RESUME with it before. -/
theorem roleCommandsChangeTheRole : Obligations.RoleCommandsChangeTheRole := by
  intro s r rest s0 cleared refused
  refine ⟨fun stop => ⟨fun detached => ?_, fun attached => ?_⟩, fun take => ⟨fun ready => ?_, fun other => ?_⟩,
    fun yield => ⟨fun may => ?_, fun other => ?_⟩, fun resume => ⟨fun faulted => ?_, fun other => ?_⟩⟩
  · exact ⟨_, rfl, commanded_replied stop rfl answerStop (if_pos detached)⟩
  · exact ⟨_, _, rfl, changeRole_changed .detached .stop s0, commanded_replied stop rfl answerStop (if_neg attached)⟩
  · exact ⟨_, _, rfl, changeRole_from (v := s0) ready .takeover .take, commanded_replied take rfl answerTake (if_pos ready)⟩
  · exact ⟨_, rfl, commanded_replied take rfl answerTake (if_neg other)⟩
  · exact ⟨_, _, rfl, changeRole_from (v := s0) may.1 .yielding .yield,
      commanded_replied yield rfl answerYield (if_pos ((mayYield_iff s0).2 may))⟩
  · exact ⟨_, rfl, commanded_replied yield rfl answerYield (if_neg (mt (mayYield_iff s0).1 other))⟩
  · refine ⟨_, _, rfl, changeRole_from ?_ .listen .resume, commanded_replied resume rfl answerResume ((if_pos faulted).trans ?_)⟩
    · exact faulted
    · rw [startKeepalive_eq]
      rfl
  · exact ⟨_, rfl, commanded_replied resume rfl answerResume (if_neg other)⟩

end Sys2Proof.Proofs
end

section
/-! SUPPORT. What a parity failure leaves: a damaged record of a LIVE session, a damaged anchor or slot that clears the table
(R45, R46); the refresh list (R117). UPDATE and REMOVE deltas (R111, R112); and the obligation about them. -/

-- One proof at a time: proofs that wait for earlier checks would each take a thread.
set_option Elab.async false

namespace Sys2Proof.Machine

open Sys2Proof.Safety

variable {s t : State} {h : Nat}

/-! ## Parity failures of a record (R45, R46) -/

/-- A LIVE session whose body is damaged is removed, its group taken as present. -/
theorem checkRecord_body (anchor : (recordOf s h).anchorGood = true) (live : (recordOf s h).handleState = .live)
    (body : (recordOf s h).bodyGood = false) : checkRecord h s =
      (removeParity h true (bump .parityRecord (report .tbl2 (ErrInfo.ofHandle h) s)), .removed) := by
  unfold checkRecord
  simp only
  rw [if_neg (not_not.2 anchor), if_pos ⟨live, by rw [body]; decide⟩]

/-- A damaged anchor clears the table. -/
theorem checkRecord_anchor (anchor : (recordOf s h).anchorGood = false) :
    checkRecord h s = (tableFault (ErrInfo.ofHandle h) .parityRecord s, .cleared) := by
  unfold checkRecord
  simp only
  rw [if_pos (by rw [anchor]; decide)]

/-- On the standby side a handle lost to parity is wanted again (R45, R48). -/
theorem removeParity_standby (standby : s.pai.role.isStandby = true) (h : Nat) (g : Bool) :
    removeParity h g s = joinRefresh h (removeSession h .parity g s) := if_pos standby

/-- A TBL3 of a part that is neither DETACHED nor FAULTED: the role changes, and then the table is cleared (R46, R178). -/
theorem tableFault_carried (carries : s.pai.role ≠ .detached ∧ s.pai.role ≠ .faulted) (i : ErrInfo) (c : Ctr) :
    tableFault i c s = clearTable (changeRole .faulted .faultError (report .tbl3 i (bump c s))) := by
  unfold tableFault
  rw [raiseFault_carried (s := bump c s) .tbl3 i carries]
  rfl

/-- In DETACHED and FAULTED a TBL3 is filed alone. -/
theorem tableFault_filed (stays : s.pai.role = .detached ∨ s.pai.role = .faulted) (i : ErrInfo) (c : Ctr) :
    tableFault i c s = clearTable (report .tbl3 i (bump c s)) := by
  unfold tableFault
  rw [raiseFault_filed (s := bump c s) .tbl3 i stays]

theorem tableFault_role (carries : s.pai.role ≠ .detached ∧ s.pai.role ≠ .faulted) (i : ErrInfo) (c : Ctr) :
    (tableFault i c s).pai.role = .faulted := by
  rw [tableFault_carried carries]
  exact changeRole_role .faulted .faultError _

/-! ## The refresh list (R117) -/

theorem joinRefresh_listed (listed : h ∈ s.shd.refresh) : joinRefresh h s = s :=
  if_pos (List.contains_iff_mem.2 listed)

theorem joinRefresh_room (other : h ∉ s.shd.refresh) (room : s.shd.refresh.length < 16) :
    joinRefresh h s = { s with shd := { s.shd with refresh := s.shd.refresh ++ [h] } } :=
  (if_neg (mt List.contains_iff_mem.1 other)).trans (if_pos room)

theorem joinRefresh_full (other : h ∉ s.shd.refresh) (full : 16 ≤ s.shd.refresh.length) :
    joinRefresh h s = setBulkWanted (report .shd2 (ErrInfo.ofHandle h) s) :=
  (if_neg (mt List.contains_iff_mem.1 other)).trans (if_neg (Nat.not_lt.2 full))

theorem joinRefresh_role (h : Nat) (s : State) : (joinRefresh h s).pai.role = s.pai.role := by
  by_cases listed : h ∈ s.shd.refresh
  · rw [joinRefresh_listed listed]
  · by_cases room : s.shd.refresh.length < 16
    · rw [joinRefresh_room listed room]
    · rw [joinRefresh_full listed (Nat.not_lt.1 room)]
      unfold setBulkWanted
      split
      · rfl
      · exact (sendHello_steady _).role

theorem joinRefresh_recordOf (h : Nat) (s : State) (k : Nat) : recordOf (joinRefresh h s) k = recordOf s k :=
  congrArg (fun t : Tbl => t.record k) (joinRefresh_touches h s .tbl (by decide))

/-! ## UPDATE and REMOVE (R111, R112) -/

/-- A protocol has a state when both are TCP's or neither is. -/
theorem stateFits_iff (p : Byte) (st : SessionState) : stateFits p st = true ↔ (p = 6#8 ↔ st ≠ .flow) := by
  unfold stateFits
  by_cases tcp : p = 6#8
  · rw [if_pos tcp, bne_iff_ne]
    exact ⟨fun f => ⟨fun _ => f, fun _ => tcp⟩, fun i => i.1 tcp⟩
  · rw [if_neg tcp, beq_iff_eq]
    exact ⟨fun f => ⟨fun c => absurd c tcp, fun c => absurd f c⟩, fun i => not_not.1 fun c => tcp (i.2 c)⟩

variable {id : FrameId} {first : Bool} {epoch : Word16} {i : Image}

/-- An UPDATE behind the check of the record that it names. -/
theorem applyDelta_update (checked : checkNamed h epoch s = t) : applyDelta id first (.update h epoch i) s =
    if t.pai.role.isStandby ∧ liveAs t h epoch ∧ ¬ stateFits (recordOf t h).body.origKey.proto i.state then none
    else some (whileStandby (updateRecord h epoch i) t) := by
  subst checked
  rfl

theorem applyDelta_remove (checked : checkNamed h epoch s = t) :
    applyDelta id first (.remove h epoch) s = some (whileStandby (removeRecord h epoch) t) := by
  subst checked
  rfl

/-- The record that a delta names is checked, and no other (R44). -/
theorem checkNamed_named (named : liveAs s h epoch = true) : checkNamed h epoch s = (checkRecord h s).1 := if_pos named

theorem checkNamed_other (other : liveAs s h epoch = false) : checkNamed h epoch s = s := if_neg (by rw [other]; decide)

/-- An UPDATE of a record that the delta's epoch does not name is an orphan. -/
theorem update_orphan (checked : checkNamed h epoch s = t) (standby : t.pai.role.isStandby = true)
    (other : liveAs t h epoch = false) :
    applyDelta id first (.update h epoch i) s = some (joinRefresh h (bump .shdOrphan t)) := by
  rw [applyDelta_update checked, if_neg (by rw [other]; simp), whileStandby_in standby]
  unfold updateRecord
  rw [if_neg (by rw [other]; decide)]

/-- A REMOVE of such a record is ignored. -/
theorem remove_ignored (checked : checkNamed h epoch s = t) (standby : t.pai.role.isStandby = true)
    (other : liveAs t h epoch = false) :
    applyDelta id first (.remove h epoch) s = some (leaveRefresh h (bump .shdRemIgnored t)) := by
  rw [applyDelta_remove checked, whileStandby_in standby]
  unfold removeRecord
  rw [if_neg (by rw [other]; decide)]

/-- A check that takes the part out of the standby roles ends the delta. -/
theorem delta_ended (checked : checkNamed h epoch s = t) (out : t.pai.role.isStandby = false) :
    applyDelta id first (.update h epoch i) s = some t ∧ applyDelta id first (.remove h epoch) s = some t := by
  rw [applyDelta_update checked, applyDelta_remove checked, whileStandby_out out, whileStandby_out out, out]
  exact ⟨if_neg nofun, rfl⟩

/-- A handle that is not LIVE is named by no epoch. -/
theorem liveAs_dead (dead : (recordOf s h).handleState ≠ .live) (epoch : Word16) : liveAs s h epoch = false :=
  Bool.eq_false_iff.2 fun named => dead ((liveAs_iff s h epoch).1 named).1

theorem standby_carries (standby : s.pai.role.isStandby = true) : s.pai.role ≠ .detached ∧ s.pai.role ≠ .faulted := by
  constructor
  all_goals
    intro role
    rw [role] at standby
    cases standby

end Sys2Proof.Machine

namespace Sys2Proof.Proofs

open Sys2Proof.Machine Sys2Proof.Safety

/-- Settles O39: the record that the delta names is checked first; then the delta acts on it, or finds it gone. -/
theorem updateAndRemoveDeltasAreApplied : Obligations.UpdateAndRemoveDeltasAreApplied := by
  intro id first h epoch i s standby r named updated removed without
  have naming : liveAs s h epoch = true ↔ named := liveAs_iff s h epoch
  refine ⟨fun name intact => ?_, fun other => ?_, fun name records slots => ⟨fun anchor body => ?_, fun anchor => ?_⟩, fun u => ?_⟩
  · have checked : checkNamed h epoch s = s := by rw [checkNamed_named (naming.2 name), checkRecord_intact intact]
    have update := applyDelta_update (id := id) (first := first) (i := i) checked
    rw [standby, naming.2 name] at update
    refine ⟨fun fits => ?_, fun misfit => ?_, fun records slots => ?_⟩
    · refine update.trans ((if_neg fun bad => bad.2.2 ((stateFits_iff _ _).2 fits)).trans ?_)
      rw [whileStandby_in standby]
      exact congrArg some (if_pos (naming.2 name))
    · exact update.trans (if_pos ⟨rfl, rfl, mt (stateFits_iff _ _).1 misfit⟩)
    · refine ⟨removeSession h .remote false s, ?_, removeSession_removed records slots name.1 .remote false⟩
      refine (applyDelta_remove checked).trans ?_
      rw [whileStandby_in standby]
      unfold removeRecord
      rw [if_pos (naming.2 name)]
      rfl
  · have no := Bool.eq_false_iff.2 (mt naming.1 other)
    exact ⟨update_orphan (checkNamed_other no) standby no, remove_ignored (checkNamed_other no) standby no⟩
  · have removes := removeSession_removed (s := bump .parityRecord (report .tbl2 (ErrInfo.ofHandle h) s)) records slots name.1
      .parity true
    have checked := checkNamed_named (naming.2 name)
    rw [checkRecord_body anchor name.1 body, removeParity_standby (s := bump .parityRecord (report .tbl2 (ErrInfo.ofHandle h) s))
      standby] at checked
    generalize removeSession h .parity true (bump .parityRecord (report .tbl2 (ErrInfo.ofHandle h) s)) = u at removes checked
    have role : (joinRefresh h u).pai.role.isStandby = true := by
      rw [joinRefresh_role, removes.blocks .pai (by decide)]
      exact standby
    have gone : liveAs (joinRefresh h u) h epoch = false := by
      refine liveAs_dead ?_ epoch
      rw [joinRefresh_recordOf, removes.record]
      split <;> nofun
    exact ⟨u, removes, update_orphan checked role gone, remove_ignored checked role gone⟩
  · have carries := standby_carries standby
    have checked := checkNamed_named (naming.2 name)
    rw [checkRecord_anchor anchor] at checked
    obtain ⟨update, remove⟩ := delta_ended (id := id) (first := first) (i := i) checked (by rw [tableFault_role carries]; rfl)
    rw [tableFault_carried carries] at update remove
    exact ⟨_, changeRole_from (v := report .tbl3 (ErrInfo.ofHandle h) (bump .parityRecord s)) rfl .faulted .faultError, update,
      remove.trans update.symm⟩
  · refine ⟨joinRefresh_listed, joinRefresh_room, fun other full => (joinRefresh_full other full).trans ?_⟩
    rfl

end Sys2Proof.Proofs
end

section
/-! SUPPORT. Placements (R47, R109, R110): the conditions of a well-formed record, the sessions in its way, the insert; and the
obligation about them. -/

-- One proof at a time: proofs that wait for earlier checks would each take a thread.
set_option Elab.async false

namespace Sys2Proof.Machine

open Sys2Proof.Safety

variable {s t u : State} {h : Nat} {epoch : Word16} {w : Whole}

/-! ## A well-formed record (R109) -/

theorem mem_enabledZones (zs : Vector Zone 8) (p : Nat × Zone) :
    p ∈ enabledZones zs ↔ p.1 < 8 ∧ p.2 = zoneAt zs p.1 ∧ p.2.enabled = true := by
  unfold enabledZones zoneAt
  rw [List.mem_filter, List.mem_iff_getElem]
  obtain ⟨n, z⟩ := p
  simp only [List.getElem_zip, List.getElem_range, List.length_zip, List.length_range, Vector.length_toList, Prod.mk.injEq]
  constructor
  · rintro ⟨⟨i, lt, rfl, rfl⟩, on⟩
    exact ⟨by omega, by simp [List.getD_eq_getElem?_getD, show i < 8 by omega], on⟩
  · rintro ⟨lt, e, on⟩
    exact ⟨⟨n, by omega, rfl, by rw [e]; simp [List.getD_eq_getElem?_getD, lt]⟩, on⟩

/-- A key's zone is enabled when one of the enabled zones has its number. -/
theorem zoneEnabled_iff (zs : Vector Zone 8) (z : Byte) :
    zoneEnabled zs z = true ↔ ∃ p ∈ enabledZones zs, p.1 = z.toNat := by
  unfold zoneEnabled
  simp only [mem_enabledZones]
  constructor
  · intro on
    refine ⟨(z.toNat, zoneAt zs z.toNat), ⟨?_, rfl, on⟩, rfl⟩
    by_contra above
    have off : zoneAt zs z.toNat = Zone.default := by
      unfold zoneAt
      simp [List.getD_eq_getElem?_getD, above]
    rw [off] at on
    cases on
  · rintro ⟨p, ⟨-, e, on⟩, number⟩
    rw [← number, ← e, on]

/-- The state and the class of a record fit its protocol: those of TCP, or FLOW with a class from 4 to 7. -/
theorem protoFits_iff (p : Byte) (st : SessionState) (c : Nat) : stateFits p st = true ∧ flowClassFits p c = true ↔
    if p = 6#8 then st ≠ .flow ∧ c = 0 else st = .flow ∧ 4 ≤ c ∧ c ≤ 7 := by
  unfold stateFits flowClassFits
  by_cases tcp : p = 6#8
  · rw [if_pos tcp, if_pos tcp, if_pos tcp, bne_iff_ne, beq_iff_eq]
  · rw [if_neg tcp, if_neg tcp, if_neg tcp, beq_iff_eq, Bool.and_eq_true, decide_eq_true_eq, decide_eq_true_eq]

theorem wholeFits_iff (zs : Vector Zone 8) (w : Whole) : wholeFits zs w = true ↔
    (∃ p ∈ enabledZones zs, p.1 = w.origKey.zone.toNat) ∧ (∃ p ∈ enabledZones zs, p.1 = w.replyKey.zone.toNat) ∧
      w.origKey ≠ w.replyKey ∧ w.origKey.proto = w.replyKey.proto ∧
      (if w.origKey.proto = 6#8 then w.image.state ≠ .flow ∧ w.flowClass = 0
       else w.image.state = .flow ∧ 4 ≤ w.flowClass ∧ w.flowClass ≤ 7) := by
  simp only [wholeFits, Bool.and_eq_true, bne_iff_ne, beq_iff_eq, ← zoneEnabled_iff, ← protoFits_iff, and_assoc]

theorem sameSession_iff (r : Record) (epoch : Word16) (w : Whole) : sameSession r epoch w = true ↔
    r.handleState = .live ∧ r.epoch = epoch ∧ r.body.origKey = w.origKey ∧ r.body.replyKey = w.replyKey := by
  simp only [sameSession, Bool.and_eq_true, beq_iff_eq, and_assoc]

/-! ## The sessions in the way of a placement (R47, 2 and 3) -/

/-- The records are intact and the table meets its laws. -/
structure Intact (s : State) : Prop where
  records : ∀ k, recordIntact s k
  table   : TableLaw s.tbl
  slots   : SlotLaw s.tbl

/-- From s to u sessions may be lost: what a placement reads beside the table stands, the table stays intact, and so does what a
key's lookup reads. -/
structure Loses (s u : State) : Prop where
  blocks : Touches [.tbl, .hold, .mir, .flt] s u
  intact : Intact s → Intact u
  reads  : ∀ k, slotsIntact s k → slotsIntact u k

theorem Loses.refl (s : State) : Loses s s := ⟨Touches.refl s, id, fun _ => id⟩

theorem Loses.trans (a : Loses s t) (b : Loses t u) : Loses s u :=
  ⟨a.blocks.trans b.blocks, b.intact ∘ a.intact, fun k => b.reads k ∘ a.reads k⟩

theorem removed_loses {reason : RemovalReason} {g : Bool} (r : Removed h reason g s u) (thins : Thins s.tbl u.tbl) : Loses s u where
  blocks := r.blocks
  intact i := by
    refine ⟨fun k => ?_, thins.table i.table, thins.slots i.table i.slots⟩
    by_cases own : k = h
    · subst own
      unfold recordIntact
      rw [r.record]
      split <;> exact ⟨rfl, rfl⟩
    · unfold recordIntact
      rw [r.others k own]
      exact i.records k
  reads k intact pos mem sl at_ := by
    rw [r.blocks .cfg (by decide)] at mem
    rw [r.slots] at at_
    split at at_
    · cases at_
    · exact intact pos mem sl at_

/-- A LIVE session is removed as STALE. -/
theorem removeSession_stale (i : Intact s) (live : (recordOf s h).handleState = .live) :
    Removed h .stale (recordOf s h).body.mirrored.isSome s (removeSession h .stale false s) ∧
      Loses s (removeSession h .stale false s) := by
  have removed := removeSession_removed i.table.sorted i.slots.sorted live .stale false
  exact ⟨removed, removed_loses removed (removeSession_narrows h .stale false s).thins⟩

theorem removeSession_idle (dead : (recordOf s h).handleState ≠ .live) (q : RemovalReason) (g : Bool) : removeSession h q g s = s := by
  unfold removeSession
  simp only
  rw [if_neg dead]

theorem removeCollision_miss {k : Key} (misses : Misses s k) : removeCollision h k s = s := by
  unfold removeCollision
  rw [lookup_misses misses]

theorem removeCollision_hit {k : Key} {h' : Nat} {d : Dir} (finds : Finds s k h' d) (other : h' ≠ h) :
    removeCollision h k s = removeSession h' .stale false s := by
  unfold removeCollision
  rw [lookup_finds finds]
  exact if_neg other

/-- A key of the delta is looked up for a handle that is not LIVE: it is missed, or the session that holds it goes. -/
theorem removeCollision_loses {k : Key} (i : Intact s) (reads : slotsIntact s k) (dead : (recordOf s h).handleState ≠ .live) :
    ((Misses s k ∧ removeCollision h k s = s) ∨ ∃ h' d, Finds s k h' d ∧ h' ≠ h ∧
      Removed h' .stale (recordOf s h').body.mirrored.isSome s (removeCollision h k s)) ∧ Loses s (removeCollision h k s) := by
  cases found : s.tbl.findKey s.cfg.hashSeed k with
  | none =>
    have misses : Misses s k := ⟨reads, found⟩
    rw [removeCollision_miss misses]
    exact ⟨.inl ⟨misses, rfl⟩, Loses.refl s⟩
  | some sl =>
    have finds : Finds s k sl.handle sl.dir := ⟨reads, i.records _, sl, found, rfl, rfl⟩
    obtain ⟨pos, -, at_, -⟩ := findKey_some found
    have live : (recordOf s sl.handle).handleState = .live := (i.slots.names pos sl at_).1
    have other : sl.handle ≠ h := fun own => dead (own ▸ live)
    rw [removeCollision_hit finds other]
    obtain ⟨removed, loses⟩ := removeSession_stale i live
    exact ⟨.inr ⟨sl.handle, sl.dir, finds, other, removed⟩, loses⟩

/-- A collision removed leaves the other handles that are not LIVE as they are. -/
theorem removeCollision_dead {k : Key} (sorted : TableLaw s.tbl) (dead : (recordOf s h).handleState ≠ .live) :
    (recordOf (removeCollision h k s) h).handleState ≠ .live :=
  fun live => dead ((removeCollision_narrows h k s).thins.live sorted h live)

/-! ## The insert (R47, 4 to 6) -/

/-- A record placed: its keys at p and q in the table t. -/
theorem placeRecord_made {t : Tbl} {p q : Nat} (ins : s.tbl.insertKeys s.cfg.hashSeed w.origKey w.replyKey h = some (t, p, q)) :
    placeRecord h epoch w s = leaveRefresh h (bumpBy .stashInsert ((if 65536 ≤ p then 1 else 0) + (if 65536 ≤ q then 1 else 0))
      { s with
        tbl := { t with
          records := putRecord s.tbl.records h
            { handleState := .live, epoch := epoch, pending := .none, removalReason := none, slotOrig := p, slotReply := q
              anchorGood := true, body := Body.cleared.withWhole w s.shd.adoptedGen s.tim.seconds, bodyGood := true }
          free := freeTake s.tbl.free h
          liveCount := s.tbl.liveCount + 1
          digestSum := s.tbl.digestSum + BitVec.ofNat 32 (h * 65536 + epoch.toNat) } }) := by
  have leaves : t = { s.tbl with slots := t.slots } := by rw [(insertKeys_inserted ins).keys]; rfl
  unfold placeRecord
  rw [ins]
  simp only
  rw [leaves]
  rfl

theorem placeRecord_full (full : s.tbl.insertKeys s.cfg.hashSeed w.origKey w.replyKey h = none) :
    placeRecord h epoch w s = joinRefresh h (report .shd3 (ErrInfo.ofHandle h) s) := by
  unfold placeRecord
  rw [full]

/-! ## A placement (R47, R110) -/

section placed

variable (standby : s.pai.role.isStandby = true) (intact : recordIntact s h)

include standby intact

/-- The very session is overwritten in place. -/
theorem placeDelta_same (same : sameSession (recordOf s h) epoch w = true) : placeDelta h epoch w s =
    leaveRefresh h (setRecord h
      { recordOf s h with body := (recordOf s h).body.withWhole w s.shd.adoptedGen s.tim.seconds } s) := by
  unfold placeDelta
  rw [checkRecord_intact intact, whileStandby_in standby]
  exact if_pos same

/-- Another session of the handle and those that hold a key of the delta go, and the record is placed. -/
theorem placeDelta_other (other : sameSession (recordOf s h) epoch w = false)
    (standby1 : (removeCollision h w.origKey (removeSession h .stale false s)).pai.role.isStandby = true)
    (standby2 : (removeCollision h w.replyKey (removeCollision h w.origKey (removeSession h .stale false s))).pai.role.isStandby =
      true) :
    placeDelta h epoch w s = placeRecord h epoch w (removeCollision h w.replyKey
      (removeCollision h w.origKey (removeSession h .stale false s))) := by
  unfold placeDelta
  rw [checkRecord_intact intact, whileStandby_in standby]
  simp only
  rw [if_neg (by rw [other]; decide), whileStandby_in standby1, whileStandby_in standby2]

end placed

end Sys2Proof.Machine

namespace Sys2Proof.Proofs

open Sys2Proof.Machine Sys2Proof.Safety

/-- Settles O40: the very session is overwritten (`placeDelta_same`); for another, the sessions in its way go one after another, and
the insert takes place in the state that they leave. -/
theorem placementWritesTheRecord : Obligations.PlacementWritesTheRecord := by
  intro id first h epoch w s standby r placed zoneOn fits same without carried inserted cleared
  have fitting : wholeFits s.zones w = true ↔ fits := wholeFits_iff s.zones w
  have sames : sameSession r epoch w = true ↔ same := sameSession_iff r epoch w
  refine ⟨fun bad => if_neg (mt fitting.1 bad), fun fit intact => ⟨fun is => ?_, fun free noOrig noReply => ?_,
    fun other records readsOrig readsReply table slots => ?_⟩⟩
  · refine (if_pos (fitting.2 fit)).trans (congrArg some ?_)
    exact placeDelta_same standby intact (sames.2 is)
  all_goals
    have insert (u : State) (keeps : Touches [.tbl, .hold, .mir, .flt] s u) (e : placeDelta h epoch w s = placeRecord h epoch w u) :
        inserted u := by
      have place : placed = some (placeRecord h epoch w u) := (if_pos (fitting.2 fit)).trans (congrArg some e)
      have cfg : u.cfg = s.cfg := keeps .cfg (by decide)
      have shd : u.shd = s.shd := keeps .shd (by decide)
      have tim : u.tim = s.tim := keeps .tim (by decide)
      refine ⟨fun t p q ins => ?_, fun full => ?_⟩
      · rw [place, placeRecord_made (by rw [cfg]; exact ins), shd, tim]
        rfl
      · rw [place, placeRecord_full (by rw [cfg]; exact full)]
  · have dead : (recordOf s h).handleState ≠ .live := fun live => by cases free.symm.trans live
    have noSession : sameSession r epoch w = false := Bool.eq_false_iff.2 fun is => dead (sames.1 is).1
    have other := placeDelta_other standby intact noSession
    rw [removeSession_idle dead, removeCollision_miss noOrig, removeCollision_miss noReply] at other
    exact insert s (Touches.refl s) (other standby standby)
  · have own : ((r.handleState ≠ .live ∧ removeSession h .stale false s = s) ∨
        (r.handleState = .live ∧ Removed h .stale r.body.mirrored.isSome s (removeSession h .stale false s))) ∧
        Loses s (removeSession h .stale false s) := by
      by_cases live : r.handleState = .live
      · obtain ⟨removed, loses⟩ := removeSession_stale ⟨records, table, slots⟩ live
        exact ⟨.inr ⟨live, removed⟩, loses⟩
      · rw [removeSession_idle live]
        exact ⟨.inl ⟨live, rfl⟩, Loses.refl s⟩
    obtain ⟨first, loses0⟩ := own
    have dead0 := removeSession_dead table.sorted h .stale false
    have other' := placeDelta_other standby intact (Bool.eq_false_iff.2 (mt sames.1 other))
    generalize removeSession h .stale false s = u0 at first loses0 dead0 other'
    have intact0 := loses0.intact ⟨records, table, slots⟩
    obtain ⟨second, loses1⟩ := removeCollision_loses intact0 (loses0.reads _ readsOrig) dead0
    have dead1 := removeCollision_dead (k := w.origKey) intact0.table dead0
    generalize removeCollision h w.origKey u0 = u1 at second loses1 dead1 other'
    obtain ⟨third, loses2⟩ := removeCollision_loses (loses1.intact intact0) (loses1.reads _ (loses0.reads _ readsReply)) dead1
    generalize removeCollision h w.replyKey u1 = u2 at third loses2 other'
    have loses := (loses0.trans loses1).trans loses2
    refine ⟨u0, u1, u2, first, second, third, insert u2 loses.blocks (other' ?_ ?_)⟩
    · rw [(loses0.trans loses1).blocks .pai (by decide)]
      exact standby
    · rw [loses.blocks .pai (by decide)]
      exact standby

end Sys2Proof.Proofs
end

section
/-! SUPPORT. Acknowledgements (R39, R76, R94, R95): what releases the frames of the hold queue that an ACK covers, frees the RETIRED
handles of its REMOVEs, and then sends the rest again; and the obligation about them. -/

-- One proof at a time: proofs that wait for earlier checks would each take a thread.
set_option Elab.async false

namespace Sys2Proof.Machine

open Sys2Proof.Safety

variable {s u : State}

/-! ## Held frames released (R76) -/

theorem releaseHeld_counts {cause : Ctr} (s : State) (e : HoldEntry) :
    Adds ([e.frame].take (128 - s.prt.wQueue.length)) [] (portErrors 2 ([e.frame].drop (128 - s.prt.wQueue.length))) [] 0#9
      (fun c => only .wTxDrop ([e.frame].drop (128 - s.prt.wQueue.length)).length c + (only cause 1 c + only .hitFwd 1 c))
      s (releaseHeld cause s e) := by
  have path : (clearReleaseSeq e s).prt = s.prt := clearReleaseSeq_touches e s .prt (by decide)
  have handed := handToW_adds e.frame (clearReleaseSeq e s)
  rw [path] at handed
  exact (((handed.after (Adds.touching (clearReleaseSeq_touches e s))).trans (bump_adds cause _)).trans
    (bump_adds .hitFwd _)).as (hc := fun c => Nat.add_assoc _ _ _)

/-- The entries that a condition picks are released: with room for them the W-port takes their frames in order. -/
theorem releaseWhere_room {pick : HoldEntry → Bool} {cause : Ctr} (room : s.prt.wQueue.length + (s.hold.filter pick).length ≤ 128) :
    Adds ((s.hold.filter pick).map HoldEntry.frame) [] [] [] 0#9
      (fun c => (s.hold.filter pick).length * (only cause 1 c + only .hitFwd 1 c)) s (releaseWhere pick cause s) := by
  have released := (Adds.handing (f := releaseHeld cause) (g := HoldEntry.frame) (P := fun _ => True)
    (fun v e _ => releaseHeld_counts v e) (fun _ _ _ => trivial) (s.hold.filter pick)
    { s with hold := s.hold.filter fun e => !pick e } trivial).after (s := s) (Adds.none rfl rfl ⟨rfl, rfl⟩)
  have all : ((s.hold.filter pick).map HoldEntry.frame).length ≤ 128 - s.prt.wQueue.length := by
    rw [List.length_map]
    omega
  refine released.as (hw := List.take_of_length_le all) (hn := ?_) (hc := fun c => ?_)
  · rw [List.drop_of_length_le all]
    rfl
  · rw [List.drop_of_length_le all]
    simp [only]

theorem releaseWhere_leaves (pick : HoldEntry → Bool) (cause : Ctr) (s : State) :
    (releaseWhere pick cause s).hold = s.hold.filter (fun e => !pick e) ∧ (releaseWhere pick cause s).mir = s.mir := by
  have steps := Touches.foldl (releaseHeld_touches cause) (s.hold.filter pick) { s with hold := s.hold.filter fun e => !pick e }
  exact ⟨steps .hold (by decide), steps .mir (by decide)⟩

theorem releaseWhere_sameTbl (pick : HoldEntry → Bool) (cause : Ctr) (sorted : sparseSorted s.tbl.records = true) :
    SameTbl s (releaseWhere pick cause s) :=
  SameTbl.trans (t := { s with hold := s.hold.filter fun e => !pick e }) (SameTbl.of_eq sorted rfl)
    (SameTbl.foldl (fun v e h => releaseHeld_sameTbl cause v e h) _ _ sorted)

theorem recordOf_releaseWhere (pick : HoldEntry → Bool) (cause : Ctr) (sorted : sparseSorted s.tbl.records = true) (h : Nat) :
    recordOf (releaseWhere pick cause s) h = withoutSeq (s.hold.filter pick) h (recordOf s h) :=
  recordOf_clearing (releaseHeld_tbl cause) _ (s := { s with hold := s.hold.filter fun e => !pick e }) sorted h

/-- A step that adds frames for the W-port and counts alone. -/
theorem adds_quiet {t : State} {ws : List Frame} {cs : Ctr → Nat} (a : Adds ws [] [] [] 0#9 cs s t) :
    t.prt = { s.prt with wQueue := s.prt.wQueue ++ ws } ∧ t.flt = { s.flt with counters := t.flt.counters } := by
  refine ⟨by rw [a.prt, List.append_nil], ?_⟩
  have note : t.flt.logNote = s.flt.logNote := a.note
  have loss : t.flt.logLoss = s.flt.logLoss := a.loss
  have flags : t.flt.flags = s.flt.flags := by
    rw [a.flags]
    simp [flagOf]
  have rest := a.rest
  rwa [note, loss, flags] at rest

/-! ## RETIRED handles freed (R39) -/

/-- Of distinct handles freed in turn, those that are RETIRED join the free list, in order. -/
theorem freeHandles_releaseRetired (l : List Nat) {t : Tbl} (sorted : sparseSorted t.records = true) (distinct : l.Nodup) :
    freeHandles (l.foldl Tbl.releaseRetired t).free =
      freeHandles t.free ++ l.filter fun h => (t.record h).handleState == .retired := by
  induction l generalizing t with
  | nil => simp
  | cons h l ih =>
    obtain ⟨out, distinct⟩ := List.nodup_cons.1 distinct
    have same : ∀ k ∈ l, ((t.releaseRetired h).record k).handleState = (t.record k).handleState := fun k mem => by
      rw [record_releaseRetired sorted, if_neg (fun own : k = h ∧ _ => out (own.1 ▸ mem))]
    rw [List.foldl_cons, ih (releaseRetired_sorted sorted h) distinct, List.filter_congr fun k mem => by rw [same k mem]]
    unfold Tbl.releaseRetired
    by_cases retired : (t.record h).handleState = .retired
    · rw [if_pos retired, List.filter_cons_of_pos (by rw [retired]; rfl)]
      simp only [Tbl.release, Tbl.setRecord, freeHandles_freePush, List.append_assoc, List.singleton_append]
    · rw [if_neg retired, List.filter_cons_of_neg (by rw [beq_iff_eq]; exact retired)]

/-! ## An ACK taken (R94) -/

/-- A held frame whose release_seq is among those of some frames. -/
def coveredBy (ds : List DataFrame) (e : HoldEntry) : Bool :=
  match e.releaseSeq with
  | none => false
  | some x => (ds.map DataFrame.seq).contains x

/-- The k oldest frames leave the replay queue, and the handles of their REMOVEs are freed. -/
def acknowledged (k : Nat) (s : State) : State :=
  { s with
    mir := { s.mir with replay := s.mir.replay.drop k, replayCount := 0, gapLatch := none }
    tbl := ((s.mir.replay.take k).flatMap DataFrame.removes).foldl Tbl.releaseRetired s.tbl }

theorem takeAck_eq (k : Nat) (s : State) : takeAck k s =
    restartReplayTimer (releaseWhere (coveredBy (s.mir.replay.take k)) .holdRelAck (acknowledged k s)) := by
  have picks : (fun e : HoldEntry => match e.releaseSeq with
      | some q => ((s.mir.replay.take k).map DataFrame.seq).contains q | none => false) = coveredBy (s.mir.replay.take k) := by
    funext e
    unfold coveredBy
    cases e.releaseSeq <;> rfl
  exact congrArg (fun pick => restartReplayTimer (releaseWhere pick .holdRelAck (acknowledged k s))) picks

theorem takeAck_mir (k : Nat) (s : State) : (takeAck k s).mir = { s.mir with
    replay := s.mir.replay.drop k, replayCount := 0, gapLatch := none
    replayTimer := if s.mir.replay.drop k = [] then .stopped else .running s.cfg.replayTimeout } := by
  have left := (releaseWhere_leaves (coveredBy (s.mir.replay.take k)) .holdRelAck (acknowledged k s)).2
  have cfg : (releaseWhere (coveredBy (s.mir.replay.take k)) .holdRelAck (acknowledged k s)).cfg = s.cfg :=
    releaseWhere_touches _ _ _ .cfg (by decide)
  rw [takeAck_eq]
  unfold restartReplayTimer
  rw [left, cfg]
  rfl

theorem takeAck_hold (k : Nat) (s : State) : (takeAck k s).hold = s.hold.filter fun e => !coveredBy (s.mir.replay.take k) e := by
  rw [takeAck_eq]
  exact (releaseWhere_leaves _ .holdRelAck (acknowledged k s)).1

/-- With room at the W-port nothing is reported, and each covered frame leaves and is counted. -/
theorem takeAck_room {k : Nat} (room : s.prt.wQueue.length + (s.hold.filter (coveredBy (s.mir.replay.take k))).length ≤ 128) :
    Adds ((s.hold.filter (coveredBy (s.mir.replay.take k))).map HoldEntry.frame) [] [] [] 0#9
      (fun c => (s.hold.filter (coveredBy (s.mir.replay.take k))).length * (only .holdRelAck 1 c + only .hitFwd 1 c))
      s (takeAck k s) := by
  rw [takeAck_eq]
  have released := releaseWhere_room (s := acknowledged k s) (cause := .holdRelAck) room
  exact (released.after (s := s) (Adds.none rfl rfl ⟨rfl, rfl⟩)).before (Adds.none rfl rfl ⟨rfl, rfl⟩)

section table

variable {k : Nat} (sorted : sparseSorted s.tbl.records = true)

include sorted

theorem acknowledged_sorted : sparseSorted (acknowledged k s).tbl.records = true := (record_releaseAll _ sorted 0).1

theorem takeAck_sameTbl : SameTbl (acknowledged k s) (takeAck k s) := by
  rw [takeAck_eq]
  have same := releaseWhere_sameTbl (coveredBy (s.mir.replay.take k)) .holdRelAck (acknowledged_sorted (k := k) sorted)
  exact same.trans (SameTbl.of_eq same.sorted rfl)

/-- A RETIRED handle whose REMOVE is acknowledged is FREE; a LIVE session whose held frame leaves has no release_seq. -/
theorem recordOf_takeAck (h : Nat) : recordOf (takeAck k s) h =
    if (recordOf s h).handleState = .retired ∧ h ∈ (s.mir.replay.take k).flatMap DataFrame.removes then
      { Record.fresh with epoch := (recordOf s h).epoch }
    else if (recordOf s h).handleState = .live ∧ (s.hold.any fun e =>
        coveredBy (s.mir.replay.take k) e && e.handle == h && e.epoch == (recordOf s h).epoch) = true then
      { recordOf s h with body := { (recordOf s h).body with releaseSeq := none } }
    else recordOf s h := by
  have freed : recordOf (acknowledged k s) h =
      if h ∈ (s.mir.replay.take k).flatMap DataFrame.removes ∧ (recordOf s h).handleState = .retired
      then freedRecord (recordOf s h).epoch else recordOf s h := (record_releaseAll _ sorted h).2
  have held : (s.hold.any fun e => coveredBy (s.mir.replay.take k) e && e.handle == h && e.epoch == (recordOf s h).epoch) = true ↔
      ∃ e ∈ s.hold.filter (coveredBy (s.mir.replay.take k)), e.handle = h ∧ e.epoch = (recordOf s h).epoch := by
    simp only [List.any_eq_true, List.mem_filter, Bool.and_eq_true, beq_iff_eq, and_assoc]
  have cleared : recordOf (takeAck k s) h =
      withoutSeq (s.hold.filter (coveredBy (s.mir.replay.take k))) h (recordOf (acknowledged k s) h) := by
    rw [takeAck_eq]
    exact recordOf_releaseWhere _ .holdRelAck (acknowledged_sorted sorted) h
  rw [cleared, freed]
  unfold withoutSeq
  by_cases retired : (recordOf s h).handleState = .retired ∧ h ∈ (s.mir.replay.take k).flatMap DataFrame.removes
  · rw [if_pos retired, if_pos retired.symm]
    rfl
  · rw [if_neg retired, if_neg (mt And.symm retired)]
    by_cases live : (recordOf s h).handleState = .live ∧
        ∃ e ∈ s.hold.filter (coveredBy (s.mir.replay.take k)), e.handle = h ∧ e.epoch = (recordOf s h).epoch
    · rw [if_pos live, if_pos ⟨live.1, held.2 live.2⟩]
    · rw [if_neg live, if_neg fun both => live ⟨both.1, held.1 both.2⟩]

end table

/-- A mirror frame's arrival leaves every counter but those of the frames received. -/
theorem arrived_counter (path : PathId) (s : State) {c : Ctr} (apart : Ctr.sRx.pos ≠ c.pos ∧ Ctr.wRx.pos ≠ c.pos) :
    counter (arrived path s) c = counter s c := by
  cases path with
  | primary => exact (counter_bump c .sRx s).trans (if_neg apart.1)
  | secondary => exact (counter_bump c .wRx s).trans (if_neg apart.2)

/-! ## An ACK received (R94, R95) -/

section received

variable {gen : Word32} {next : Word16} {gap : Bool}

theorem receiveAck_closed (closed : s.mir.stream = .closed) : receiveAck gen next gap s = bump .ackIgnored s := if_pos closed

theorem receiveAck_other (other : gen ≠ s.pai.pairGen) : receiveAck gen next gap s = bump .ackIgnored s := by
  unfold receiveAck
  rw [if_pos other, ite_self]

variable (opened : s.mir.stream = .opened) (current : gen = s.pai.pairGen)

include opened current

theorem receiveAck_current : receiveAck gen next gap s =
    if (next - oldestSeq s.mir).toNat = 0 then (if gap ∧ gapActs next s then gapRetransmit next s else bump .ackIgnored s)
    else if (next - oldestSeq s.mir).toNat ≤ s.mir.replay.length then
      (if gap ∧ gapActs next (takeAck (next - oldestSeq s.mir).toNat s) then
        gapRetransmit next (takeAck (next - oldestSeq s.mir).toNat s)
      else takeAck (next - oldestSeq s.mir).toNat s)
    else bump .ackIgnored (report .mir1 (ErrInfo.ofSeq next.toNat) s) := by
  unfold receiveAck
  rw [if_neg (by rw [opened]; decide), if_neg (not_not.2 current)]

/-- An ACK that acknowledges nothing and on whose gap flag nothing is done. -/
theorem receiveAck_nothing (nothing : (next - oldestSeq s.mir).toNat = 0) (idle : ¬ (gap ∧ gapActs next s)) :
    receiveAck gen next gap s = bump .ackIgnored s := by
  rw [receiveAck_current opened current, if_pos nothing, if_neg idle]

theorem receiveAck_unsent (unsent : s.mir.replay.length < (next - oldestSeq s.mir).toNat) :
    receiveAck gen next gap s = bump .ackIgnored (report .mir1 (ErrInfo.ofSeq next.toNat) s) := by
  rw [receiveAck_current opened current, if_neg (by omega), if_neg (Nat.not_le.2 unsent)]

theorem receiveAck_taken (names : 1 ≤ (next - oldestSeq s.mir).toNat) (sent : (next - oldestSeq s.mir).toNat ≤ s.mir.replay.length) :
    receiveAck gen next gap s =
      if gap ∧ gapActs next (takeAck (next - oldestSeq s.mir).toNat s) then
        gapRetransmit next (takeAck (next - oldestSeq s.mir).toNat s)
      else takeAck (next - oldestSeq s.mir).toNat s := by
  rw [receiveAck_current opened current, if_neg (by omega), if_pos sent]

end received

/-- A retransmission behind an ACK that was taken is the first of its count: it may be the limit at once (R95, R97). -/
theorem firstRetransmission {f : State → State} {latch : Option Word16} (acts : f s = atReplayLimit (resent latch u))
    (opened : u.mir.stream = .opened) (outstanding : u.mir.replay ≠ []) (none : u.mir.replayCount = 0) :
    (u.cfg.replayLimit ≠ 1 → Noticed (resent latch u) (event f s)) ∧
      (u.cfg.replayLimit = 1 → ∃ v, LimitReached (resent latch u) v ∧ Noticed v (event f s)) := by
  have count : (resent latch u).mir.replayCount = 1 := congrArg Nat.succ none
  refine ⟨fun below => event_becomes (acts.trans (if_neg ?_)), fun limit =>
    ⟨_, atReplayLimit_reached opened outstanding ?_, event_becomes acts⟩⟩
  · rw [count, resent_cfg]
    exact Ne.symm below
  · rw [count, resent_cfg]
    exact limit.symm

end Sys2Proof.Machine

namespace Sys2Proof.Proofs

open Sys2Proof.Machine Sys2Proof.Safety

/-- Settles O35: `receiveAck` by its cases; what a taken ACK leaves is `takeAck`, and with the gap flag the rest is sent again. -/
theorem ackIsTakenOrIgnored : Obligations.AckIsTakenOrIgnored := by
  intro path s c p arrives outside type next k gap
  obtain ⟨f, dispatches, runs⟩ := arrives_event arrives outside
  have receives := dispatches.trans (mirrorDispatch_ack path _ type)
  have ignored (e : receiveAck (word32At p 4) next gap (arrived path s) = bump .ackIgnored (arrived path s)) :
      exec c s = .next (bump .ackIgnored (arrived path s)) := runs.trans (congrArg _ (event_is (receives.trans e) rfl))
  refine ⟨fun refused => ?_, fun opened current => ⟨fun nothing empty => ?_, fun unsent => ?_, fun names sent sorted => ?_⟩⟩
  · refine ignored ?_
    by_cases closed : s.mir.stream = .closed
    · exact receiveAck_closed (s := arrived path s) closed
    · by_cases other : word32At p 4 = s.pai.pairGen
      · obtain ⟨nothing, noGap⟩ := (refused.resolve_left closed).resolve_left (not_not.2 other)
        have opened : s.mir.stream = .opened := by
          cases stream : s.mir.stream
          · exact absurd stream closed
          · rfl
        exact receiveAck_nothing (s := arrived path s) opened other nothing fun acts => by rw [noGap] at acts; cases acts.1
      · exact receiveAck_other (s := arrived path s) other
  · exact ignored (receiveAck_nothing (s := arrived path s) opened current nothing fun acts =>
      ((gapActs_iff _ (arrived path s)).1 acts.2).2 empty)
  · exact ⟨_, runs, event_becomes (receives.trans (receiveAck_unsent (s := arrived path s) opened current unsent))⟩
  · intro acked left removes covered
    have taken : f s = if gap = true ∧ gapActs next (takeAck k (arrived path s)) = true then
        gapRetransmit next (takeAck k (arrived path s)) else takeAck k (arrived path s) :=
      receives.trans (receiveAck_taken (s := arrived path s) (gap := gap) opened current names sent)
    have mir := takeAck_mir k (arrived path s)
    have gapIff := gapActs_iff next (takeAck k (arrived path s))
    have cfg : (takeAck k (arrived path s)).cfg = s.cfg := takeAck_touches k (arrived path s) .cfg (by decide)
    have same := takeAck_sameTbl (s := arrived path s) (k := k) sorted
    obtain ⟨slots, live, sum⟩ := releaseAll_slots removes s.tbl
    refine ⟨takeAck k (arrived path s), event f s, runs, ?_, fun alone => ?_, fun on more room => ?_, mir,
      takeAck_hold k (arrived path s), fun room => ?_, fun distinct => ?_, same.slots.trans slots, same.digest.1.trans live,
      same.digest.2.trans sum, recordOf_takeAck (s := arrived path s) sorted⟩
    · exact Touches.trans (t := arrived path s) (bump_touches _ s).mono (takeAck_touches k (arrived path s)).mono
    · refine event_becomes (taken.trans (if_neg fun acts => ?_))
      rcases alone with noGap | empty
      · rw [noGap] at acts
        cases acts.1
      · exact (gapIff.1 acts.2).2 ((congrArg Mir.replay mir).trans empty)
    · have outstanding : (takeAck k (arrived path s)).mir.replay ≠ [] := by rw [mir]; exact more
      have acts : gap = true ∧ gapActs next (takeAck k (arrived path s)) = true :=
        ⟨on, gapIff.2 ⟨by rw [mir]; nofun, outstanding⟩⟩
      have again := (taken.trans (if_pos acts)).trans (gapRetransmit_resent next outstanding room)
      have effect := firstRetransmission again (by rw [mir]; exact opened) outstanding (by rw [mir])
      rwa [cfg] at effect
    · have adds := takeAck_room (s := arrived path s) (k := k) room
      obtain ⟨prt, flt⟩ := adds_quiet adds
      have counts (c : Ctr) (one : only .holdRelAck 1 c + only .hitFwd 1 c = 1) (apart : counter (arrived path s) c = counter s c) :
          counter (takeAck k (arrived path s)) c = satAdd32 (counter s c) (s.hold.filter covered).length := by
        rw [adds.count, one, apart, Nat.mul_one]
        rfl
      exact ⟨prt, flt, counts .holdRelAck rfl (arrived_counter path s (by decide)),
        counts .hitFwd rfl (arrived_counter path s (by decide))⟩
    · rw [same.free]
      exact freeHandles_releaseRetired removes sorted distinct

end Sys2Proof.Proofs
end

section
/-! SUPPORT. An INSTALL with an enclosed frame (R35, R53 to R57, R60, R63, R64, R66, R74): the record of the session made, the judgment
of its first frame, and the offer of that frame to the hold queue; and the obligation about it. -/

-- One proof at a time: proofs that wait for earlier checks would each take a thread.
set_option Elab.async false

namespace Sys2Proof.Machine

open Sys2Proof.Safety

variable {s u : State} {h p q : Nat} {t : Tbl} {b b' : Body} {i : Install} {g : Frame}

/-! ## The record of a session made (R35) -/

/-- The record that an INSTALL leaves, with its CREATE marked while the stream is OPEN. -/
def madeRecord (h p q : Nat) (b : Body) (s : State) : Record :=
  { handleState := .live, epoch := (recordOf s h).epoch + 1#16, pending := if s.mir.stream = .closed then .none else .create
    removalReason := none, slotOrig := p, slotReply := q, anchorGood := true, bodyGood := true, body := b }

theorem madeRecord_listed : madeRecord h p q b s ≠ Record.fresh := fun e => by
  have := congrArg Record.handleState e
  cases this

theorem recordOf_sessionMade : recordOf (sessionMade h p q t b s) h = madeRecord h p q b s := by
  show (sparseFind (putRecord s.tbl.records h (madeRecord h p q b s)) h).getD Record.fresh = _
  rw [putRecord, if_neg madeRecord_listed, sparseFind_put, if_pos rfl]
  rfl

/-- The body of a session made is written over. -/
theorem setRecord_sessionMade : setRecord h { recordOf (sessionMade h p q t b s) h with body := b' } (sessionMade h p q t b s) =
    sessionMade h p q t b' s := by
  have twice : putRecord (putRecord s.tbl.records h (madeRecord h p q b s)) h (madeRecord h p q b' s) =
      putRecord s.tbl.records h (madeRecord h p q b' s) := by
    simp only [putRecord, if_neg madeRecord_listed, sparsePut_twice]
  have written : setRecord h (madeRecord h p q b' s) (sessionMade h p q t b s) = sessionMade h p q t b' s := by
    show ({ sessionMade h p q t b' s with tbl := { (sessionMade h p q t b' s).tbl with
      records := putRecord (putRecord s.tbl.records h (madeRecord h p q b s)) h (madeRecord h p q b' s) } } : State) = _
    rw [twice]
    rfl
  rw [recordOf_sessionMade]
  exact written

/-- An accepted first frame is written back without a mark: no mirrored group is present. -/
theorem writeBack_sessionMade (absent : b'.mirrored = none) :
    writeBack h b b' [] (sessionMade h p q t b s) = sessionMade h p q t b' s :=
  (writeBack_unmarked (.inr (.inl absent))).trans setRecord_sessionMade

/-! ## The offer to the hold queue (R74) -/

theorem offerHold_atOnce {hold : Bool} (no : hold = false ∨ (recordOf u h).pending ≠ .create) (f : Frame) :
    offerHold hold h f u = bump .hitFwd (handToPort .w f u) :=
  if_pos (no.imp_left fun off => by rw [off]; decide)

theorem offerHold_full {hold : Bool} (on : hold = true) (create : (recordOf u h).pending = .create) (full : 48 ≤ u.hold.length)
    (f : Frame) : offerHold hold h f u =
      bump .hitFwd (handToPort .w f (report .hld2 (ErrInfo.ofHandle h) (bump .holdFull u))) :=
  (if_neg fun no => no.elim (· on) (· create)).trans (if_pos full)

theorem offerHold_enters {hold : Bool} {l : List HoldEntry} {e : Word16} {n : Nat} (on : hold = true)
    (create : (recordOf u h).pending = .create) (held : u.hold = l) (room : l.length < 48) (epoch : (recordOf u h).epoch = e)
    (timeout : u.cfg.holdTimeout = n) (f : Frame) : offerHold hold h f u = bump .holdEnter { u with hold := l ++
      [{ handle := h, epoch := e, frame := f, timer := .running n, releaseSeq := none }] } := by
  subst held epoch timeout
  exact (if_neg fun no => no.elim (· on) (· create)).trans (if_neg (Nat.not_le.2 room))

/-! ## The first frame judged (R55 to R57, R60, R63, R64, R66) -/

/-- A window seeds at least 1. -/
theorem maxWord_one (x : Word16) : maxWord (x.setWidth 32) 1#32 = if x = 0#16 then 1#32 else x.setWidth 32 := by
  unfold maxWord
  by_cases zero : x = 0#16
  · subst zero
    rfl
  · have positive : 0 < x.toNat := Nat.pos_of_ne_zero fun z => zero (BitVec.eq_of_toNat_eq z)
    have width : (x.setWidth 32).toNat = x.toNat := by
      rw [BitVec.toNat_setWidth]
      omega
    rw [if_neg zero, if_neg]
    rw [width]
    exact Nat.not_lt.2 positive

/-- The first frame counts alone in its direction (R57 step 7). -/
theorem account_first {now : Word32} (seen : b.lastSeen = now) (packets : b.packetsOrig = 0#32) (bytes : b.bytesOrig = 0#48)
    (f : Frame) (off : Nat) : account b .orig (ipTotal f off) now =
      { b with packetsOrig := 1#32, bytesOrig := (word16At f (off + 2)).setWidth 48 } := by
  have sum : satAdd48 0#48 (ipTotal f off) = (word16At f (off + 2)).setWidth 48 := by
    have small : (word16At f (off + 2)).toNat < 65536 := (word16At f (off + 2)).isLt
    apply BitVec.eq_of_toNat_eq
    simp only [satAdd48, ipTotal, BitVec.toNat_ofNat, BitVec.toNat_setWidth]
    omega
  unfold account
  simp only [packets, bytes, sum, ← seen]
  rfl

variable {seg : Segment}

/-- The direction seeded by a first segment in OPEN (R66). -/
def firstSeed (seg : Segment) : DirTracker :=
  { DirTracker.unseeded with
    seeded := true, hiSeq := seg.finish, maxWin := if seg.window = 0#16 then 1#32 else seg.window.setWidth 32
    hiAck := if seg.hasAck = true then seg.ack else 0#32
    rightEdge := if seg.hasAck = true then seg.ack + seg.window.setWidth 32 else 0#32
    edgeValid := seg.hasAck }

theorem seedDir_first (seg : Segment) : seedDir DirTracker.unseeded seg (seg.window.setWidth 32) = firstSeed seg := by
  unfold seedDir firstSeed
  rw [maxWord_one]
  cases seg.hasAck <;> rfl

/-- What a SYN's options offer, beside the rest of its seed (R53 to R55). -/
theorem seedNew_eq (seg : Segment) : seedNew seg =
    ({ DirTracker.unseeded with
        seeded := true, hiSeq := seg.finish, maxWin := if seg.window = 0#16 then 1#32 else seg.window.setWidth 32
        scaleOffered := (scaleOffer seg).1.1, wscale := (scaleOffer seg).1.2 }, (scaleOffer seg).2) := by
  unfold seedNew scaleDir scaleOffer
  rw [maxWord_one]
  cases readOptions seg with
  | malformed => rfl
  | scale v =>
    cases v with
    | none => rfl
    | some v => by_cases large : 14 < v.toNat <;> simp only [large, if_true, if_false]

/-- A session just made by an INSTALL of TCP that is not NEW: OPEN, with nothing learned. -/
structure Unlearned (b : Body) : Prop where
  state : b.state = .opened
  orig  : b.dirOrig = DirTracker.unseeded
  reply : b.dirReply = DirTracker.unseeded

theorem failedCheckRst_unlearned (n : Unlearned b) (tol : Nat) : failedCheckRst b .orig seg tol = none := by
  unfold failedCheckRst passC1
  rw [show b.dir Dir.orig.other = DirTracker.unseeded from n.reply, show b.dir .orig = DirTracker.unseeded from n.orig]
  rfl

theorem windowOf_unlearned (n : Unlearned b) : windowOf b .orig seg = seg.window.setWidth 32 := by
  rw [windowOf_eq, n.orig]
  exact if_neg fun both => by cases both.1

theorem fits_unlearned (n : Unlearned b) : fits b .orig seg = !(seg.hasSyn && seg.hasFin) := by
  have unseeded : (b.dir .orig).seeded = false := by
    rw [show b.dir .orig = DirTracker.unseeded from n.orig]
    rfl
  simp [fits, n.state, unseeded]

/-- The body that a first segment in OPEN leaves, beside its count (R60, R66). -/
def firstBody (b : Body) (seg : Segment) : Body :=
  { b with
    state := if seg.hasFin = true then .drainOne else .opened
    finOrder := if seg.hasFin = true then some .orig else none
    dirOrig := { firstSeed seg with finEnd := if seg.hasFin = true then some seg.finish else none } }

/-- A first segment in OPEN that fits seeds its direction; its FIN begins the drain. -/
theorem judgeTcp_first (n : Unlearned b) (noOrder : b.finOrder = none) (rst : seg.hasRst = false)
    (fit : (seg.hasSyn && seg.hasFin) = false) (tol total : Nat) (now : Word32) :
    judgeTcp b .orig seg tol total now = .accept (account (firstBody b seg) .orig total now) [] := by
  have fitting : fits b .orig seg = true := by rw [fits_unlearned n, fit]; rfl
  have unseeded : (b.dir .orig).seeded = false := by
    rw [show b.dir .orig = DirTracker.unseeded from n.orig]
    rfl
  have moves : transition (b.setDir .orig (firstSeed seg)) .orig seg = (firstBody b seg, []) := by
    obtain ⟨state, -, -⟩ := n
    unfold transition firstBody
    rw [show (b.setDir .orig (firstSeed seg)).state = .opened from state]
    unfold finFromOpen
    cases seg.hasFin with
    | false =>
      show ({ b with dirOrig := firstSeed seg }, []) = (({ b with
        state := .opened, finOrder := none, dirOrig := { firstSeed seg with finEnd := none } } : Body), ([] : List ErrCode))
      rw [← state, ← noOrder]
      rfl
    | true => rfl
  rw [judgeTcp_seeds rst fitting unseeded, windowOf_unlearned n, show b.dir .orig = DirTracker.unseeded from n.orig, seedDir_first, moves]

/-! ## The enclosed frame (R56, R74) -/

theorem synFrame_of_cfg (cfg : u.cfg = s.cfg) (i : Install) : synFrame u i = synFrame s i := by
  unfold synFrame segmentOf headerOf
  rw [cfg]

/-- The frame of a session made by it is not judged again (R55). -/
theorem passEnclosed_syn (keeps : Touches [.flt] (sessionMade h p q t b s) u) (syn : synFrame s i = some g) :
    passEnclosed i h g u = offerHold i.hold h (rewriteFrame s.cfg s.zones b .orig g) u := by
  have cfg : u.cfg = s.cfg := keeps .cfg (by decide)
  have zones : u.zones = s.zones := keeps .zones (by decide)
  have record : recordOf u h = madeRecord h p q b s :=
    (congrArg (fun t : Tbl => t.record h) (keeps .tbl (by decide))).trans recordOf_sessionMade
  have taken : passEnclosed i h g u = offerHold i.hold h (rewriteFrame u.cfg u.zones (recordOf u h).body .orig g) u :=
    if_pos (by rw [synFrame_of_cfg cfg, syn]; rfl)
  rw [taken, cfg, zones, record]
  rfl

theorem passEnclosed_accepted {ns : List ErrCode} (noSyn : synFrame u i = none)
    (j : judge (recordOf u h).body .orig g (headerOf u g).off (tolerance u) u.tim.seconds = .accept b' ns) :
    passEnclosed i h g u = offerHold i.hold h (rewriteFrame u.cfg u.zones (recordOf u h).body .orig g)
      (writeBack h (recordOf u h).body b' ns u) := by
  unfold passEnclosed
  simp only [noSyn, j]
  rfl

theorem passEnclosed_refused {c : Ctr} (noSyn : synFrame u i = none)
    (j : judge (recordOf u h).body .orig g (headerOf u g).off (tolerance u) u.tim.seconds = .refuse c) :
    passEnclosed i h g u = refuseFrame c i.origKey.zone.toNat h g u := by
  unfold passEnclosed
  simp only [noSyn, j]
  rfl

/-! ## The install (R33, R35, R55) -/

section install

variable {r : Request} (length : installLengthGood r = true) (frame : (readInstall r.payload).frame = some g)
  (active : s.pai.role.isActive = true) (good : installGood s.zones (readInstall r.payload) = true)
  (enclosed : enclosedGood s (readInstall r.payload) = true) (noOrig : Misses s (readInstall r.payload).origKey)
  (noReply : Misses s (readInstall r.payload).replyKey) (head : freeHead s.tbl.free = some h)
  (ins : s.tbl.insertKeys s.cfg.hashSeed (readInstall r.payload).origKey (readInstall r.payload).replyKey h = some (t, p, q))

include length frame active good enclosed noOrig noReply head ins

/-- An INSTALL whose checks pass makes its session, and its frame goes to the tracker. -/
theorem answerInstall_enclosing : answerInstall r s =
    (passEnclosed (readInstall r.payload) h g
      ((newBody s (readInstall r.payload)).2.foldl (fun u c => report c (ErrInfo.ofHandle h) u)
        (sessionMade h p q t (newBody s (readInstall r.payload)).1 s)),
      { status := .ok, payload := sessionPayload h ((recordOf s h).epoch + 1#16) none }) := by
  refine ((if_pos length).trans (install_unknown active good enclosed noOrig noReply)).trans ?_
  rw [installFree_enclosing head ins frame, makeSession_eq ins]

end install

/-- Errors filed leave all but the report unit. -/
theorem reports_keep (ns : List ErrCode) (e : ErrInfo) (s : State) :
    Touches [.flt] s (ns.foldl (fun u c => report c e u) s) := Touches.foldl (fun u c => report_touches c e u) ns s

theorem judge_tcp (opened : b.state = .opened) (d : Dir) (f : Frame) (ip tol : Nat) (now : Word32) :
    judge b d f ip tol now = judgeTcp b d (readSegment f ip) tol (ipTotal f ip) now := if_neg (by rw [opened]; decide)

theorem judge_flow (flow : b.state = .flow) (d : Dir) (f : Frame) (ip tol : Nat) (now : Word32) :
    judge b d f ip tol now = .accept (account b d (ipTotal f ip) now) [] := if_pos flow

/-- Only a SYN alone makes a TCP session NEW (R55). -/
theorem synFrame_none (frame : i.frame = some g) (other : i.origKey.proto ≠ 6#8 ∨ (segmentOf s g).pureSyn = false) :
    synFrame s i = none := by
  unfold synFrame
  split
  · next tcp => rw [frame, Option.filter_some, other.resolve_left (not_not.2 tcp)]; rfl
  · rfl

theorem synFrame_some (frame : i.frame = some g) (tcp : i.origKey.proto = 6#8) (syn : (segmentOf s g).pureSyn = true) :
    synFrame s i = some g := by
  unfold synFrame
  rw [if_pos tcp, frame, Option.filter_some, syn]
  rfl

/-- The body that an enclosed SYN gives a session, beside its count (R55). -/
def synBody (b : Body) (seg : Segment) : Body :=
  { b with
    state := .new
    dirOrig := { DirTracker.unseeded with
      seeded := true, hiSeq := seg.finish, maxWin := if seg.window = 0#16 then 1#32 else seg.window.setWidth 32
      scaleOffered := (scaleOffer seg).1.1, wscale := (scaleOffer seg).1.2 } }

/-- A session made NEW, and the errors of the SYN's options (R53 to R55). -/
theorem newBody_syn (syn : synFrame s i = some g) : newBody s i =
    ({ synBody (installedBody i s) (segmentOf s g) with
        packetsOrig := 1#32, bytesOrig := (word16At g ((headerOf s g).off + 2)).setWidth 48 },
      (scaleOffer (segmentOf s g)).2) := by
  unfold newBody
  rw [syn]
  simp only
  rw [seedNew_eq]
  exact Prod.ext (account_first (now := s.tim.seconds) rfl rfl rfl g (headerOf s g).off) rfl

/-- The rewrite reads none of what a SYN teaches (R17, R18). -/
theorem rewriteFrame_syn (cfg : ConfigRec) (zs : Vector Zone 8) (b : Body) (seg : Segment) (n : Word32) (m : BitVec 48) (f : Frame) :
    rewriteFrame cfg zs { synBody b seg with packetsOrig := n, bytesOrig := m } .orig f = rewriteFrame cfg zs b .orig f := rfl

end Sys2Proof.Machine

namespace Sys2Proof.Proofs

open Sys2Proof.Machine Sys2Proof.Safety

/-- Settles O30: the session is made with the body that its frame gives it, at the install or by the tracker, and the frame is
offered to the hold queue, or refused. -/
theorem protectedInstallHoldsItsFrame : Obligations.ProtectedInstallHoldsItsFrame := by
  intro s r rest h p q t' g waits command length i frame active good enclosed noOrig noReply head ins epoch ok seg tcp plain made
    counted maxWin out offered
  have answer := answerInstall_enclosing (s := dequeue rest s) length frame active good enclosed noOrig noReply head ins
  have replied {u : State} (e : answerInstall r (dequeue rest s) = (u, ok)) : ∃ t, exec .install s = .next t ∧ Replied r ok u t :=
    ⟨_, rfl, taken_replied waits (install_row waits command) _ e⟩
  -- a frame offered to the hold queue behind a session made, and errors filed
  have offer (b : Body) (u : State) (keeps : Touches [.flt] (made b) u)
      (e : answerInstall r (dequeue rest s) = (offerHold i.hold h out u, ok)) : offered u := by
    obtain ⟨t, next, reply⟩ := replied e
    have record : recordOf u h = madeRecord h p q b (dequeue rest s) :=
      (congrArg (fun t : Tbl => t.record h) (keeps .tbl (by decide))).trans recordOf_sessionMade
    have hold : u.hold = s.hold := keeps .hold (by decide)
    have cfg : u.cfg = s.cfg := keeps .cfg (by decide)
    have marked (opened : s.mir.stream = .opened) : (recordOf u h).pending = .create := by
      rw [record]
      exact if_neg (by rw [show (dequeue rest s).mir.stream = .opened from opened]; decide)
    refine ⟨t, next, fun no => ?_, fun on opened full => ?_, fun on opened room => ?_⟩
    · rw [← offerHold_atOnce (no.imp_right fun closed => ?_) out]
      · exact reply
      · rw [record]
        exact fun c => by cases (if_pos closed).symm.trans c
    · rw [← offerHold_full on (marked opened) (by rw [hold]; exact full) out]
      exact reply
    · rw [offerHold_enters on (marked opened) hold room (congrArg Record.epoch record) (congrArg ConfigRec.holdTimeout cfg) out] at reply
      exact reply
  -- a frame that the tracker judges
  have judged (noSyn : synFrame (dequeue rest s) i = none) : answerInstall r (dequeue rest s) =
      (passEnclosed i h g (made plain), ok) := by
    rw [answer, newBody_plain noSyn]
    rfl
  have accepted (b : Body) (noSyn : synFrame (dequeue rest s) i = none) (seen : b.lastSeen = s.tim.seconds)
      (packets : b.packetsOrig = 0#32) (bytes : b.bytesOrig = 0#48) (absent : b.mirrored = none)
      (j : judge plain .orig g (headerOf s g).off (tolerance s) s.tim.seconds =
        .accept (account b .orig (ipTotal g (headerOf s g).off) s.tim.seconds) []) : offered (made (counted b)) := by
    rw [account_first seen packets bytes] at j
    have record : (recordOf (made plain) h).body = plain := congrArg Record.body recordOf_sessionMade
    refine offer _ _ (Touches.refl _) ((judged noSyn).trans (congrArg (·, ok) ?_))
    rw [passEnclosed_accepted (u := made plain) noSyn (by rw [record]; exact j), record]
    exact congrArg (offerHold i.hold h out) (writeBack_sessionMade (b' := counted b) absent)
  refine ⟨fun other => ?_, fun tcp syn ack fin rst => ?_, fun tcp rst => ?_, fun tcp rst fit => ?_, fun tcp rst syn fin => ?_⟩
  · exact accepted plain (synFrame_none frame (.inl other)) rfl rfl rfl rfl (judge_flow (if_neg other) _ _ _ _ _)
  · have alone : (segmentOf (dequeue rest s) g).pureSyn = true := by
      show seg.pureSyn = true
      unfold Segment.pureSyn
      rw [syn, ack, fin, rst]
      rfl
    have isSyn := synFrame_some (s := dequeue rest s) frame tcp alone
    have body : newBody (dequeue rest s) i = (counted (synBody plain seg), (scaleOffer seg).2) := newBody_syn isSyn
    rw [body] at answer
    have keeps := reports_keep (scaleOffer seg).2 (ErrInfo.ofHandle h) (made (counted (synBody plain seg)))
    have passed := passEnclosed_syn (i := i) keeps isSyn
    rw [rewriteFrame_syn] at passed
    exact offer _ _ keeps (answer.trans (congrArg (·, ok) passed))
  all_goals
    have opened : plain.state = .opened := if_pos tcp
    have unlearned : Unlearned plain := ⟨opened, rfl, rfl⟩
    have judges := judge_tcp opened .orig g (headerOf s g).off (tolerance s) s.tim.seconds
  · refine accepted { plain with state := .linger } (synFrame_none frame (.inr ?_)) rfl rfl rfl rfl
      (judges.trans (judgeTcp_rst rst (failedCheckRst_unlearned unlearned _) _ _))
    show seg.pureSyn = false
    unfold Segment.pureSyn
    rw [rst]
    simp
  · refine accepted (firstBody plain seg) (synFrame_none frame (.inr ?_)) rfl rfl rfl rfl
      (judges.trans (judgeTcp_first unlearned rfl rst ?_ _ _ _))
    · show seg.pureSyn = false
      unfold Segment.pureSyn
      rcases fit with syn | ⟨ack, -⟩
      · rw [syn]; rfl
      · rw [ack]; simp
    · show (seg.hasSyn && seg.hasFin) = false
      rcases fit with syn | ⟨-, fin⟩
      · rw [syn]; rfl
      · rw [fin]; simp
  · intro refused
    have notAlone : (segmentOf (dequeue rest s) g).pureSyn = false := by
      show seg.pureSyn = false
      unfold Segment.pureSyn
      rw [fin]
      simp
    have noSyn := synFrame_none (s := dequeue rest s) frame (.inr notAlone)
    have unfit : fits plain .orig seg = false := by
      rw [fits_unlearned unlearned, syn, fin]
      rfl
    have refuses := judges.trans (judgeTcp_unfit rst (fun linger => by cases opened.symm.trans linger.1) unfit _ _)
    have record : (recordOf (made plain) h).body = plain := congrArg Record.body recordOf_sessionMade
    have answer := (judged noSyn).trans (congrArg (·, ok) (passEnclosed_refused (u := made plain) noSyn
      (by rw [record]; exact refuses)))
    obtain ⟨t, next, reply⟩ := replied answer
    refine ⟨t, next, fun policy => ?_, fun policy => ?_⟩
    · rw [refuseFrame_exception (s := made plain) policy] at reply
      exact reply
    · rw [refuseFrame_drop (s := made plain) policy] at reply
      exact reply

end Sys2Proof.Proofs
end

section
/-! SUPPORT. Damage found by a READ, by a FIND and by the patrol (R42, R44 to R46, R161, R171): what a failed check leaves, the lookup
behind a slot that fails, the visits around one that fails; and the obligation about them. -/

-- One proof at a time: proofs that wait for earlier checks would each take a thread.
set_option Elab.async false

namespace Sys2Proof.Machine

open Sys2Proof.Safety

variable {s u v : State} {h pos : Nat} {sl : Slot}

/-! ## A slot that fails its check (R44, R46) -/

/-- A slot has a parity failure. -/
abbrev Damaged (sl : Slot) : Prop := sl.refGood = false ∨ sl.keyGood = false

/-- The LIVE record that a slot with a damaged key names claims it. -/
abbrev Claimed (s : State) (pos : Nat) (sl : Slot) : Prop :=
  sl.refGood = true ∧ sl.keyGood = false ∧ (recordOf s sl.handle).handleState = .live ∧
    ((recordOf s sl.handle).slotOrig = pos ∨ (recordOf s sl.handle).slotReply = pos)

theorem claims_iff (r : Record) (pos : Nat) :
    claims r pos = true ↔ r.handleState = .live ∧ (r.slotOrig = pos ∨ r.slotReply = pos) := by
  simp only [claims, Bool.and_eq_true, Bool.or_eq_true, beq_iff_eq]

theorem damaged_not_good (damaged : Damaged sl) : ¬ (sl.refGood = true ∧ sl.keyGood = true) := by
  rintro ⟨ref, key⟩
  rcases damaged with bad | bad
  · exact Bool.false_ne_true (bad.symm.trans ref)
  · exact Bool.false_ne_true (bad.symm.trans key)

/-- The session that claims a slot with a damaged key is lost. -/
theorem checkSlot_claimed (at_ : s.tbl.slot pos = some sl) (claimed : Claimed s pos sl) : checkSlot pos s =
    (removeParity sl.handle false (bump .paritySlot (report .tbl1 (ErrInfo.ofHandle sl.handle) s)), .removed) := by
  obtain ⟨ref, key, live, names⟩ := claimed
  unfold checkSlot
  simp only [at_]
  rw [if_neg (damaged_not_good (.inr key)), if_pos ⟨ref, (claims_iff _ pos).2 ⟨live, names⟩⟩]

/-- A damaged slot that no session claims clears the table. -/
theorem checkSlot_lost (at_ : s.tbl.slot pos = some sl) (damaged : Damaged sl) (unclaimed : ¬ Claimed s pos sl) :
    checkSlot pos s = (tableFault (ErrInfo.ofSeq pos) .paritySlot s, .cleared) := by
  unfold checkSlot
  simp only [at_]
  rw [if_neg (damaged_not_good damaged), if_neg]
  rintro ⟨ref, claims⟩
  obtain ⟨live, names⟩ := (claims_iff _ pos).1 claims
  exact unclaimed ⟨ref, damaged.resolve_left (by rw [ref]; decide), live, names⟩

/-- A session lost to a damaged key, on either side of the pair (R45). -/
theorem removeParity_eq (h : Nat) (g : Bool) (s : State) : removeParity h g s =
    if s.pai.role.isStandby = true then joinRefresh h (removeSession h .parity g s) else removeSession h .parity g s := rfl

/-! ## What a TBL3 leaves (R46) -/

/-- A TBL3 filed in v leaves w, in a part of role `role`: outside DETACHED and FAULTED the role changes first (R178). -/
abbrev Clears (role : Role) (v w : State) : Prop :=
  ((role ≠ .detached ∧ role ≠ .faulted) ∧ ∃ u, RoleChanged role .faulted .faultError v u ∧
    w = bumpBy .holdDropRemoved u.hold.length { u with tbl := Tbl.cleared, hold := [] }) ∨
  ((role = .detached ∨ role = .faulted) ∧ w = bumpBy .holdDropRemoved v.hold.length { v with tbl := Tbl.cleared, hold := [] })

theorem tableFault_clears (e : u.pai.role = s.pai.role) (i : ErrInfo) (c : Ctr) :
    Clears s.pai.role (report .tbl3 i (bump c u)) (tableFault i c u) := by
  by_cases carries : s.pai.role ≠ .detached ∧ s.pai.role ≠ .faulted
  · refine .inl ⟨carries, _, changeRole_from (v := report .tbl3 i (bump c u)) e .faulted .faultError, ?_⟩
    exact tableFault_carried (by rw [e]; exact carries) i c
  · have stays : s.pai.role = .detached ∨ s.pai.role = .faulted := by
      by_contra neither
      exact carries (not_or.1 neither)
    exact .inr ⟨stays, tableFault_filed (by rw [e]; exact stays) i c⟩

theorem recordOf_tableFault (i : ErrInfo) (c : Ctr) (s : State) (k : Nat) : recordOf (tableFault i c s) k = Record.fresh := rfl

/-! ## A READ of one record (R42, R171) -/

section read

variable {r : Request}

/-- A READ of one SESSION entry captures that entry. -/
theorem answerRead_session (object : r.object = 4) (one : r.count = 1) (mode : r.stepMode < 3) (clear : r.clear = false)
    (within : r.index < 32768) (s : State) : answerRead r s =
      ((checkRecord r.index s).1, { status := .ok, payload := sessionEntry (recordOf (checkRecord r.index s).1 r.index) }) := by
  have place : entryPlace r 0 = r.index := by
    unfold entryPlace
    obtain mode | mode | mode : r.stepMode = 0 ∨ r.stepMode = 1 ∨ r.stepMode = 2 := by omega
    all_goals rw [mode]; rfl
  have code : Object.ofCode r.object = some .session := by rw [object]; rfl
  have fields : fieldsAllowed r := ⟨by omega, by omega, by omega⟩
  have places : placesWithin r 32768 := by
    refine ⟨by omega, fun k below => ?_⟩
    obtain rfl : k = 0 := by omega
    rw [place]
    exact within
  have access := (checkAccess_read .session r code).2.2.2 ⟨fields, by rw [clear]; exact nofun⟩ places
    (by rw [one]; decide)
  rw [one, List.range_one, List.map_singleton, place] at access
  unfold answerRead
  rw [access]
  simp only [captureAll, capture, entryBytes, List.append_nil]

theorem sessionEntry_fresh : sessionEntry Record.fresh = zeros 128 := by decide

end read

/-! ## A lookup behind a slot that fails (R31, R44) -/

theorem checkSlots_append {pre : List Nat} (good : ∀ p ∈ pre, ∀ sl, s.tbl.slot p = some sl → sl.keyGood = true ∧ sl.refGood = true)
    (ps : List Nat) : checkSlots (pre ++ ps) s = checkSlots ps s := by
  induction pre with
  | nil => rfl
  | cons p pre ih =>
    rw [List.forall_mem_cons] at good
    rw [List.cons_append, checkSlots, checkSlot_intact good.1]
    exact ih good.2

/-- A slot whose session is lost is passed: the lookup goes on in the state that is left, where nothing else is damaged. -/
theorem lookup_passes {k : Key} {pre post : List Nat} (order : keyPositions s.cfg.hashSeed k = pre ++ pos :: post)
    (good : ∀ p ∈ pre, ∀ sl, s.tbl.slot p = some sl → sl.keyGood = true ∧ sl.refGood = true)
    (check : checkSlot pos s = (v, .removed)) (seed : v.cfg.hashSeed = s.cfg.hashSeed) (intact : slotsIntact v k) :
    lookup k s = lookup k v := by
  have later : checkSlots post v = (v, false) := by
    refine checkSlots_intact post v fun p mem => intact p ?_
    rw [seed, order]
    exact List.mem_append_right pre (List.mem_cons_of_mem pos mem)
  have slots : checkSlots (keyPositions s.cfg.hashSeed k) s = (v, false) := by
    rw [order, checkSlots_append good, checkSlots, check]
    exact later
  have slots' : checkSlots (keyPositions v.cfg.hashSeed k) v = (v, false) := checkSlots_intact _ v intact
  unfold lookup
  rw [slots, slots']

/-- A slot that clears the table ends the lookup with a miss. -/
theorem lookup_clears {k : Key} {pre post : List Nat} (order : keyPositions s.cfg.hashSeed k = pre ++ pos :: post)
    (good : ∀ p ∈ pre, ∀ sl, s.tbl.slot p = some sl → sl.keyGood = true ∧ sl.refGood = true)
    (check : checkSlot pos s = (v, .cleared)) : lookup k s = (v, none) := by
  have slots : checkSlots (keyPositions s.cfg.hashSeed k) s = (v, true) := by
    rw [order, checkSlots_append good, checkSlots, check]
  unfold lookup
  rw [slots]

/-- A FIND goes on from the state in which its lookup does. -/
theorem answerFind_passes {r : Request} (length : r.length = 16) (same : lookup (readKey r.payload 0) s = lookup (readKey r.payload 0) v) :
    answerFind r s = answerFind r v := by
  unfold answerFind
  rw [if_neg (not_not.2 length), if_neg (not_not.2 length), same]

/-- A FIND whose lookup ends with a cleared table misses. -/
theorem answerFind_ends {r : Request} (length : r.length = 16) (ends : lookup (readKey r.payload 0) s = (v, none)) :
    answerFind r s = (v, { status := .ok, payload := findMiss }) := by
  unfold answerFind
  rw [if_neg (not_not.2 length), ends]

theorem removeParity_cfg (h : Nat) (g : Bool) (s : State) : (removeParity h g s).cfg = s.cfg :=
  removeParity_touches h g s .cfg (by decide)

/-! ## Visits that find nothing damaged, before and behind one that does (R161) -/

/-- What is damaged in s stands in a as it did, and what is LIVE in a is LIVE in s. -/
structure Spares (s a : State) : Prop where
  pai     : a.pai = s.pai
  records : sparseSorted a.tbl.records = true
  slots   : sparseSorted a.tbl.slots = true
  live    : ∀ k, (recordOf a k).handleState = .live → recordOf a k = recordOf s k
  damaged : ∀ k, ¬ visitIntact s k → recordOf a k = recordOf s k
  kept    : ∀ q sl, s.tbl.slot q = some sl → Damaged sl → a.tbl.slot q = some sl
  fewer   : ∀ q sl, a.tbl.slot q = some sl → s.tbl.slot q = some sl
  visits  : ∀ k, visitIntact a k ↔ visitIntact s k

theorem Spares.refl (records : sparseSorted s.tbl.records = true) (slots : sparseSorted s.tbl.slots = true) : Spares s s :=
  ⟨rfl, records, slots, fun _ _ => rfl, fun _ _ => rfl, fun _ _ at_ _ => at_, fun _ _ at_ => at_, fun _ => Iff.rfl⟩

theorem Spares.trans {t : State} (first : Spares s u) (second : Spares u t) : Spares s t where
  pai := second.pai.trans first.pai
  records := second.records
  slots := second.slots
  live k live := by
    have same := second.live k live
    exact same.trans (first.live k (same ▸ live))
  damaged k bad := (second.damaged k (mt (first.visits k).1 bad)).trans (first.damaged k bad)
  kept q sl at_ bad := second.kept q sl (first.kept q sl at_ bad) bad
  fewer q sl at_ := first.fewer q sl (second.fewer q sl at_)
  visits k := (second.visits k).trans (first.visits k)

theorem not_damaged (good : ¬ Damaged sl) : sl.keyGood = true ∧ sl.refGood = true := by
  obtain ⟨ref, key⟩ := not_or.1 good
  exact ⟨Bool.eq_true_of_not_eq_false key, Bool.eq_true_of_not_eq_false ref⟩

/-- The removal of a LIVE handle at a visit that finds nothing damaged spares what is damaged elsewhere. -/
theorem removeSession_spares (records : sparseSorted s.tbl.records = true) (slots : sparseSorted s.tbl.slots = true)
    (intact : visitIntact s h) (live : (recordOf s h).handleState = .live) (q : RemovalReason) :
    Spares s (removeSession h q false s) := by
  have removed := removeSession_removed records slots live q false
  obtain ⟨records', slots'⟩ := removeSession_sorted records slots h q false
  generalize removeSession h q false s = u at removed records' slots'
  have dead : (recordOf u h).handleState ≠ .live := by
    rw [removed.record]
    split <;> nofun
  have others (k : Nat) (other : k ≠ h) : recordOf u k = recordOf s k := removed.others k other
  have kept (p : Nat) (sl : Slot) (at_ : s.tbl.slot p = some sl) (bad : Damaged sl) : u.tbl.slot p = some sl := by
    rw [removed.slots, if_neg, at_]
    rintro (rfl | rfl)
    · exact damaged_not_good bad (intact.2 live sl (.inl at_)).symm
    · exact damaged_not_good bad (intact.2 live sl (.inr at_)).symm
  refine ⟨removed.blocks .pai (by decide), records', slots', fun k alive => others k ?_, fun k bad => others k ?_, kept,
    fun p sl at_ => ?_, fun k => ⟨fun sound => ?_, removed_intact removed k⟩⟩
  · rintro rfl
    exact dead alive
  · rintro rfl
    exact bad intact
  · rw [removed.slots] at at_
    split at at_
    · cases at_
    · exact at_
  · by_cases same : k = h
    · rw [same]
      exact intact
    · unfold visitIntact recordIntact at sound ⊢
      rw [others k same] at sound
      refine ⟨sound.1, fun alive sl names => not_damaged fun bad => ?_⟩
      exact damaged_not_good bad (sound.2 alive sl (names.imp (kept _ sl · bad) (kept _ sl · bad))).symm

/-- Visits that find nothing damaged spare what is damaged elsewhere. -/
theorem visits_spare {hs : List Nat} (records : sparseSorted s.tbl.records = true) (slots : sparseSorted s.tbl.slots = true)
    (intact : ∀ k ∈ hs, visitIntact s k) : Spares s (hs.foldl visitHandle s) := by
  induction hs generalizing s with
  | nil => exact Spares.refl records slots
  | cons k hs ih =>
    rw [List.forall_mem_cons] at intact
    obtain ⟨here, later⟩ := intact
    have visit : Spares s (visitHandle s k) := by
      by_cases old : (recordOf s k).handleState = .live ∧ isOld s k
      · rw [visitHandle_old here old.1 old.2]
        exact removeSession_spares records slots here old.1 .expired
      · rw [visitHandle_young here (not_and.1 old)]
        exact Spares.refl records slots
    exact visit.trans (ih visit.records visit.slots fun j mem => (visit.visits j).2 (later j mem))

/-- On a cleared table visits change nothing. -/
theorem visits_cleared (fresh : ∀ k, recordOf s k = Record.fresh) (hs : List Nat) : hs.foldl visitHandle s = s := by
  have dead (k : Nat) : (recordOf s k).handleState ≠ .live := by
    rw [fresh]
    nofun
  refine visits_young (fun k _ => ⟨?_, fun live => absurd live (dead k)⟩) fun k _ live => absurd live (dead k)
  unfold recordIntact
  rw [fresh]
  exact ⟨rfl, rfl⟩

/-! ## A visit that finds something damaged (R161) -/

theorem visitHandle_record {c : Checked} (check : checkRecord h s = (v, c)) (bad : c ≠ .good) : visitHandle s h = v := by
  unfold visitHandle
  rw [check]
  cases c with
  | good => exact absurd rfl bad
  | removed => rfl
  | cleared => rfl

theorem visitSlot_bad {c : Checked} (check : checkSlot pos s = (v, c)) (bad : c ≠ .good) (go : State → State) :
    visitSlot pos go s = v := by
  unfold visitSlot
  rw [check]
  cases c with
  | good => exact absurd rfl bad
  | removed => rfl
  | cleared => rfl

theorem visitSlot_good (good : ∀ sl, s.tbl.slot pos = some sl → sl.keyGood = true ∧ sl.refGood = true) (go : State → State) :
    visitSlot pos go s = go s := by
  unfold visitSlot
  rw [checkSlot_intact good]

/-- The slot that fails is the first of the record's two, or the second behind a good first. -/
theorem visitHandle_slot {c : Checked} (intact : recordIntact s h) (live : (recordOf s h).handleState = .live)
    (names : pos = (recordOf s h).slotOrig ∨ (pos = (recordOf s h).slotReply ∧
      ∀ sl, s.tbl.slot (recordOf s h).slotOrig = some sl → sl.keyGood = true ∧ sl.refGood = true))
    (check : checkSlot pos s = (v, c)) (bad : c ≠ .good) : visitHandle s h = v := by
  unfold visitHandle
  rw [checkRecord_intact intact]
  simp only [live, if_true]
  obtain rfl | ⟨rfl, good⟩ := names
  · exact visitSlot_bad check bad _
  · rw [visitSlot_good good]
    exact visitSlot_bad check bad _

/-- A visit to a LIVE handle that names a damaged slot finds it. -/
theorem visit_damaged (live : (recordOf s h).handleState = .live)
    (names : (recordOf s h).slotOrig = pos ∨ (recordOf s h).slotReply = pos) (at_ : s.tbl.slot pos = some sl)
    (bad : Damaged sl) : ¬ visitIntact s h := by
  intro sound
  refine damaged_not_good bad (sound.2 live sl ?_).symm
  rcases names with rfl | rfl
  · exact .inl at_
  · exact .inr at_

theorem recordIntact_congr {a : State} (same : recordOf a h = recordOf s h) : recordIntact a h ↔ recordIntact s h := by
  unfold recordIntact
  rw [same]

/-! ## The patrol step around such a visit -/

theorem removeParity_active (active : s.pai.role.isActive = true) (h : Nat) (g : Bool) :
    removeParity h g s = removeSession h .parity g s := by
  refine (removeParity_eq h g s).trans (if_neg fun standby => ?_)
  revert active standby
  cases s.pai.role <;> decide

/-- A patrol step ends as its visits left it, behind the step, after at most one notice. -/
theorem patrolStep_noticed (running : s.tim.running = true) (due : s.tim.patrolDue = true) (active : s.pai.role.isActive = true)
    (visits : (patrolled s).foldl visitHandle s = u) :
    ∃ t, exec .patrolStep s = .next t ∧ Noticed (patrolBehind s u) t := by
  have waits : patrolWaits s = true := by rw [patrolWaits, due, active]; rfl
  exact ⟨_, rfl, atTick_noticed running waits (by rw [patrolStep_behind, visits])⟩

section around

variable {a : State} {pre post : List Nat}

/-- A visit that costs one session: the sessions old at the later visits go as EXPIRED. -/
theorem visits_go_on {k : Nat} {g : Bool} (before : pre.foldl visitHandle s = a) (spares : Spares s a)
    (active : s.pai.role.isActive = true) (later : ∀ k ∈ post, visitIntact s k) (tbl : u.tbl = a.tbl) (pai : u.pai = a.pai)
    (live : (recordOf s k).handleState = .live) (same : recordOf a k = recordOf s k)
    (visit : visitHandle a h = removeParity k g u) :
    ∃ v, Removed k .parity (g || (recordOf s k).body.mirrored.isSome) u v ∧
      Ages post v ((pre ++ h :: post).foldl visitHandle s) := by
  have record (j : Nat) : recordOf u j = recordOf a j := congrArg (fun t : Tbl => t.record j) tbl
  have records := tbl ▸ spares.records
  have slots := tbl ▸ spares.slots
  have removed := removeSession_removed records slots (((record k).trans same).symm ▸ live) .parity g
  obtain ⟨records', slots'⟩ := removeSession_sorted records slots k .parity g
  rw [record, same] at removed
  refine ⟨_, removed, ?_⟩
  rw [List.foldl_append, List.foldl_cons, before, visit, removeParity_active (by rw [pai, spares.pai]; exact active)]
  refine visits_age records' slots' fun j mem => removed_intact removed j ?_
  have sound := (spares.visits j).2 (later j mem)
  unfold visitIntact recordIntact at sound ⊢
  rw [record, tbl]
  exact sound

/-- A visit that clears the table is the last that finds anything. -/
theorem visits_end {i : ErrInfo} {c : Ctr} (before : pre.foldl visitHandle s = a) (visit : visitHandle a h = tableFault i c a) :
    (pre ++ h :: post).foldl visitHandle s = tableFault i c a := by
  rw [List.foldl_append, List.foldl_cons, before, visit]
  exact visits_cleared (recordOf_tableFault i c _) post

end around

end Sys2Proof.Machine

namespace Sys2Proof.Proofs

open Sys2Proof.Safety Sys2Proof.Machine

/-- Settles O29: a check that fails costs the session (`checkRecord_body`, `checkSlot_claimed`) or clears the table
(`checkRecord_anchor`, `checkSlot_lost`, `tableFault_clears`); a lookup goes on behind the first or ends, and so do the visits of
a patrol step, whose earlier visits spare what is damaged (`visits_spare`). -/
theorem damagedRecordIsRemovedOrClears : Obligations.DamagedRecordIsRemovedOrClears := by
  intro s cleared clears goodSlot claimed lost records slots
  refine ⟨fun r rest w command object one mode clear within => ?_, fun r rest pre post pos sl w command length order good at_ => ?_,
    fun pre post h running due active order before => ?_⟩
  · intro s0
    have row : r.row = .read := by
      rw [read_row w command, object]
      rfl
    have answer := answerRead_session object one mode clear within s0
    refine ⟨fun anchor => ?_, fun anchor live body => ?_⟩
    · rw [checkRecord_anchor (s := s0) anchor, recordOf_tableFault, sessionEntry_fresh] at answer
      exact ⟨_, _, rfl, tableFault_clears (s := s) (u := s0) rfl _ .parityRecord, taken_replied w row answerRead answer⟩
    · rw [checkRecord_body (s := s0) anchor live body, removeParity_eq] at answer
      refine ⟨_, _, rfl, removeSession_removed (s := bump .parityRecord (report .tbl2 (ErrInfo.ofHandle r.index) s0))
        records slots live .parity true, taken_replied w row answerRead (answer.trans ?_)⟩
      simp only [apply_ite (recordOf · r.index), joinRefresh_recordOf, ite_self]
      rfl
  · intro s0
    have row := find_row w command
    refine ⟨fun claim => ?_, fun lose => ?_⟩
    · have check := checkSlot_claimed (s := s0) at_ claim
      have seed := congrArg (·.hashSeed) (removeParity_cfg sl.handle false
        (bump .paritySlot (report .tbl1 (ErrInfo.ofHandle sl.handle) s0)))
      rw [removeParity_eq] at check seed
      have passes (v : State) (e : checkSlot pos s0 = (v, .removed)) (seed : v.cfg.hashSeed = s.cfg.hashSeed)
          (intact : slotsIntact v (readKey r.payload 0)) : answerFind r s0 = answerFind r v :=
        answerFind_passes length (lookup_passes order good e seed intact)
      refine ⟨_, _, _, removeSession_removed (s := bump .paritySlot (report .tbl1 (ErrInfo.ofHandle sl.handle) s0))
        records slots claim.2.2.1 .parity false, rfl, rfl, fun misses => ?_,
        fun h d finds => ?_⟩
      · exact taken_replied w row answerFind ((passes _ check seed misses.1).trans (answerFind_miss length misses))
      · exact taken_replied w row answerFind ((passes _ check seed finds.1).trans (answerFind_hit length finds))
    · have check := checkSlot_lost (s := s0) at_ lose.1 lose.2
      exact ⟨_, _, rfl, tableFault_clears (s := s) (u := s0) rfl _ .paritySlot,
        taken_replied w row answerFind (answerFind_ends length (lookup_clears order good check))⟩
  · intro steps goesOn ends
    have ages := visits_age records slots before
    have spares := visits_spare records slots before
    have role : (pre.foldl visitHandle s).pai.role = s.pai.role := congrArg (·.role) spares.pai
    have made : steps ((pre ++ h :: post).foldl visitHandle s) := patrolStep_noticed running due active (by rw [order])
    generalize visited : pre.foldl visitHandle s = a at ages spares role
    have last (i : ErrInfo) (c : Ctr) (visit : visitHandle a h = tableFault i c a) : ends fun a => report .tbl3 i (bump c a) :=
      ⟨_, _, ages, tableFault_clears role i c, visits_end visited visit ▸ made⟩
    refine ⟨fun anchor => last _ _ ?_, fun anchor live body later => ?_, fun pos sl intact live names at_ => ?_⟩
    · have same := spares.damaged h fun sound => Bool.false_ne_true (anchor.symm.trans sound.1.1)
      exact visitHandle_record (checkRecord_anchor (same ▸ anchor)) nofun
    · have same := spares.damaged h fun sound => Bool.false_ne_true (body.symm.trans sound.1.2)
      have visit := visitHandle_record (checkRecord_body (same ▸ anchor) (same ▸ live) (same ▸ body)) nofun
      obtain ⟨u, removed, aged⟩ := visits_go_on
        (u := bump .parityRecord (report .tbl2 (ErrInfo.ofHandle h) a)) visited spares active later rfl rfl live same visit
      exact ⟨_, u, _, ages, removed, aged, made⟩
    · have named : (recordOf s h).slotOrig = pos ∨ (recordOf s h).slotReply = pos :=
        names.imp Eq.symm fun second => second.1.symm
      have visit {v : State} {c : Checked} (bad : Damaged sl) (check : checkSlot pos a = (v, c)) (failed : c ≠ .good) :
          visitHandle a h = v := by
        have same := spares.damaged h (visit_damaged live named at_ bad)
        refine visitHandle_slot ((recordIntact_congr same).2 intact) (same ▸ live) ?_ check failed
        rw [same]
        exact names.imp id fun second => ⟨second.1, fun sl at_ => second.2 sl (spares.fewer _ sl at_)⟩
      refine ⟨fun claim later => ?_, fun lose => last _ _ ?_⟩
      · have bad : Damaged sl := .inr claim.2.1
        have same := spares.damaged sl.handle (visit_damaged claim.2.2.1 claim.2.2.2 at_ bad)
        have claim' : Claimed a pos sl := by
          unfold Claimed
          rw [same]
          exact claim
        have visit := visit bad (checkSlot_claimed (spares.kept pos sl at_ bad) claim') nofun
        obtain ⟨u, removed, aged⟩ := visits_go_on (u := bump .paritySlot (report .tbl1 (ErrInfo.ofHandle sl.handle) a))
          visited spares active later rfl rfl claim.2.2.1 same visit
        exact ⟨_, u, _, ages, removed, aged, made⟩
      · refine visit lose.1 (checkSlot_lost (spares.kept pos sl at_ lose.1) lose.1 fun claim => lose.2 ?_) nofun
        obtain ⟨ref, key, names⟩ := claim
        exact ⟨ref, key, spares.live sl.handle names.1 ▸ names⟩

end Sys2Proof.Proofs
end
